-- ==== Sys2Proof/Word.lean ====
section
/-! DEFINITION. The words of the SP420: bytes, blocks of user data, stamps and message records as the
links carry them. A record of n bytes is a bit vector of 8n bits whose byte k is bits 8k to 8k + 7, so that
"least significant byte first" (section 13.1) is plain binary weight. -/

namespace Sys2Proof

/-- One byte. -/
abbrev Byte := BitVec 8

/-- A block: 4,096 bytes of user data (section 1.1). -/
abbrev Block := BitVec 32768

/-- The 160 bytes of a header or trailer stamp (section 13.2). -/
abbrev StampBytes := BitVec 1280

/-- The 16-byte record that begins every front link message (section 13.4). -/
abbrev MsgHead := BitVec 128

end Sys2Proof
end

