-- ==== Sys2Proof/Syntax.lean ====
section
/-! DEFINITION. The commands the SP420 takes: one constructor of `Instr` for each row of
spec/opcode_table.json, with the operands the row's message, result, pin event or maintenance write
carries. -/

namespace Sys2Proof

/-- The drive's two actuators (section 6). -/
inductive Actuator where
  | A
  | B
deriving DecidableEq, Repr

/-- The strap inputs ADDR0, ADDR1 and FMT_EN (section 5); `true` is high. -/
structure Straps where
  addr0 : Bool
  addr1 : Bool
  fmtEn : Bool
deriving DecidableEq, Repr

/-- A complete maintenance write apart from its command byte: the 7-bit target address and the payload whose
length the length byte gave (R187). -/
structure MaintWrite where
  addr : BitVec 7
  payload : List Byte
deriving DecidableEq, Repr

/-- How a maintenance write went wrong (R187): it ended before its full payload, or its length byte was above
32. -/
inductive BadWrite where
  | endedEarly
  | lengthAbove (len : Byte)
deriving DecidableEq, Repr

/-- The four results of a SEGMENT WRITE (R104). -/
inductive WriteResult where
  | done
  | writeFault
  | supplyLate
  | notReady
deriving DecidableEq, Repr

/-- The results of a SEGMENT READ as the sequencer returns them (R105): whatever header stamp, trailer stamp and
payload it found, UNREADABLE, or NOT_READY. -/
inductive ReadResult where
  | done (header trailer : Option StampBytes) (payload : List Block)
  | unreadable
  | notReady
deriving DecidableEq, Repr

/-- One entry of a STAMP SCAN as the sequencer returns it (R106): the stamps found and the payload fold, or
UNREADABLE for that segment alone. -/
inductive ScanRaw where
  | found (header trailer : Option StampBytes) (fold : BitVec 32)
  | unreadable
deriving DecidableEq, Repr

/-- The results of a STAMP SCAN (R106). -/
inductive ScanResult where
  | entries (list : List ScanRaw)
  | notReady
deriving DecidableEq, Repr

/-- The commands. Tags, LBAs, counts and flags have the widths of the front link message record (section 13.4);
issue numbers are the 16-bit numbers of R103. -/
inductive Instr where
  | powerOn (straps : Straps) (wprot : Bool)
  | resetN
  | wprotAsserted
  | wprotDeasserted
  | frontLinkReset
  | read (tag : Byte) (lba : BitVec 40) (count : BitVec 24)
  | write (tag : Byte) (lba : BitVec 40) (count : BitVec 24) (flags : Byte)
  | release (tag : Byte) (lba : BitVec 40) (count : BitVec 24)
  | flush (tag : Byte)
  | unknownMessage (kind : Byte)
  | writeData (tag : Byte) (data : Block)
  | dataPhaseStart
  | dataPull
  | releaseAcceptance
  | flushAcceptance
  | frameGrant
  | readDataDelivery (tag : Byte)
  | arbiterRun (port : Actuator)
  | segmentWriteResult (port : Actuator) (issue : BitVec 16) (result : WriteResult)
  | segmentReadResult (port : Actuator) (issue : BitVec 16) (result : ReadResult)
  | stampScanResult (port : Actuator) (issue : BitVec 16) (result : ScanResult)
  | checkpointStart
  | reclaimTriggerTest
  | reclaimCommit
  | portDown (port : Actuator)
  | portUp (port : Actuator)
  | responseTimerExpiry (port : Actuator)
  | idleTimerExpiry (lane : Nat)
  | releaseTimerExpiry (lane : Nat)
  | holdTimerExpiry
  | portWaitExpiry (tag : Byte)
  | idleClockExpiry
  | identify (w : MaintWrite)
  | getSetting (w : MaintWrite)
  | setSetting (w : MaintWrite)
  | apply (w : MaintWrite)
  | format (w : MaintWrite)
  | checkpoint (w : MaintWrite)
  | closeLanes (w : MaintWrite)
  | readException (w : MaintWrite)
  | bandCensus (w : MaintWrite)
  | laneReport (w : MaintWrite)
  | bandReport (w : MaintWrite)
  | resetDevice (w : MaintWrite) (straps : Straps)
  | unknownCommand (w : MaintWrite) (code : Byte)
  | malformed (addr : BitVec 7) (how : BadWrite)
  | portBusyNack (addr : BitVec 7)
  | resetNDeasserted (straps : Straps)
deriving DecidableEq, Repr

end Sys2Proof
end

