-- ==== Sys2Proof/Config.lean ====
section
/-! DEFINITION. What the SP420 fixes for every part (section 3.1 and the numbers of the rules), and the free
values: what the specification leaves open, as constants without a body, so that nothing can be proved of them. -/

namespace Sys2Proof.Config

/-- Records the extent table can hold (R17). -/
def mapCapacity : Nat := 262144

/-- Free records below which front work is not begun (R35, R36). -/
def frontReserve : Nat := 66

/-- Free records below which a reclaim commit waits (R37). -/
def commitReserve : Nat := 2

/-- Free records below which the map is under map pressure (R40). -/
def pressureThreshold : Nat := 8192

/-- The longest extent record (R17). -/
def maxExtent : Nat := 65536

/-- Frames of the pool (R88). -/
def frameCount : Nat := 256

/-- Unanswered pulls the admission gate may have (R93). -/
def pullWindow : Nat := 16

/-- Attempts of a frame or a notice before it is abandoned (R85, R153). -/
def maxWriteAttempts : Nat := 4

/-- Attempts of a segment read, a source read or a page read (R121, R139, R166). -/
def maxReadAttempts : Nat := 3

/-- Free checkpoint-ring segments a notice and a RELEASE need (R150, R151). -/
def noticeReserve : Nat := 98

/-- Records of the notice batch (R151) and of one checkpoint-ring segment (R156). -/
def recordsPerSegment : Nat := 4096

/-- Extent pages of one checkpoint at most (R157). -/
def maxExtentPages : Nat := 64

/-- Places for ring counter values in a close segment (section 13.3). -/
def closePlaces : Nat := 96

/-- AHEAD entries of one port at most (R128). -/
def maxAhead : Nat := 2

/-- Source read entries of a job at most (R139). -/
def maxSourceReads : Nat := 8

/-- Cache segments of one migration pass at most (R145). -/
def maxPassSegments : Nat := 16

/-- Entries of the move list of one pass at most (R131, R138). -/
def maxMoves : Nat := 4096

/-- Items of the replay list (R171). -/
def replayCapacity : Nat := 131072

/-- The largest checkpoint ring, which the first scan of recovery covers (R164). -/
def largestRing : Nat := 4096

/-- Segments of one STAMP SCAN at most (R106). -/
def scanLimit : Nat := 256

/-- The sequence limit 2^48 − 65,536 (R15). -/
def sequenceLimit : Nat := 281474976645120

/-- The highest format epoch (R16). -/
def maxEpoch : Nat := 65535

/-- The least capacity limit FORMAT accepts, 2^20 (R9). -/
def minCapacity : Nat := 1048576

/-- The highest admission credit (R97). -/
def maxCredit : Nat := 65535

/-- The highest victim score (R136). -/
def maxScore : Nat := 16777215

/-- Where the counts of a LANE_REPORT and the tallies of a job saturate, 2^32 − 1 (R131, section 13.5). -/
def max32 : Nat := 4294967295

/-- The response limit of SEGMENT WRITE and SEGMENT READ in milliseconds (R103). -/
def responseLimit : Nat := 20000

/-- The response limit of STAMP SCAN in milliseconds (R103). -/
def scanResponseLimit : Nat := 60000

/-- FREE VALUE (log 4): which of several is taken first, where the rule says that either may be. -/
opaque pick : Nat → Nat

/-- FREE VALUE (log 4): the contents of slot `slot` of a frame whose read ended UNREADABLE or NOT_READY
(R105). -/
opaque undefinedBlock : (count slot : Nat) → Block

end Sys2Proof.Config
end

