-- ==== Sys2Proof/Machine/State.lean ====
section
/-! DEFINITION. The state of the SP420: everything its eleven blocks own (section 3), as plain data, and the
state right after a device reset. -/

namespace Sys2Proof.Machine

/-! ## Quantities that exist once per actuator (section 7) -/

/-- One value for actuator A and one for actuator B. -/
structure Two (α : Type) where
  a : α
  b : α
deriving DecidableEq, Repr

/-- The value of one actuator. -/
def Two.get {α : Type} (t : Two α) : Actuator → α
  | .A => t.a
  | .B => t.b

/-- The pair with one actuator's value changed. -/
def Two.modify {α : Type} (t : Two α) (x : Actuator) (f : α → α) : Two α :=
  match x with
  | .A => { t with a := f t.a }
  | .B => { t with b := f t.b }

/-- The same value for both actuators. -/
def Two.both {α : Type} (v : α) : Two α := ⟨v, v⟩

/-- The other actuator. -/
def other : Actuator → Actuator
  | .A => .B
  | .B => .A

/-! ## Units, geometry and stamps (chapter 1) -/

/-- The three media regions (section 1.2). -/
inductive Region where
  | band
  | cache
  | ckring
deriving DecidableEq, Repr

/-- A segment location (R4): the band index is 0 for a ring, and `seg` is the segment-in-band or the ring
index. -/
structure SegLoc where
  act : Actuator
  region : Region
  band : Nat
  seg : Nat
deriving DecidableEq, Repr

/-- A location: a segment location and a slot (R4). -/
structure Loc where
  segment : SegLoc
  slot : Nat
deriving DecidableEq, Repr

/-- The format-time geometry (R7). -/
structure Geometry where
  spb : Nat
  bpaA : Nat
  bpaB : Nat
  mcs : Nat
  cks : Nat
  lcap : Nat
deriving DecidableEq, Repr

/-- The segment kinds of a stamp (R10). -/
inductive SegKind where
  | data
  | reloc
  | bandpage
  | extpage
  | notice
  | close
deriving DecidableEq, Repr

/-- A run of a stamp or of an open frame (R10, R73). -/
structure Run where
  start : Nat
  len : Nat
  first : Nat
  source : Option Loc
deriving DecidableEq, Repr

/-- A stamp (R10). -/
structure Stamp where
  kind : SegKind
  epoch : Nat
  seq : Nat
  own : SegLoc
  lane : Nat
  runs : List Run
  void : BitVec 16
  filled : Nat
  check : BitVec 32
deriving DecidableEq, Repr

/-- The verdicts on a segment read (R13). -/
inductive Verdict where
  | good
  | blank
  | torn
  | corrupt
  | foreign
deriving DecidableEq, Repr

/-! ## The extent map (chapter 2) -/

/-- What an extent record maps its blocks to: the media from a first location on, or nothing kept (R17). -/
inductive ExtKind where
  | media (first : Loc)
  | lost
deriving DecidableEq, Repr

/-- An extent record (R17). -/
structure Extent where
  start : Nat
  len : Nat
  kind : ExtKind
deriving DecidableEq, Repr

/-! ## Bands and cache rings (chapter 3) -/

/-- The band states (R41). -/
inductive BandState where
  | blank
  | opened
  | draining
  | parked
  | full
  | cleaning
  | evacuated
  | retired
deriving DecidableEq, Repr

/-- A band record (R41). -/
structure Band where
  state : BandState
  owner : Option Nat
  reserved : Nat
  written : Nat
  bound : Nat
  valid : Nat
  extents : Nat
  closeSeq : Option Nat
  validAtSel : Option Nat
  evacSeq : Option Nat
  health : Nat
  readPins : Nat
deriving DecidableEq, Repr

/-- The band record FORMAT creates (R42). -/
def Band.blank : Band := ⟨.blank, none, 0, 0, 0, 0, 0, none, none, none, 0, 0⟩

/-- The counters and the pin table of a cache ring (R57, R61). -/
structure Ring where
  freeHead : Nat
  freeTarget : Nat
  migrateHead : Nat
  tail : Nat
  pins : List (Nat × Nat)
deriving DecidableEq, Repr

/-- What the band manager keeps for one actuator (R41, R44, R57). -/
structure BandMgr where
  bands : List Band
  parked : List Nat
  ring : Ring
deriving DecidableEq, Repr

/-! ## Write lanes (chapter 4) -/

/-- The lane states (R66). -/
inductive LaneState where
  | closed
  | opened
  | waiting
  | faulted
deriving DecidableEq, Repr

/-- A lane context (R65). Frames are named by their index in the pool. `granted` is a frame the pool granted to
the lane's waiting request and the lane has not bound yet (R72, R91); `wasClosed` says that the lane was CLOSED
before its fault (R66); `giveUpLater` says that CLOSE_LANES reached the lane during its data phase (R80). -/
structure Lane where
  state : LaneState
  act : Option Actuator
  band : Option Nat
  openFrame : Option Nat
  nextLba : Option Nat
  lastAccept : Option Nat
  idleTimer : Option Nat
  releaseTimer : Option Nat
  rebind : List Nat
  queues : Two (List Nat)
  granted : Option Nat
  wasClosed : Bool
  giveUpLater : Bool
deriving DecidableEq, Repr

/-- A lane after a reset or FORMAT (R65). -/
def Lane.fresh : Lane :=
  ⟨.closed, none, none, none, none, none, none, none, [], ⟨[], []⟩, none, false, false⟩

/-! ## Frame pool and write admission (chapter 5) -/

/-- The frame states (R88). -/
inductive FrameState where
  | free
  | inUse
  | awaitingUnpin
deriving DecidableEq, Repr

/-- The four frame classes WRITE, READ, RECLAIM and META (R90). -/
inductive FrameClass where
  | write
  | read
  | reclaim
  | metadata
deriving DecidableEq, Repr

/-- The owners of a frame (R88). -/
inductive Owner where
  | lane (n : Nat)
  | readServer
  | reclaim
  | ckpt
  | scanner
deriving DecidableEq, Repr

/-- A frame: the pool's record (R88) and the fields its owner keeps with its contents (R65, R72 to R76, R81).
`ringCtr` is the tail counter of a frame bound in a ring (R77), `promises` the promised slots whose pulls are
unanswered (R73), `written` that its SEGMENT WRITE has returned DONE. -/
structure Frame where
  state : FrameState
  cls : Option FrameClass
  owner : Option Owner
  bound : Option SegLoc
  pins : Nat
  payload : List Block
  ringCtr : Nat
  fill : Nat
  runs : List Run
  void : BitVec 16
  seq : Option Nat
  attempts : Nat
  waiters : List Nat
  promises : Nat
  closePending : Bool
  closed : Bool
  written : Bool
  stamp : Option Stamp
deriving DecidableEq, Repr

/-- A FREE frame. -/
def Frame.free : Frame :=
  ⟨.free, none, none, none, 0, List.replicate 16 0, 0, 0, [], 0, none, 0, [], 0, false, false, false, none⟩

/-- Who asks the pool for a frame (R91). -/
inductive Requester where
  | lane (n : Nat)
  | readEntry (loc : SegLoc)
  | source (loc : SegLoc)
  | page
  | close
  | notice
  | scanner (act : Actuator)
deriving DecidableEq, Repr

/-- The frame pool (R88, R91). -/
structure Pool where
  frames : List Frame
  waitMeta : List Requester
  waitReclaim : List Requester
  waitRead : List Requester
  waitWrite : List Requester
deriving DecidableEq, Repr

/-- Band pressure and admission credit of one actuator (R96, R97). -/
structure Credit where
  pressure : Bool
  q : Nat
deriving DecidableEq, Repr

/-- Why the block at the gate is held (R94). -/
inductive HoldCause where
  | protect
  | frame
  | place
  | credit
  | records
deriving DecidableEq, Repr

/-- A pull sent and not yet answered, with the slot promised to its block (R73, R93). -/
structure Pull where
  lba : Nat
  frame : Nat
  slot : Nat
  lane : Nat
deriving DecidableEq, Repr

/-- The current data phase and the admission gate (R93 to R101). -/
structure DataPhase where
  tag : Nat
  lba : Nat
  count : Nat
  lane : Nat
  redirected : Bool
  next : Nat
  accepted : Nat
  unanswered : List Pull
  hold : Option HoldCause
  holdTimer : Option Nat
  stopped : Bool
deriving DecidableEq, Repr

/-! ## Media ports (chapter 6) -/

/-- The media operations (R104, R105, R106). -/
inductive OpKind where
  | segmentWrite
  | segmentRead
  | stampScan
deriving DecidableEq, Repr

/-- The requesters of a port (section 6.4); during RECOVERING the scanner takes READ's place. -/
inductive OpReq where
  | ckpt
  | read
  | lane (n : Nat)
  | reclaim
  | scanner
deriving DecidableEq, Repr

/-- The modes of a STAMP SCAN (R106). -/
inductive ScanMode where
  | stopUnused
  | through
deriving DecidableEq, Repr

/-- An operation record (R102). `beforeUp` says that the operation was issued before the port's latest entry to
UP (R107). `live` is false once the requester no longer exists, and `releaseAtEnd` says that its frame is released
when the result arrives (R102, R114). -/
structure Op where
  kind : OpKind
  issue : Nat
  req : OpReq
  loc : SegLoc
  count : Nat
  mode : ScanMode
  floor : Nat
  frame : Option Nat
  stamp : Option StampBytes
  beforeUp : Bool
  live : Bool
  releaseAtEnd : Bool
deriving DecidableEq, Repr

/-- A port record (R102). The latches stand in the fixed order of R111: READ, lane 0 to lane 7, RECLAIM READ. -/
structure Port where
  up : Bool
  op : Option Op
  issue : Nat
  timer : Option Nat
  latches : List Bool
deriving DecidableEq, Repr

/-- A port after a device reset (R102). -/
def Port.fresh : Port := ⟨false, none, 0, none, List.replicate 10 false⟩

/-! ## Reads (chapter 7) -/

/-- The source of a block of a READ (R119). -/
inductive Source where
  | zero
  | frame (id : Nat) (loc : Loc)
  | media (loc : Loc)
  | absent
deriving DecidableEq, Repr

/-- The two failures of a READ (R124). -/
inductive ReadFail where
  | lost
  | mediaError
deriving DecidableEq, Repr

/-- A read record (R118). The failing LBA is kept as an index into the READ's blocks, with the outcome and the
actuator of the failing segment. -/
structure ReadRec where
  tag : Nat
  lba : Nat
  count : Nat
  sources : List Source
  next : Nat
  failing : Option (Nat × ReadFail × Actuator)
  waitTimer : Option Nat
deriving DecidableEq, Repr

/-- The states of a segment read entry and of a source read entry (R118, R139). -/
inductive EntryState where
  | waitingFrame
  | queued
  | inFlight
  | ready
deriving DecidableEq, Repr

/-- A segment read entry (R118). `droppedPins` are the pins of READs dropped at a front-link reset that wait for
the entry's result (R126); `dropped` marks an AHEAD entry dropped in flight (R130). -/
structure ReadEntry where
  loc : SegLoc
  ahead : Bool
  state : EntryState
  attempts : Nat
  frame : Option Nat
  interested : List Nat
  order : Nat
  droppedPins : Nat
  dropped : Bool
deriving DecidableEq, Repr

/-- A read-ahead record (R118, R127). -/
structure AheadRec where
  endLba : Option Nat
  band : Option Nat
  seg : Option Nat
deriving DecidableEq, Repr

/-- The read server (R118). -/
structure ReadServer where
  reads : List ReadRec
  entries : List ReadEntry
  order : Nat
  queues : Two (List SegLoc)
  ahead : Two AheadRec
deriving DecidableEq, Repr

/-! ## Reclaim engine (chapter 8) -/

/-- The triggers, in the order of R133. -/
inductive Trigger where
  | urgent
  | map
  | cacheHigh
  | pressure
  | idle
deriving DecidableEq, Repr

/-- The states of a move entry (R132). -/
inductive MoveState where
  | pending
  | held
  | inLane
  | committed
  | dead
  | lost
  | returned
deriving DecidableEq, Repr

/-- A move entry (R132). -/
structure Move where
  lba : Nat
  src : Loc
  state : MoveState
  dst : Option Loc
deriving DecidableEq, Repr

/-- A source read entry (R139). `live` is false once its job has ended (R144). -/
structure SourceRead where
  loc : SegLoc
  attempts : Nat
  frame : Option Nat
  state : EntryState
  live : Bool
deriving DecidableEq, Repr

/-- A job (R131). A band job has a victim; a cache job has none. `told` says that lane 7 has been told that the
pass's handing ended (R141); `advanced` that the pass advanced migrate_head (R145). -/
structure Job where
  trigger : Trigger
  act : Actuator
  victim : Option Nat
  pass : Nat
  sweepPos : Nat
  more : Bool
  running : Bool
  segs : List (Nat × Bool)
  pausePort : Bool
  pauseProtect : Bool
  moves : List Move
  told : Bool
  advanced : Bool
  committed : Nat
  dead : Nat
  lost : Nat
  returned : Nat
deriving DecidableEq, Repr

/-- The reclaim engine (R131). -/
structure Reclaim where
  job : Option Job
  sources : List SourceRead
  srcQueue : Two (List SegLoc)
  commitQ : List Nat
  commitAt : Nat
  noVictim : Two Bool
  noVictimMap : Bool
  latch : Two Bool
  idleClock : Option Nat
  idleExpired : Bool
deriving DecidableEq, Repr

/-! ## Checkpoints and release notices (chapter 9) -/

/-- A release record, with the tag of its RELEASE while that RELEASE is outstanding (R151, R152). -/
structure ReleaseRec where
  lba : Nat
  count : Nat
  seq : Nat
  tag : Option Nat
deriving DecidableEq, Repr

/-- The closed notice (R152): its records, its frame once granted, whether it is bound, and its failed attempts. -/
structure Notice where
  records : List ReleaseRec
  frame : Option Nat
  bound : Bool
  attempts : Nat
deriving DecidableEq, Repr

/-- The kinds of a checkpoint-ring segment in the ring queue (R150). -/
inductive RingKind where
  | page
  | close
  | notice
deriving DecidableEq, Repr

/-- A closed checkpoint-ring segment not yet written (R150). -/
structure RingSeg where
  kind : RingKind
  frame : Nat
  ctr : Nat
deriving DecidableEq, Repr

/-- The counters of a cache ring as captured at a checkpoint's start (R63, R155). -/
structure Captured where
  freeHead : Nat
  migrateHead : Nat
  tail : Nat
deriving DecidableEq, Repr

/-- What the META request of a running checkpoint asks a frame for. -/
inductive CkAsk where
  | nothing
  | page
  | close
deriving DecidableEq, Repr

/-- The checkpoint context of a running checkpoint (R155 to R158). `bandCursor` is absent once every band page has
been bound; `pageFrame` is a frame granted for a page that waits for free (R150); `noticeEnd` is one past the highest
counter of a notice bound since the start (R160). -/
structure CkRun where
  sStart : Nat
  startPos : Nat
  captured : Two Captured
  bandCursor : Option (Actuator × Nat)
  extCursor : Nat
  pagesA : Nat
  pagesB : Nat
  pagesExt : Nat
  pages : List Nat
  pagesDone : Nat
  ask : CkAsk
  pageFrame : Option Nat
  closeFrame : Option Nat
  closeBound : Bool
  noticeEnd : Nat
  answers : Bool
deriving DecidableEq, Repr

/-- The checkpoint writer (R149). `restart` says that the start which follows an abandoned checkpoint at once (R160) is
still to come: it leaves the wanted flag as it stands (log 3). -/
structure Ckpt where
  ringStart : Nat
  ringTail : Nat
  batch : List ReleaseRec
  notice : Option Notice
  queue : List RingSeg
  run : Option CkRun
  wanted : Bool
  restart : Bool
  dStart : Nat
  dComplete : Nat
  pendingBlank : List (Actuator × Nat × Nat)
  formatTries : Option Nat
deriving DecidableEq, Repr

/-- The checkpoint writer after a device reset or FORMAT (R149). -/
def Ckpt.fresh : Ckpt := ⟨0, 0, [], none, [], none, false, false, 0, 0, [], none⟩

/-! ## Settings (chapter 12) -/

/-- READ_AHEAD (R190). -/
inductive ReadAhead where
  | off
  | one
  | continuous
deriving DecidableEq, Repr

/-- A window (R68). -/
structure Window where
  base : Nat
  mask : Nat
  lane : Nat
  enabled : Bool
deriving DecidableEq, Repr

/-- The settings other than the geometry (R190). -/
structure Settings where
  streamMin : Nat
  idleLimit : Nat
  laneRelease : Nat
  holdLimit : Nat
  blankLow : Nat
  reserve : Nat
  cacheHigh : Nat
  cacheLow : Nat
  ckSegments : Nat
  idleMigrate : Nat
  readAhead : ReadAhead
  windows : List Window
deriving DecidableEq, Repr

/-- The default settings (R190). -/
def Settings.default : Settings :=
  ⟨64, 200, 30, 5000, 16, 4, 75, 40, 32768, 5, .continuous, List.replicate 8 ⟨0, 0, 0, false⟩⟩

/-- The default pending geometry (R8). -/
def Geometry.default : Geometry := ⟨4096, 40960, 40960, 16384, 1024, 1099511627776⟩

/-! ## Start-up, recovery and format (chapter 10) -/

/-- The service states (R162). -/
inductive Service where
  | recovering
  | ready
  | unformatted
  | formatting
  | halted
deriving DecidableEq, Repr

/-- What a scan told of one segment: its verdict (none for UNREADABLE), the epoch and sequence of the stamp found,
and the stamp itself when the verdict is GOOD (R106). -/
structure ScanEntry where
  verdict : Option Verdict
  stamped : Bool
  epoch : Nat
  seq : Nat
  stamp : Option Stamp
deriving DecidableEq, Repr

/-- The contents of a close segment (R158). -/
structure CloseInfo where
  stamp : Stamp
  sStart : Nat
  epoch : Nat
  startPos : Nat
  pagesA : Nat
  pagesB : Nat
  pagesExt : Nat
  geom : Geometry
  captured : Two Captured
  settings : Settings
  pages : List Nat
deriving DecidableEq, Repr

/-- One operation, or stretch of operations, of the recovery scanner: a ring scan from an index (R164), the read of
a close (R165), of a page (R166) or of a notice (R170), a band scan (R167), a blank-band scan (R168), the two
stretches of a cache scan from a counter value (R169), and a stretch of a later round (R171). -/
inductive RecTask where
  | ring (idx : Nat)
  | close (stamp : Stamp)
  | page (k : Nat)
  | notice (stamp : Stamp)
  | band (b : Nat) (seg : Nat)
  | blank (b : Nat)
  | verify (ctr left : Nat)
  | collect (ctr left : Nat)
  | again (loc : SegLoc) (left : Nat)
deriving DecidableEq, Repr

/-- An outstanding operation with the attempts of a read and the frame granted for it. -/
structure RecWork where
  task : RecTask
  attempts : Nat
  frame : Option Nat
deriving DecidableEq, Repr

/-- A band walk (R167): where it started, the derived written pointer, whether it ended, and whether it ended at a
TORN entry; `used` marks a band found used by the blank-band scan (R168). -/
structure Walk where
  act : Actuator
  band : Nat
  start : Nat
  derived : Nat
  ended : Bool
  torn : Bool
  used : Bool
deriving DecidableEq, Repr

/-- An item of the replay list (R171). -/
inductive ReplayItem where
  | segment (stamp : Stamp)
  | release (lba count seq : Nat)
deriving DecidableEq, Repr

/-- The phases of recovery. `held` waits for the end of RESET_N; `off` when no recovery runs. -/
inductive RecPhase where
  | off
  | held
  | ringScan
  | closeRead
  | pages
  | scans
  | round
deriving DecidableEq, Repr

/-- The recovery scanner (R163 to R174). -/
structure Recovery where
  phase : RecPhase
  work : Two (List RecWork)
  ring : List ScanEntry
  chosen : Option CloseInfo
  walks : List Walk
  found : List (SegLoc × Option Stamp)
  passed : Two (List SegLoc)
  derivedTail : Two Nat
  collectDone : Two Bool
  items : List ReplayItem
  ceiling : Option Nat
  floor : Nat
  notices : List Stamp
  maxSeq : Nat
  stampsCollected : Nat
deriving DecidableEq, Repr

/-- The scanner with no recovery running. -/
def Recovery.off : Recovery :=
  ⟨.off, ⟨[], []⟩, [], none, [], [], ⟨[], []⟩, ⟨0, 0⟩, ⟨false, false⟩, [], none, 0, [], 0, 0⟩

/-- The scanner at the start of recovery: the first STAMP SCAN of the checkpoint ring stands ready at port A
(R164). -/
def Recovery.start : Recovery :=
  { Recovery.off with phase := .ringScan, work := ⟨[⟨.ring 0, 0, none⟩], []⟩ }

/-- The scanner while RESET_N is asserted (R163). -/
def Recovery.held : Recovery := { Recovery.off with phase := .held }

/-! ## Front link (chapter 11) -/

/-- The request kinds (section 11.1). -/
inductive ReqKind where
  | read
  | write
  | release
  | flush
deriving DecidableEq, Repr

/-- Where an outstanding request stands (R177). -/
inductive Stand where
  | queued
  | inTurn
  | accepted
  | reading
deriving DecidableEq, Repr

/-- An IN USE entry of the tag table (R177), with what its completion needs: the accepted count of a WRITE (R181),
the lowest LBA reported lost (R81) or that any loss was told (FLUSH), and the RELEASEs a FLUSH recorded (R183). -/
structure TagEntry where
  kind : ReqKind
  lba : Nat
  count : Nat
  durable : Bool
  stand : Stand
  accepted : Nat
  lostLba : Option Nat
  releases : List Nat
  releaseFailed : Bool
deriving DecidableEq, Repr

/-- The completion outcomes (section 11.1). -/
inductive Outcome where
  | good
  | partly
  | lost
  | mediaError
  | tagInUse
  | notReady
  | outOfRange
  | writeProtected
deriving DecidableEq, Repr

/-- The messages to the front end (section 11.1). -/
inductive FrontMsg where
  | dataPull (tag : Nat)
  | readData (tag lba : Nat) (data : Block)
  | completion (tag : Nat) (outcome : Outcome) (detail : Nat)
deriving DecidableEq, Repr

/-! ## Maintenance port and exceptions (chapter 12) -/

/-- The response statuses (R188). -/
inductive Status where
  | none
  | busy
  | good
  | clamped
  | empty
  | malformed
  | unknownCommand
  | badLength
  | badArgument
  | wrongState
  | strapLow
  | requestsOpen
  | writeProtected
  | formatLimit
  | badGeometry
deriving DecidableEq, Repr

/-- The maintenance port (R187, R188, R190). `busy` is a CHECKPOINT command still running; `awaitStart` that the
checkpoint which answers it has not started yet (R154, R189). -/
structure Maint where
  busy : Bool
  awaitStart : Bool
  status : Status
  payload : List Byte
  pend : Settings
  work : Settings
deriving DecidableEq, Repr

/-- The twelve exception kinds (section 12.4). -/
inductive ExcKind where
  | writeFault
  | supplyLate
  | dataLost
  | readFailed
  | moveFailed
  | mapPressure
  | bandRetired
  | portDown
  | writeHeldExpired
  | noVictim
  | checkpointFailed
  | recoveryTorn
deriving DecidableEq, Repr

/-- An exception record (R192). -/
structure Exc where
  kind : ExcKind
  act : Actuator
  occurrences : Nat
  firstSeen : Nat
  detail1 : Nat
  detail2 : Nat
deriving DecidableEq, Repr

/-! ## The whole part -/

/-- The state of the SP420 and the queue of the commands waiting for it. -/
structure State where
  pending : List Instr
  now : Nat
  freeCount : Nat
  straps : Straps
  wprot : Bool
  resetN : Bool
  gate : Bool
  service : Service
  geom : Option Geometry
  pendGeom : Geometry
  seq : Option Nat
  seqLimit : Bool
  epoch : Option Nat
  highEpoch : Option Nat
  extents : List Extent
  earmarks : Nat
  mapPressure : Bool
  bm : Two BandMgr
  cleared : Option Nat
  lanes : List Lane
  pool : Pool
  credit : Two Credit
  phase : Option DataPhase
  ports : Two Port
  rs : ReadServer
  rc : Reclaim
  ck : Ckpt
  recov : Recovery
  tags : List (Option TagEntry)
  intake : List Nat
  frontOut : List FrontMsg
  maint : Maint
  exceptions : List Exc
deriving DecidableEq, Repr

/-- Nothing makes the machine stop: every command has the effect the spec gives it, and errors are exceptions,
verdicts, outcomes and statuses in State. No constructor, so no step ends in a fault. -/
inductive Fault : Type
deriving DecidableEq, Repr

/-- Why a command has no meaning in the model. -/
inductive Refusal where
  /-- Raised by `exec` for a command the model has no meaning for; safe (the model stops). No arm raises it. -/
  | notModelled (mnemonic : String)
deriving DecidableEq, Repr

/-- The frame pool after a device reset (R89). -/
def Pool.fresh : Pool := ⟨List.replicate Config.frameCount Frame.free, [], [], [], []⟩

/-- The band manager of one actuator with its tables discarded (R42, R57). -/
def BandMgr.discarded : BandMgr := ⟨[], [], ⟨0, 0, 0, 0, []⟩⟩

/-- The read server with no READ and no entry (R118). -/
def ReadServer.fresh : ReadServer := ⟨[], [], 0, ⟨[], []⟩, Two.both ⟨none, none, none⟩⟩

/-- The reclaim engine after a device reset (R131). -/
def Reclaim.fresh : Reclaim :=
  ⟨none, [], ⟨[], []⟩, [], 0, Two.both false, false, Two.both false, none, false⟩

/-- The maintenance port after a device reset (R188, R190). -/
def Maint.fresh : Maint := ⟨false, false, .none, [], Settings.default, Settings.default⟩

/-- The machine right after a device reset (R163) with the straps and the WPROT level it found; the recovery
scanner is about to issue its first scan. -/
def State.afterReset (straps : Straps) (wprot : Bool) : State where
  pending := []
  now := 0
  freeCount := 0
  straps := straps
  wprot := wprot
  resetN := false
  gate := wprot
  service := .recovering
  geom := none
  pendGeom := Geometry.default
  seq := none
  seqLimit := false
  epoch := none
  highEpoch := none
  extents := []
  earmarks := 0
  mapPressure := false
  bm := Two.both BandMgr.discarded
  cleared := none
  lanes := List.replicate 8 Lane.fresh
  pool := Pool.fresh
  credit := Two.both ⟨false, 0⟩
  phase := none
  ports := Two.both Port.fresh
  rs := ReadServer.fresh
  rc := Reclaim.fresh
  ck := Ckpt.fresh
  recov := Recovery.start
  tags := List.replicate 64 none
  intake := []
  frontOut := []
  maint := Maint.fresh
  exceptions := []

/-- The machine right after reset, with low straps and WPROT deasserted (log 5). -/
def State.reset : State := State.afterReset ⟨false, false, false⟩ false

end Sys2Proof.Machine
end

