-- ==== Sys2Proof/Machine/Locations.lean ====
section
/-! DEFINITION. Geometry and location arithmetic (R2 to R9) and the records built on it: runs and stamps. -/

namespace Sys2Proof.Machine

/-- Bands of one actuator (R7). -/
def Geometry.bpa (g : Geometry) : Actuator → Nat
  | .A => g.bpaA
  | .B => g.bpaB

/-- Band capacity C in blocks (R2). -/
def Geometry.cap (g : Geometry) : Nat := g.spb * 16

/-- Segments of the band or ring that a region of this geometry has (R2, R3). -/
def Geometry.segments (g : Geometry) : Region → Nat
  | .band => g.spb
  | .cache => g.mcs
  | .ckring => g.cks

/-- The capacity limit of a geometry (R9). The subtraction cannot fall below zero in the field: a count of bands no
more than 2 × BLANK_LOW gives a limit of 0, which FORMAT refuses. -/
def Geometry.limit (g : Geometry) (blankLow : Nat) : Nat :=
  (g.bpaA + g.bpaB - 2 * blankLow) * g.cap * 7 / 8

/-- Whether a segment location is valid (R4): every field in range under the geometry in force, and no CKRING on B.
While no geometry is in force only the CKRING locations of the largest ring are valid (R164, log 10). -/
def SegLoc.valid (l : SegLoc) : Option Geometry → Bool
  | some g =>
    match l.region with
    | .band => decide (l.band < g.bpa l.act) && decide (l.seg < g.spb)
    | .cache => decide (l.seg < g.mcs)
    | .ckring => decide (l.act = .A) && decide (l.seg < g.cks)
  | none => decide (l.region = .ckring) && decide (l.act = .A) && decide (l.seg < Config.largestRing)

/-- Whether a location is valid (R4). -/
def Loc.valid (l : Loc) (g : Option Geometry) : Bool := l.segment.valid g && decide (l.slot < 16)

/-- The location of a slot of a segment. -/
def SegLoc.at (l : SegLoc) (slot : Nat) : Loc := ⟨l, slot⟩

/-- The block offset of a location (R5). -/
def Loc.offset (l : Loc) : Nat := l.segment.seg * 16 + l.slot

/-- The location i blocks further on (R5), by arithmetic alone: whether it exists is `Loc.reaches`. -/
def Loc.further (l : Loc) (i : Nat) : Loc :=
  ⟨{ l.segment with seg := (l.offset + i) / 16 }, (l.offset + i) % 16⟩

/-- Whether the location i blocks further on exists: the offset stays within the band or ring (R5). -/
def Loc.reaches (l : Loc) (i : Nat) : Option Geometry → Bool
  | some g => decide (l.offset + i < g.segments l.segment.region * 16)
  | none => true

/-- Contiguity (R6): m is the location one block further on from l. -/
def Loc.contiguous (l m : Loc) (g : Option Geometry) : Bool :=
  decide (m = l.further 1) && l.reaches 1 g

/-- The LBA run a stamp or an open frame records covers slot `slot` with this LBA (R11), when it does. -/
def Run.lbaAt (r : Run) (slot : Nat) : Option Nat :=
  if r.first ≤ slot ∧ slot < r.first + r.len then some (r.start + (slot - r.first)) else none

/-- The source location a RELOC run gives for slot `slot` (R11). -/
def Run.sourceAt (r : Run) (slot : Nat) : Option Loc :=
  if r.first ≤ slot ∧ slot < r.first + r.len then r.source.map (fun l => l.further (slot - r.first)) else none

/-- The LBA that a list of runs places at a slot. -/
def runsLba (rs : List Run) (slot : Nat) : Option Nat := rs.findSome? (fun r => r.lbaAt slot)

/-- The source location that a list of runs gives for a slot. -/
def runsSource (rs : List Run) (slot : Nat) : Option Loc := rs.findSome? (fun r => r.sourceAt slot)

/-- Whether a stamp agrees with a block (R121, R139): it is DATA or RELOC and one of its runs places the LBA at the
slot. -/
def Stamp.agrees (t : Stamp) (lba slot : Nat) : Bool :=
  (decide (t.kind = .data) || decide (t.kind = .reloc)) && decide (runsLba t.runs slot = some lba)

/-- The run list with one more block at slot `slot` (R73): the block joins the last run when its LBA continues it
and, for a relocation block, its source does too; otherwise a new run begins. -/
def extendRuns (rs : List Run) (lba slot : Nat) (source : Option Loc) : List Run :=
  match rs.getLast? with
  | some r =>
    if lba = r.start + r.len ∧ source = r.source.map (fun l => l.further r.len) then
      rs.dropLast ++ [{ r with len := r.len + 1 }]
    else rs ++ [⟨lba, 1, slot, source⟩]
  | none => [⟨lba, 1, slot, source⟩]

/-- Whether a block would need a ninth run (R73). -/
def needsNinthRun (rs : List Run) (lba : Nat) (source : Option Loc) : Bool :=
  decide (8 < (extendRuns rs lba 0 source).length)

end Sys2Proof.Machine
end

