-- ==== Sys2Proof/Machine/ExtentTable.lean ====
section
/-! DEFINITION. The extent table as a pure data structure (R17, R18, R22 to R32, R39): an ordered list of extent
records and the steps that the extent map's operations are made of. What an operation does to the rest of the part
(band counters, exceptions, waiters) is in Machine/ExtentMap.lean. -/

namespace Sys2Proof.Machine

/-- One past the last LBA a record covers (R17). -/
def Extent.stop (e : Extent) : Nat := e.start + e.len

/-- Whether a record covers an LBA (R17). -/
def Extent.covers (e : Extent) (lba : Nat) : Bool := decide (e.start ≤ lba) && decide (lba < e.stop)

/-- The mapping of the LBA i blocks into a record (R18). -/
def ExtKind.further : ExtKind → Nat → ExtKind
  | .media l, i => .media (l.further i)
  | .lost, _ => .lost

/-- The band that is the home of a record (R18). -/
def Extent.home (e : Extent) : Option (Actuator × Nat) :=
  match e.kind with
  | .media l => if l.segment.region = .band then some (l.segment.act, l.segment.band) else none
  | .lost => none

/-- The record covering an LBA. -/
def covering (t : List Extent) (lba : Nat) : Option Extent := t.find? (fun e => e.covers lba)

/-- What Lookup tells of one block (R22), without the held indication. -/
inductive Mapped where
  | unmapped
  | lost
  | media (l : Loc)
deriving DecidableEq, Repr

/-- Lookup of one block (R22). -/
def lookup (t : List Extent) (lba : Nat) : Mapped :=
  match covering t lba with
  | none => .unmapped
  | some e =>
    match e.kind with
    | .lost => .lost
    | .media l => .media (l.further (lba - e.start))

/-- What is left of a record when the LBAs from lo to hi − 1 are taken out of it: nothing, a front part, a back
part, or both (R24, R28). -/
def Extent.cut (e : Extent) (lo hi : Nat) : List Extent :=
  if e.stop ≤ lo ∨ hi ≤ e.start then [e] else
    (if e.start < lo then [{ e with len := lo - e.start }] else []) ++
    (if hi < e.stop then [⟨hi, e.stop - hi, e.kind.further (hi - e.start)⟩] else [])

/-- The table with the LBAs from lo to hi − 1 unmapped (R24, R28). -/
def cutTable (t : List Extent) (lo hi : Nat) : List Extent := t.flatMap (fun e => e.cut lo hi)

/-- A record put in its place in ascending order of start LBA (R17). -/
def insertRecord (x : Extent) : List Extent → List Extent
  | [] => [x]
  | e :: t => if x.start < e.start then x :: e :: t else e :: insertRecord x t

/-- Whether the predecessor record p absorbs a mapping k of lba (R25, and R31 for LOST). -/
def Extent.absorbsAfter (p : Extent) (g : Option Geometry) (lba : Nat) (k : ExtKind) : Bool :=
  decide (p.stop = lba) && decide (p.len < Config.maxExtent) &&
  match p.kind, k with
  | .media l, .media m => (l.further (p.len - 1)).contiguous m g
  | .lost, .lost => true
  | _, _ => false

/-- Whether the successor record s absorbs a mapping k of lba (R25, and R31 for LOST). -/
def Extent.absorbsBefore (s : Extent) (g : Option Geometry) (lba : Nat) (k : ExtKind) : Bool :=
  decide (s.start = lba + 1) && decide (s.len < Config.maxExtent) &&
  match k, s.kind with
  | .media l, .media m => l.contiguous m g
  | .lost, .lost => true
  | _, _ => false

/-- The insertion step: map lba, which no record covers, to k (R25; R31 for LOST). Where both neighbours could absorb it and
the joined length is too great the predecessor does, for LOST as for MEDIA (log 44). -/
def insertMapping (g : Option Geometry) (t : List Extent) (lba : Nat) (k : ExtKind) : List Extent :=
  match t.find? (fun e => e.absorbsAfter g lba k), t.find? (fun e => e.absorbsBefore g lba k) with
  | none, none => insertRecord ⟨lba, 1, k⟩ t
  | some p, none => t.map (fun e => if e = p then { e with len := e.len + 1 } else e)
  | none, some s => t.map (fun e => if e = s then ⟨lba, e.len + 1, k⟩ else e)
  | some p, some s =>
    if p.len + 1 + s.len ≤ Config.maxExtent then
      (t.filter (fun e => e ≠ s)).map (fun e => if e = p then { e with len := p.len + 1 + s.len } else e)
    else t.map (fun e => if e = p then { e with len := e.len + 1 } else e)

/-- The removal and insertion steps together, mapping lba to k with `free` records free; none when a step needs a
record and none is free (R24, R25, R39). -/
def remap (g : Option Geometry) (free : Nat) (t : List Extent) (lba : Nat) (k : ExtKind) : Option (List Extent) :=
  let t1 := cutTable t lba (lba + 1)
  if t.length < t1.length ∧ free = 0 then none else
    let t2 := insertMapping g t1 lba k
    if t1.length < t2.length ∧ free + t.length - t1.length = 0 then none else some t2

/-- A LOST record merged with the LOST record that adjoins it from below, within the length limit (R39). -/
def mergeLostBelow (t : List Extent) (x : Extent) : List Extent × Extent :=
  match t.find? (fun e => decide (e.kind = .lost) && decide (e.stop = x.start) &&
      decide (e.len + x.len ≤ Config.maxExtent)) with
  | some p => (t.filter (fun e => e ≠ p), ⟨p.start, p.len + x.len, .lost⟩)
  | none => (t, x)

/-- A LOST record merged with the LOST record that adjoins it from above, within the length limit (R39). -/
def mergeLostAbove (t : List Extent) (x : Extent) : List Extent × Extent :=
  match t.find? (fun e => decide (e.kind = .lost) && decide (e.start = x.stop) &&
      decide (e.len + x.len ≤ Config.maxExtent)) with
  | some n => (t.filter (fun e => e ≠ n), ⟨x.start, x.len + n.len, .lost⟩)
  | none => (t, x)

/-- The table with a record converted whole to LOST and merged with its LOST neighbours (R39), the lower one first where
the length limit does not let it merge with both (log 44). -/
def convertLost (t : List Extent) (e : Extent) : List Extent :=
  let (t1, x1) := mergeLostBelow (t.filter (fun r => r ≠ e)) ⟨e.start, e.len, .lost⟩
  let (t2, x2) := mergeLostAbove t1 x1
  insertRecord x2 t2

/-- The record a Release would split: it starts before the range and ends after it (R28). -/
def splitBy (t : List Extent) (lba count : Nat) : Option Extent :=
  t.find? (fun e => decide (e.start < lba) && decide (lba + count < e.stop))

/-- Blocks mapped, MEDIA and LOST together, in the range (R28). -/
def mappedIn (t : List Extent) (lba count : Nat) : Nat :=
  (t.map (fun e => min e.stop (lba + count) - max e.start lba)).sum

/-- A list in ascending order of a key, equal keys in the order they stood. -/
def insertByKey {α : Type} (key : α → Nat) (x : α) : List α → List α
  | [] => [x]
  | y :: l => if key x ≤ key y then x :: y :: l else y :: insertByKey key x l

/-- The list sorted by a key. -/
def sortByKey {α : Type} (key : α → Nat) : List α → List α
  | [] => []
  | x :: l => insertByKey key x (sortByKey key l)

/-- The target of a Sweep (R23): a band, or a cache segment. -/
inductive SweepTarget where
  | band (act : Actuator) (band : Nat)
  | cacheSeg (act : Actuator) (idx : Nat)
deriving DecidableEq, Repr

/-- Whether a location lies in a Sweep's target. -/
def SweepTarget.holds : SweepTarget → Loc → Bool
  | .band a b, l => decide (l.segment.act = a) && decide (l.segment.region = .band) && decide (l.segment.band = b)
  | .cacheSeg a i, l => decide (l.segment.act = a) && decide (l.segment.region = .cache) && decide (l.segment.seg = i)

/-- The LBA and location of each block of a record. -/
def Extent.blocks (e : Extent) : List (Nat × Loc) :=
  match e.kind with
  | .lost => []
  | .media l => (List.range e.len).map (fun i => (e.start + i, l.further i))

/-- Sweep (R23): the mapped blocks of the target from block offset `pos` on, in ascending offset, at most `limit` of
them, and whether more lie beyond. The offset of a cache segment is counted within the ring. -/
def sweep (t : List Extent) (target : SweepTarget) (pos limit : Nat) : List (Nat × Loc) × Bool :=
  let all := sortByKey (fun x => x.2.offset)
    ((t.flatMap Extent.blocks).filter (fun x => target.holds x.2 && decide (pos ≤ x.2.offset)))
  (all.take limit, decide (limit < all.length))

end Sys2Proof.Machine
end

