-- ==== Sys2Proof/Machine/Layout.lean ====
section
/-! DEFINITION. The record layouts of chapter 13, the check word (R12) and the verdicts on what was read back
(R13, R194). Records are built as lists of bytes, least significant byte first, and read field by field. -/

namespace Sys2Proof.Machine

/-! ## Bytes and fields (section 13.1) -/

/-- A number in w bytes, least significant byte first (section 13.1). -/
def leBytes (w n : Nat) : List Byte := (List.range w).map (fun k => BitVec.ofNat 8 (n >>> (8 * k)))

/-- The number that bytes spell, least significant byte first. -/
def leNat (bs : List Byte) : Nat := bs.foldr (fun b acc => b.toNat + 256 * acc) 0

/-- The field of w bytes at byte offset `off` of a record read as a number. -/
def fieldAt (n off w : Nat) : Nat := (n >>> (8 * off)) % 2 ^ (8 * w)

/-- One byte as a list. -/
def byte1 (n : Nat) : List Byte := [BitVec.ofNat 8 n]

/-- The code of an actuator (section 13.1). -/
def actCode : Actuator → Nat
  | .A => 0
  | .B => 1

/-- The actuator of a code. -/
def actuatorOf : Nat → Option Actuator
  | 0 => some .A
  | 1 => some .B
  | _ => none

/-- The code of a region (section 13.1). -/
def Region.code : Region → Nat
  | .band => 0
  | .cache => 1
  | .ckring => 2

/-- The region of a code. -/
def regionOf : Nat → Option Region
  | 0 => some .band
  | 1 => some .cache
  | 2 => some .ckring
  | _ => none

/-- The code of a segment kind (section 13.2). -/
def SegKind.code : SegKind → Nat
  | .data => 1
  | .reloc => 2
  | .bandpage => 3
  | .extpage => 4
  | .notice => 5
  | .close => 6

/-- The segment kind of a code. -/
def segKindOf : Nat → Option SegKind
  | 1 => some .data
  | 2 => some .reloc
  | 3 => some .bandpage
  | 4 => some .extpage
  | 5 => some .notice
  | 6 => some .close
  | _ => none

/-- The code of a band state (section 13.3). -/
def BandState.code : BandState → Nat
  | .blank => 0
  | .opened => 1
  | .draining => 2
  | .parked => 3
  | .full => 4
  | .cleaning => 5
  | .evacuated => 6
  | .retired => 7

/-- The band state of a code. -/
def bandStateOf : Nat → Option BandState
  | 0 => some .blank
  | 1 => some .opened
  | 2 => some .draining
  | 3 => some .parked
  | 4 => some .full
  | 5 => some .cleaning
  | 6 => some .evacuated
  | 7 => some .retired
  | _ => none

/-- The eight bytes of a location, or of an absent one (section 13.1). -/
def locBytes : Option Loc → List Byte
  | none => List.replicate 8 0xFF
  | some l =>
    byte1 (actCode l.segment.act) ++ byte1 l.segment.region.code ++ leBytes 2 l.segment.band ++
    leBytes 2 l.segment.seg ++ byte1 l.slot ++ byte1 0

/-- A location field as read: its code and index values, or absent. The band index of a ring location is a byte
that no field occupies (R194). -/
inductive RawLoc where
  | missing
  | codes (act region band seg slot : Nat)
deriving DecidableEq, Repr

/-- The location field of a record at byte offset `off`. -/
def rawLocAt (n off : Nat) : RawLoc :=
  if fieldAt n off 8 = 2 ^ 64 - 1 then .missing
  else
    let region := fieldAt n (off + 1) 1
    .codes (fieldAt n off 1) region (if region = 0 then fieldAt n (off + 2) 2 else 0) (fieldAt n (off + 4) 2)
      (fieldAt n (off + 6) 1)

/-- The location a field names, when its codes name one. -/
def RawLoc.toLoc : RawLoc → Option Loc
  | .missing => none
  | .codes a r b s k =>
    match actuatorOf a, regionOf r with
    | some a, some r => some ⟨⟨a, r, b, s⟩, k⟩
    | _, _ => none

/-! ## The stamp (section 13.2) -/

/-- The 16 bytes of a run entry. -/
def Run.bytes (r : Run) : List Byte :=
  leBytes 5 r.start ++ byte1 r.len ++ byte1 r.first ++ byte1 0 ++ locBytes r.source

/-- The 160 bytes of a stamp (R10, section 13.2). -/
def Stamp.bytes (t : Stamp) : StampBytes :=
  BitVec.ofNat 1280 (leNat (
    byte1 t.kind.code ++ byte1 t.lane ++ byte1 t.runs.length ++ byte1 t.filled ++ leBytes 2 t.epoch ++
    leBytes 2 t.void.toNat ++ leBytes 6 t.seq ++ leBytes 2 0 ++ locBytes (some ⟨t.own, 0⟩) ++
    leBytes 4 t.check.toNat ++ leBytes 4 0 ++ t.runs.flatMap Run.bytes))

/-- A run entry as read. -/
structure RawRun where
  start : Nat
  len : Nat
  first : Nat
  source : RawLoc
deriving DecidableEq, Repr

/-- The fields of a stamp as read, before any is judged. Run entries past the run count are bytes that no field
occupies, and so is the slot byte of the own location (R194). -/
structure RawStamp where
  kind : Nat
  lane : Nat
  runCount : Nat
  filled : Nat
  epoch : Nat
  void : BitVec 16
  seq : Nat
  own : RawLoc
  check : BitVec 32
  runs : List RawRun
deriving DecidableEq, Repr

/-- The own location without its slot byte. -/
def RawLoc.noSlot : RawLoc → RawLoc
  | .missing => .missing
  | .codes a r b s _ => .codes a r b s 0

/-- The fields of a stamp read from its bytes (section 13.2). -/
def rawStamp (bytes : StampBytes) : RawStamp :=
  let n := bytes.toNat
  { kind := fieldAt n 0 1
    lane := fieldAt n 1 1
    runCount := fieldAt n 2 1
    filled := fieldAt n 3 1
    epoch := fieldAt n 4 2
    void := BitVec.ofNat 16 (fieldAt n 6 2)
    seq := fieldAt n 8 6
    own := (rawLocAt n 16).noSlot
    check := BitVec.ofNat 32 (fieldAt n 24 4)
    runs := (List.range (min (fieldAt n 2 1) 8)).map (fun k =>
      ⟨fieldAt n (32 + 16 * k) 5, fieldAt n (37 + 16 * k) 1, fieldAt n (38 + 16 * k) 1, rawLocAt n (40 + 16 * k)⟩) }

/-- Whether a run entry keeps R11 apart from its place among the others: its length, its LBAs below LCAP, and its
source as its kind has it (R13, R194). -/
def RawRun.keeps (r : RawRun) (g : Option Geometry) (kind : SegKind) : Bool :=
  decide (1 ≤ r.len) && decide (r.len ≤ 16) &&
  (match g with
   | some g => decide (r.start + r.len ≤ g.lcap)
   | none => true) &&
  (match kind, r.source with
   | .data, .missing => true
   | .reloc, src =>
     match src.toLoc with
     | some l => l.valid g && decide (l.segment.region ≠ .ckring) && l.reaches (r.len - 1) g
     | none => false
   | _, _ => false)

/-- Whether runs describe slots from `first` on without a gap and end at `filled` (R11). -/
def runsCover : List RawRun → Nat → Nat → Bool
  | [], first, filled => decide (first = filled)
  | r :: rs, first, filled => decide (r.first = first) && runsCover rs (first + r.len) filled

/-- Whether the void mask marks only slots below the filled-slot count (R11, R13). -/
def voidInside (void : BitVec 16) (filled : Nat) : Bool := decide (void.toNat < 2 ^ filled)

/-- The stamp a reading gives, or none when it is malformed (R13, R194). -/
def RawStamp.toStamp (r : RawStamp) (g : Option Geometry) : Option Stamp :=
  match segKindOf r.kind, r.own.toLoc with
  | some kind, some own =>
    let ok :=
      own.segment.valid g &&
      (if kind = .data ∨ kind = .reloc then
        decide (r.runCount ≤ 8) && decide (r.filled ≤ 16) && r.runs.all (fun x => x.keeps g kind) &&
        runsCover r.runs 0 r.filled && voidInside r.void r.filled
       else decide (r.runCount = 0) && decide (r.lane = 0) && decide (r.void = 0))
    if ok then
      some ⟨kind, r.epoch, r.seq, own.segment, r.lane,
        r.runs.map (fun x => ⟨x.start, x.len, x.first, x.source.toLoc⟩), r.void, r.filled, r.check⟩
    else none
  | _, _ => none

/-! ## The check word and the verdict (sections 1.6 and 1.7) -/

/-- The exclusive-or of the 1,024 32-bit words of a block, each read least significant byte first (R12). -/
def foldBlock (b : Block) : BitVec 32 :=
  (List.range 1024).foldl (fun acc k => acc ^^^ b.extractLsb' (32 * k) 32) 0

/-- The payload fold: the exclusive-or of all the words of a payload (R12). -/
def payloadFold (payload : List Block) : BitVec 32 := payload.foldl (fun acc b => acc ^^^ foldBlock b) 0

/-- The check word of a payload fold and a sequence (R12). -/
def checkWord (fold : BitVec 32) (seq : Nat) : BitVec 32 := fold ^^^ BitVec.ofNat 32 seq

/-- A segment read as judged: the verdict, the stamp as found (the header if both were), and the stamp itself when
the verdict is GOOD (R13). -/
structure Judged where
  verdict : Verdict
  raw : Option RawStamp
  stamp : Option Stamp
deriving DecidableEq, Repr

/-- The verdict on a segment read at location l, in the order of R13's table. -/
def judge (g : Option Geometry) (epoch : Option Nat) (l : SegLoc) (header trailer : Option StampBytes)
    (fold : BitVec 32) : Judged :=
  match header, trailer with
  | none, none => ⟨.blank, none, none⟩
  | some h, none => ⟨.torn, some (rawStamp h), none⟩
  | none, some t => ⟨.torn, some (rawStamp t), none⟩
  | some h, some t =>
    let r := rawStamp h
    if r ≠ rawStamp t then ⟨.torn, some r, none⟩
    else if r.check ≠ checkWord fold r.seq then ⟨.corrupt, some r, none⟩
    else
      match r.toStamp g with
      | none => ⟨.corrupt, some r, none⟩
      | some st =>
        if epoch.any (fun e => e ≠ st.epoch) ∨ st.own ≠ l then ⟨.foreign, some r, none⟩
        else ⟨.good, some r, some st⟩

/-- A STAMP SCAN entry judged (R106). -/
def judgeEntry (g : Option Geometry) (epoch : Option Nat) (l : SegLoc) : ScanRaw → ScanEntry
  | .unreadable => ⟨none, false, 0, 0, none⟩
  | .found header trailer fold =>
    let j := judge g epoch l header trailer fold
    match j.raw with
    | some r => ⟨some j.verdict, true, r.epoch, r.seq, j.stamp⟩
    | none => ⟨some j.verdict, false, 0, 0, j.stamp⟩

/-- Whether a scan entry is unused (R106): BLANK, FOREIGN, or GOOD with a sequence below the floor. -/
def ScanEntry.unused (e : ScanEntry) (floor : Nat) : Bool :=
  decide (e.verdict = some .blank) || decide (e.verdict = some .foreign) ||
  (decide (e.verdict = some .good) && decide (e.seq < floor))

/-! ## Checkpoint ring payloads (section 13.3) -/

/-- The blocks of a payload made of records of 16 bytes: 256 records to a slot, the rest of the 16 slots zero
(R152, section 13.3). -/
def recordSlots (records : List (List Byte)) : List Block :=
  (List.range 16).map (fun k => BitVec.ofNat 32768 (leNat ((records.drop (256 * k)).take 256).flatten))

/-- Slots that a number of 16-byte records fill (R10, R152). -/
def slotsFor (n : Nat) : Nat := (n + 255) / 256

/-- Record k of a payload of 16-byte records, read as a number. -/
def recordAt (payload : List Block) (k : Nat) : Nat :=
  fieldAt (payload.getD (k / 256) 0).toNat (16 * (k % 256)) 16

/-- The band record a page carries, with the state, pointer and sequence as R156 writes them. -/
def bandRecordBytes (state : BandState) (health written valid extents seq : Nat) : List Byte :=
  byte1 state.code ++ byte1 health ++ leBytes 2 written ++ leBytes 3 valid ++ leBytes 3 extents ++ leBytes 6 seq

/-- A band record as a band page writes it (R156). An EVACUATED band of health 3 below S_start is RETIRED with pointer 0
(log 38). -/
def Band.pageBytes (b : Band) (sStart : Nat) : List Byte :=
  match b.state with
  | .blank => bandRecordBytes .blank b.health b.written b.valid b.extents 0
  | .parked => bandRecordBytes .parked b.health b.written b.valid b.extents 0
  | .full => bandRecordBytes .full b.health b.written b.valid b.extents (b.closeSeq.getD 0)
  | .retired => bandRecordBytes .retired b.health b.written b.valid b.extents 0
  | .opened => bandRecordBytes .opened b.health b.written b.valid b.extents 0
  | .draining => bandRecordBytes .draining b.health b.written b.valid b.extents 0
  | .cleaning => bandRecordBytes .full b.health b.written b.valid b.extents (b.closeSeq.getD 0)
  | .evacuated =>
    if b.evacSeq.getD 0 < sStart then
      bandRecordBytes (if b.health = 3 then .retired else .blank) b.health 0 b.valid b.extents 0
    else bandRecordBytes .evacuated b.health b.written b.valid b.extents (b.evacSeq.getD 0)

/-- A band record loaded from a page (R42), or none when the page counts as a failed read (R194). A health above 3 is loaded
as it stands (log 38). R42 gives valid at selection 0 for a band loaded EVACUATED; that a record in state CLEANING, which the
part never writes, is loaded with it too, and with its close sequence, is the model's choice (log 29). -/
def loadBand (n spb : Nat) : Option Band :=
  match bandStateOf (fieldAt n 0 1) with
  | none => none
  | some st =>
    let wp := fieldAt n 2 2
    if spb < wp then none
    else
      some { state := st, owner := none, reserved := wp, written := wp, bound := 0, valid := fieldAt n 4 3,
             extents := fieldAt n 7 3,
             closeSeq := if st = .full ∨ st = .cleaning then some (fieldAt n 10 6) else none,
             validAtSel := if st = .evacuated ∨ st = .cleaning then some 0 else none,
             evacSeq := if st = .evacuated then some (fieldAt n 10 6) else none,
             health := fieldAt n 1 1, readPins := 0 }

/-- An extent record of an extent page (section 13.3). -/
def Extent.bytes (e : Extent) : List Byte :=
  leBytes 5 e.start ++ leBytes 3 e.len ++
  locBytes (match e.kind with
    | .media l => some l
    | .lost => none)

/-- An extent record read back, or none when the page counts as a failed read (R194). Its location is judged as a first
location alone: a length that runs past the end of the band or ring is loaded as it stands (R5, log 38). -/
def loadExtent (n : Nat) (g : Option Geometry) : Option Extent :=
  let len := fieldAt n 5 3
  if len = 0 ∨ Config.maxExtent < len then none
  else
    match rawLocAt n 8 with
    | .missing => some ⟨fieldAt n 0 5, len, .lost⟩
    | raw =>
      match raw.toLoc with
      | some l => if l.valid g then some ⟨fieldAt n 0 5, len, .media l⟩ else none
      | none => none

/-- A release record of a notice (section 13.3). -/
def ReleaseRec.bytes (r : ReleaseRec) : List Byte :=
  leBytes 5 r.lba ++ leBytes 3 r.count ++ leBytes 6 r.seq ++ leBytes 2 0

/-- A release record read back, or none when the notice counts as a failed read (R194). -/
def loadRelease (n : Nat) : Option ReleaseRec :=
  let count := fieldAt n 5 3
  if count = 0 ∨ 65536 < count then none else some ⟨fieldAt n 0 5, count, fieldAt n 8 6, none⟩

/-- The records in the filled slots of a payload, without the places after the last record: those whose first `width`
bytes, which the fields of the record occupy, are all zero (R194, log 11). -/
def filledRecords (width : Nat) (payload : List Block) (filled : Nat) : List Nat :=
  ((List.range (256 * filled)).map (recordAt payload)).reverse.dropWhile (fun n => fieldAt n 0 width = 0) |>.reverse

/-- The bytes that the fields of an extent record occupy (section 13.3): the last byte of its location is padding. -/
def extentWidth : Nat := 15

/-- The bytes that the fields of a notice record occupy (section 13.3). -/
def releaseWidth : Nat := 14

/-- READ_AHEAD's code (section 13.5). -/
def ReadAhead.code : ReadAhead → Nat
  | .off => 0
  | .one => 1
  | .continuous => 2

/-- READ_AHEAD of a code. -/
def readAheadOf : Nat → Option ReadAhead
  | 0 => some .off
  | 1 => some .one
  | 2 => some .continuous
  | _ => none

/-- The working settings 0x01 to 0x0B in code order at their widths (section 13.3). -/
def Settings.bytes (s : Settings) : List Byte :=
  leBytes 2 s.streamMin ++ leBytes 2 s.idleLimit ++ byte1 s.laneRelease ++ leBytes 2 s.holdLimit ++
  byte1 s.blankLow ++ byte1 s.reserve ++ byte1 s.cacheHigh ++ byte1 s.cacheLow ++ leBytes 4 s.ckSegments ++
  byte1 s.idleMigrate ++ byte1 s.readAhead.code

/-- The 12 bytes of a window (section 13.3). -/
def Window.bytes (w : Window) : List Byte :=
  leBytes 5 w.base ++ leBytes 5 w.mask ++ byte1 w.lane ++ byte1 (if w.enabled then 1 else 0)

/-- Captured ring counters (section 13.3). -/
def Captured.bytes (c : Captured) : List Byte := leBytes 8 c.freeHead ++ leBytes 8 c.migrateHead ++ leBytes 8 c.tail

/-- Slot 0 of a close segment (R158, section 13.3). -/
def closeBlock (sStart epoch startPos pagesA pagesB pagesExt : Nat) (g : Geometry) (c : Two Captured) (s : Settings)
    (pages : List Nat) : Block :=
  let settings := s.bytes
  BitVec.ofNat 32768 (leNat (
    leBytes 6 sStart ++ leBytes 2 epoch ++ leBytes 8 startPos ++ byte1 pagesA ++ byte1 pagesB ++ byte1 pagesExt ++
    byte1 0 ++ leBytes 4 g.spb ++ leBytes 4 g.bpaA ++ leBytes 4 g.bpaB ++ leBytes 4 g.mcs ++ leBytes 4 g.cks ++
    leBytes 8 g.lcap ++ c.a.bytes ++ c.b.bytes ++ settings ++ List.replicate (32 - settings.length) 0 ++
    s.windows.flatMap Window.bytes ++ pages.flatMap (leBytes 8)))

/-- The captured counters at byte offset `off`. -/
def loadCaptured (n off : Nat) : Captured := ⟨fieldAt n off 8, fieldAt n (off + 8) 8, fieldAt n (off + 16) 8⟩

/-- The settings of a close (section 13.3). No rule judges them (R166, R194): a READ_AHEAD code above 2 loads as OFF, a window
whose enable byte is above 1, or whose lane byte names no lane of R68, as not enabled, and every number as it stands, also one
outside its range of R190 (log 38). -/
def loadSettings (n : Nat) : Settings where
  streamMin := fieldAt n 96 2
  idleLimit := fieldAt n 98 2
  laneRelease := fieldAt n 100 1
  holdLimit := fieldAt n 101 2
  blankLow := fieldAt n 103 1
  reserve := fieldAt n 104 1
  cacheHigh := fieldAt n 105 1
  cacheLow := fieldAt n 106 1
  ckSegments := fieldAt n 107 4
  idleMigrate := fieldAt n 111 1
  readAhead := (readAheadOf (fieldAt n 112 1)).getD .off
  windows := (List.range 8).map (fun k =>
    ⟨fieldAt n (128 + 12 * k) 5, fieldAt n (133 + 12 * k) 5, fieldAt n (138 + 12 * k) 1,
      decide (fieldAt n (139 + 12 * k) 1 = 1) && decide (fieldAt n (138 + 12 * k) 1 ≤ 5)⟩)

/-- The contents of a close segment read back (R158, section 13.3): a ring counter value for each page it counts that has one
of the 96 places. The bytes past the last place are ignored (R194). -/
def loadClose (stamp : Stamp) (block : Block) : CloseInfo :=
  let n := block.toNat
  let pagesA := fieldAt n 16 1
  let pagesB := fieldAt n 17 1
  let pagesExt := fieldAt n 18 1
  { stamp := stamp, sStart := fieldAt n 0 6, epoch := fieldAt n 6 2, startPos := fieldAt n 8 8,
    pagesA := pagesA, pagesB := pagesB, pagesExt := pagesExt,
    geom := ⟨fieldAt n 20 4, fieldAt n 24 4, fieldAt n 28 4, fieldAt n 32 4, fieldAt n 36 4, fieldAt n 40 8⟩,
    captured := ⟨loadCaptured n 48, loadCaptured n 72⟩,
    settings := loadSettings n,
    pages := (List.range (min (pagesA + pagesB + pagesExt) Config.closePlaces)).map (fun k => fieldAt n (224 + 8 * k) 8) }

/-! ## Front link messages (section 13.4) -/

/-- The code of a completion outcome (section 13.4). -/
def Outcome.code : Outcome → Nat
  | .good => 0x00
  | .partly => 0x01
  | .lost => 0x02
  | .mediaError => 0x03
  | .tagInUse => 0x10
  | .notReady => 0x11
  | .outOfRange => 0x12
  | .writeProtected => 0x13

/-- The 16-byte record a message to the front end begins with (section 13.4, R195). -/
def FrontMsg.head : FrontMsg → MsgHead
  | .dataPull tag => BitVec.ofNat 128 (leNat (byte1 0x81 ++ byte1 tag))
  | .readData tag lba _ => BitVec.ofNat 128 (leNat (byte1 0x82 ++ byte1 tag ++ leBytes 2 0 ++ leBytes 5 lba))
  | .completion tag outcome detail =>
    BitVec.ofNat 128 (leNat (byte1 0x83 ++ byte1 tag ++ byte1 outcome.code ++ byte1 0 ++ leBytes 5 detail))

end Sys2Proof.Machine
end

