-- ==== Sys2Proof/Machine/Ops.lean ====
section
/-! DEFINITION. The named operations that several blocks use: reading and changing one piece of state, exceptions
(R192), sequence numbers (R14), the frame pool (R88 to R92), and the band manager's answers (R43 to R63). -/

namespace Sys2Proof.Machine

/-! ## Reading and changing one piece of state -/

/-- Frame `id` of the pool. -/
def State.frame (s : State) (id : Nat) : Frame := s.pool.frames.getD id Frame.free

/-- The state with frame `id` changed. -/
def State.modFrame (s : State) (id : Nat) (f : Frame → Frame) : State :=
  { s with pool := { s.pool with frames := s.pool.frames.modify id f } }

/-- The context of lane n. -/
def State.lane (s : State) (n : Nat) : Lane := s.lanes.getD n Lane.fresh

/-- The state with lane n's context changed. -/
def State.modLane (s : State) (n : Nat) (f : Lane → Lane) : State := { s with lanes := s.lanes.modify n f }

/-- The record of one band. -/
def State.bandRec (s : State) (a : Actuator) (b : Nat) : Band := (s.bm.get a).bands.getD b Band.blank

/-- The state with one actuator's band manager changed. -/
def State.modMgr (s : State) (a : Actuator) (f : BandMgr → BandMgr) : State := { s with bm := s.bm.modify a f }

/-- The state with one band record changed. -/
def State.modBand (s : State) (a : Actuator) (b : Nat) (f : Band → Band) : State :=
  s.modMgr a (fun m => { m with bands := m.bands.modify b f })

/-- The cache ring of one actuator. -/
def State.ring (s : State) (a : Actuator) : Ring := (s.bm.get a).ring

/-- The state with one actuator's cache ring changed. -/
def State.modRing (s : State) (a : Actuator) (f : Ring → Ring) : State :=
  s.modMgr a (fun m => { m with ring := f m.ring })

/-- The record of one media port. -/
def State.port (s : State) (a : Actuator) : Port := s.ports.get a

/-- The state with one media port changed. -/
def State.modPort (s : State) (a : Actuator) (f : Port → Port) : State := { s with ports := s.ports.modify a f }

/-- Whether a frame is being written: a SEGMENT WRITE of it is in flight at the port (R104, R113). -/
def State.writing (s : State) (a : Actuator) (id : Nat) : Bool :=
  (s.port a).op.any (fun o => decide (o.kind = .segmentWrite) && decide (o.frame = some id) && o.live)

/-- The state with the job changed, when there is one. -/
def State.modJob (s : State) (f : Job → Job) : State := { s with rc := { s.rc with job := s.rc.job.map f } }

/-- The state with the checkpoint writer changed. -/
def State.modCk (s : State) (f : Ckpt → Ckpt) : State := { s with ck := f s.ck }

/-- The state with the running checkpoint changed, when one runs. -/
def State.modRun (s : State) (f : CkRun → CkRun) : State := s.modCk (fun c => { c with run := c.run.map f })

/-- The lane of the current data phase. -/
def State.phaseLane (s : State) : Option Nat := s.phase.map (fun p => p.lane)

/-- The state with the data phase changed, when one runs. -/
def State.modPhase (s : State) (f : DataPhase → DataPhase) : State := { s with phase := s.phase.map f }

/-- The state with the recovery scanner changed. -/
def State.modRec (s : State) (f : Recovery → Recovery) : State := { s with recov := f s.recov }

/-- The state with the entry of an IN USE tag changed. -/
def State.modTag (s : State) (tag : Nat) (f : TagEntry → TagEntry) : State :=
  { s with tags := s.tags.modify tag (fun e => e.map f) }

/-- The entry of a tag, when the tag is IN USE (R177). -/
def State.tag (s : State) (tag : Nat) : Option TagEntry := s.tags.getD tag none

/-- A message sent on the block request link. -/
def State.send (s : State) (m : FrontMsg) : State := { s with frontOut := s.frontOut ++ [m] }

/-- Segments per band of the geometry in force. -/
def State.spb (s : State) : Nat := (s.geom.map (fun g => g.spb)).getD 0

/-- Band capacity C of the geometry in force. -/
def State.cap (s : State) : Nat := (s.geom.map Geometry.cap).getD 0

/-- Cache ring size of the geometry in force. -/
def State.mcs (s : State) : Nat := (s.geom.map (fun g => g.mcs)).getD 0

/-- Checkpoint ring size of the geometry in force. -/
def State.cks (s : State) : Nat := (s.geom.map (fun g => g.cks)).getD 0

/-- The working settings (R190). -/
def State.work (s : State) : Settings := s.maint.work

/-- Whether a timer that runs since `t` has run for `limit` milliseconds. -/
def State.ranFor (s : State) (t : Option Nat) (limit : Nat) : Bool :=
  match t with
  | some t => decide (limit ≤ s.now - t)
  | none => false

/-- One millisecond passes (log 2). -/
def tick (s : State) : State := { s with now := s.now + 1 }

/-- Whether the ATTN_N output is asserted: while the exception list holds a record (R193). -/
def State.attnAsserted (s : State) : Bool := !s.exceptions.isEmpty

/-! ## Orders the spec leaves open (log 4) -/

/-- A list in an order that the free value `Config.pick` chooses. -/
def permute {α : Type} (c : Nat) : Nat → List α → List α
  | 0, l => l
  | n + 1, l =>
    match l[Config.pick (c + n) % l.length]? with
    | none => l
    | some x => x :: permute c n (l.eraseIdx (Config.pick (c + n) % l.length))

/-- A list in an order that the spec leaves open: any order, when it has more than one member. -/
def State.anyOrder {α : Type} (s : State) (l : List α) : List α × State :=
  if l.length ≤ 1 then (l, s)
  else (permute s.freeCount l.length l, { s with freeCount := s.freeCount + l.length })

/-- A step taken for each member of a list, in an order that the spec leaves open. -/
def State.forAny {α : Type} (s : State) (l : List α) (f : State → α → State) : State :=
  let (l, s) := s.anyOrder l
  l.foldl f s

/-! ## Exceptions (R192) and sequence numbers (R14, R15) -/

/-- The exception list after a post (R192). -/
def postTo (l : List Exc) (k : ExcKind) (a : Actuator) (seq d1 d2 : Nat) : List Exc :=
  if l.any (fun e => decide (e.kind = k) && decide (e.act = a)) then
    l.map (fun e =>
      if e.kind = k ∧ e.act = a then
        { e with occurrences := min (e.occurrences + 1) 255, detail1 := d1, detail2 := d2 }
      else e)
  else l ++ [⟨k, a, 1, seq, d1, d2⟩]

/-- Post an exception (R192): the first-seen sequence is SEQ, read and not advanced, or 0. -/
def post (k : ExcKind) (a : Actuator) (d1 d2 : Nat) (s : State) : State :=
  { s with exceptions := postTo s.exceptions k a (s.seq.getD 0) d1 d2 }

/-- Assign the current SEQ and advance it (R14); at 2^48 − 65,536 the sequence limit condition begins (R15). -/
def assignSeq (s : State) : Nat × State :=
  let v := s.seq.getD 0
  (v, { s with seq := some (v + 1), seqLimit := s.seqLimit || decide (Config.sequenceLimit ≤ v + 1) })

/-! ## Checkpoint requests (R154) -/

/-- A checkpoint start is requested: the wanted flag is set, and CHECKPOINT_START starts the checkpoint as soon as a
start is possible (R154, log 3). -/
def requestCk (s : State) : State := s.modCk (fun c => { c with wanted := true })

/-- A data segment is bound: both counts rise by one, and at CK_SEGMENTS a checkpoint is requested (R154). -/
def countDataSegment (s : State) : State :=
  let s := s.modCk (fun c => { c with dStart := c.dStart + 1, dComplete := c.dComplete + 1 })
  if s.work.ckSegments ≤ s.ck.dStart then requestCk s else s

/-- The distance hold (R161). -/
def State.distanceHold (s : State) : Bool := decide (2 * s.work.ckSegments ≤ s.ck.dComplete)

/-- Free segments of the checkpoint ring (R149). -/
def State.ckFree (s : State) : Nat := s.cks - (s.ck.ringTail - s.ck.ringStart)

/-! ## Free records and map pressure (R21, R40) -/

/-- The free record count (R21). -/
def State.freeRecords (s : State) : Nat := Config.mapCapacity - s.extents.length - 2 * s.earmarks

/-- Map pressure tested against the free record count (R40); its end clears the map-pressure no-victim mark
(R135). -/
def evalMapPressure (s : State) : State :=
  if s.service = .recovering then s
  else if s.freeRecords < Config.pressureThreshold then
    if s.mapPressure then s else post .mapPressure .A s.freeRecords 0 { s with mapPressure := true }
  else if s.mapPressure then { s with mapPressure := false, rc := { s.rc with noVictimMap := false } }
  else s

/-! ## The frame pool (R88 to R92) -/

/-- The floor of a class (R90). -/
def FrameClass.floor : FrameClass → Nat
  | .write => 0
  | .read => 16
  | .reclaim => 16
  | .metadata => 4

/-- The cap of a class (R90). -/
def FrameClass.cap : FrameClass → Nat
  | .write => 220
  | .read => 64
  | .reclaim => 48
  | .metadata => 8

/-- Frames of a class in IN USE or AWAITING UNPIN (R88). -/
def Pool.held (p : Pool) (c : FrameClass) : Nat :=
  p.frames.countP (fun f => decide (f.state ≠ .free) && decide (f.cls = some c))

/-- FREE frames (R88). -/
def Pool.freeCount (p : Pool) : Nat := p.frames.countP (fun f => decide (f.state = .free))

/-- The unmet floor of a class (R90). -/
def Pool.unmet (p : Pool) (c : FrameClass) : Nat := c.floor - p.held c

/-- The classes. -/
def frameClasses : List FrameClass := [.write, .read, .reclaim, .metadata]

/-- The test of a request of a class (R90): below its cap, and what is left after the grant covers the unmet floors
of the three other classes. -/
def Pool.passes (p : Pool) (c : FrameClass) : Bool :=
  decide (p.held c < c.cap) && decide (1 ≤ p.freeCount) &&
  decide (((frameClasses.filter (fun k => k ≠ c)).map p.unmet).sum ≤ p.freeCount - 1)

/-- The class a request names (R90). -/
def Requester.cls : Requester → FrameClass
  | .lane n => if n = 7 then .reclaim else .write
  | .readEntry _ => .read
  | .source _ => .reclaim
  | .page => .metadata
  | .close => .metadata
  | .notice => .metadata
  | .scanner _ => .read

/-- The owner a grant records (R88). -/
def Requester.owner : Requester → Owner
  | .lane n => .lane n
  | .readEntry _ => .readServer
  | .source _ => .reclaim
  | .page => .ckpt
  | .close => .ckpt
  | .notice => .ckpt
  | .scanner _ => .scanner

/-- The wait queue of a class (R91). -/
def Pool.queue (p : Pool) : FrameClass → List Requester
  | .write => p.waitWrite
  | .read => p.waitRead
  | .reclaim => p.waitReclaim
  | .metadata => p.waitMeta

/-- The pool with the wait queue of a class replaced. -/
def Pool.setQueue (p : Pool) (c : FrameClass) (q : List Requester) : Pool :=
  match c with
  | .write => { p with waitWrite := q }
  | .read => { p with waitRead := q }
  | .reclaim => { p with waitReclaim := q }
  | .metadata => { p with waitMeta := q }

/-- A frame just granted (R89): IN USE, class and owner recorded, no pins, contents cleared. -/
def Frame.granted (c : FrameClass) (o : Owner) : Frame :=
  { Frame.free with state := .inUse, cls := some c, owner := some o }

/-- Grant a FREE frame to a requester (R90): the lowest-numbered FREE frame (log 6). -/
def grantFrame (r : Requester) (s : State) : Option (Nat × State) :=
  match s.pool.frames.findIdx? (fun f => decide (f.state = .free)) with
  | none => none
  | some id => some (id, s.modFrame id (fun _ => Frame.granted r.cls r.owner))

/-- A waiting request (R91): tested at once when its class's queue is empty, otherwise it joins the tail. Answers the
frame when it is granted at once. -/
def requestFrame (r : Requester) (s : State) : Option Nat × State :=
  if (s.pool.queue r.cls).isEmpty ∧ s.pool.passes r.cls then
    match grantFrame r s with
    | some (id, s') => (some id, s')
    | none => (none, s)
  else (none, { s with pool := s.pool.setQueue r.cls (s.pool.queue r.cls ++ [r]) })

/-- A no-wait request (R91): granted, or REFUSED leaving nothing behind. It does not pass a waiting request
(log 6). -/
def requestNoWait (r : Requester) (s : State) : Option Nat × State :=
  if (s.pool.queue r.cls).isEmpty ∧ s.pool.passes r.cls then
    match grantFrame r s with
    | some (id, s') => (some id, s')
    | none => (none, s)
  else (none, s)

/-- Whether a requester waits in its class's queue. -/
def State.waits (s : State) (r : Requester) : Bool := (s.pool.queue r.cls).contains r

/-- A waiting request withdrawn (R91). -/
def withdraw (r : Requester) (s : State) : State :=
  { s with pool := s.pool.setQueue r.cls ((s.pool.queue r.cls).filter (fun x => x ≠ r)) }

/-- The owner releases a frame (R89): FREE without pins, AWAITING UNPIN otherwise, its contents kept. -/
def releaseFrame (id : Nat) (s : State) : State :=
  s.modFrame id (fun f =>
    if f.state ≠ .inUse then f
    else if f.pins = 0 then Frame.free
    else { f with state := .awaitingUnpin, owner := none, bound := none, waiters := [] })

/-- A READ pins a lane frame (R92). -/
def pinFrame (id : Nat) (s : State) : State := s.modFrame id (fun f => { f with pins := f.pins + 1 })

/-- A READ releases its pin on a frame (R89, R92). -/
def unpinFrame (id : Nat) (s : State) : State :=
  s.modFrame id (fun f =>
    if f.state = .awaitingUnpin ∧ f.pins ≤ 1 then Frame.free else { f with pins := f.pins - 1 })

/-- Whether a frame stands in the index of bound locations with its write not DONE (R22, R88). A lane 7 frame in the commit
queue, written and not yet released, is not counted: its blocks are taken from the media (log 34). -/
def Frame.holds (f : Frame) (l : SegLoc) : Bool :=
  decide (f.state = .inUse) && decide (f.bound = some l) && !f.written &&
  (match f.owner with
   | some (.lane _) => true
   | _ => false)

/-- The frame that holds the blocks of a segment (R22, R88), when one does. -/
def State.holder (s : State) (l : SegLoc) : Option Nat := s.pool.frames.findIdx? (fun f => f.holds l)

/-! ## Blank counts, band pressure and credit (R41, R56, R96, R97) -/

/-- The blank count of an actuator (R41). -/
def State.blankCount (s : State) (a : Actuator) : Nat :=
  (s.bm.get a).bands.countP (fun b => decide (b.state = .blank))

/-- Bands of an actuator in one state. -/
def State.countIn (s : State) (a : Actuator) (st : BandState) : Nat :=
  (s.bm.get a).bands.countP (fun b => decide (b.state = st))

/-- Band pressure tested against the blank count and BLANK_LOW (R96); leaving it clears the actuator's no-victim
mark (R135). -/
def evalBandPressure (a : Actuator) (s : State) : State :=
  if s.blankCount a ≤ s.work.blankLow then
    if (s.credit.get a).pressure then s
    else { s with credit := s.credit.modify a (fun _ => ⟨true, s.cap / 4⟩) }
  else if (s.credit.get a).pressure then
    { s with credit := s.credit.modify a (fun c => { c with pressure := false })
             rc := { s.rc with noVictim := s.rc.noVictim.modify a (fun _ => false) } }
  else s

/-- Credit returned by an evacuation (R97). -/
def returnCredit (a : Actuator) (amount : Nat) (s : State) : State :=
  if (s.credit.get a).pressure then
    { s with credit := s.credit.modify a (fun c => { c with q := min (c.q + amount) Config.maxCredit }) }
  else s

/-- Credit charged at an acceptance (R97). -/
def chargeCredit (a : Actuator) (s : State) : State :=
  if (s.credit.get a).pressure then { s with credit := s.credit.modify a (fun c => { c with q := c.q - 1 }) }
  else s

/-! ## Bands (R43 to R54) -/

/-- The answer to an allocation request of lane n on actuator a (R43). -/
def allocate (n : Nat) (a : Actuator) (s : State) : Option Nat × State :=
  if s.service ≠ .ready ∨ (s.port a).up = false then (none, s)
  else
    match (s.bm.get a).parked with
    | b :: rest =>
      (some b, (s.modMgr a (fun m => { m with parked := rest })).modBand a b
        (fun r => { r with state := .opened, owner := some n }))
    | [] =>
      match (s.bm.get a).bands.findIdx? (fun r => decide (r.state = .blank)) with
      | some b =>
        if n = 7 ∨ s.work.reserve < s.blankCount a then
          (some b, evalBandPressure a (s.modBand a b
            (fun r => { r with state := .opened, owner := some n, reserved := 0, written := 0 })))
        else (none, s)
      | none => (none, s)

/-- The answer to lane n's request for the next segment of its band (R45). -/
def reserveSegment (n : Nat) (a : Actuator) (b : Nat) (s : State) : Option Nat × State :=
  let r := s.bandRec a b
  if r.state = .opened ∧ r.owner = some n ∧ r.reserved < s.spb then
    (some r.reserved, s.modBand a b (fun r =>
      if r.reserved + 1 = s.spb then
        { r with reserved := r.reserved + 1, bound := r.bound + 1, state := .draining, owner := none }
      else { r with reserved := r.reserved + 1, bound := r.bound + 1 }))
  else (none, s)

/-- A band joins the tail of its parked list (R44). -/
def park (a : Actuator) (b : Nat) (s : State) : State :=
  (s.modBand a b (fun r => { r with state := .parked, owner := none })).modMgr a
    (fun m => { m with parked := m.parked ++ [b] })

/-- Lane n gives up its band (R46). A band already taken from the lane is left alone. -/
def giveUpBand (n : Nat) (a : Actuator) (b : Nat) (s : State) : State :=
  let r := s.bandRec a b
  if r.state = .opened ∧ r.owner = some n then
    if r.bound = 0 then park a b s else s.modBand a b (fun r => { r with state := .draining, owner := none })
  else s

/-- A SEGMENT WRITE to a band returned DONE (R48). -/
def bandWritten (a : Actuator) (b : Nat) (s : State) : State :=
  let s := s.modBand a b (fun r => { r with written := r.written + 1, bound := r.bound - 1 })
  let r := s.bandRec a b
  if r.state = .draining then
    if r.written = s.spb then s.modBand a b (fun r => { r with state := .full, closeSeq := s.seq })
    else if r.bound = 0 then park a b s
    else s
  else s

/-- A SEGMENT WRITE to a band returned WRITE_FAULT or SUPPLY_LATE: the band is truncated at its written pointer
(R49, R51). -/
def truncateBand (a : Actuator) (b : Nat) (fault : Bool) (s : State) : State :=
  let r := s.bandRec a b
  post (if fault then .writeFault else .supplyLate) a b r.written
    (s.modBand a b (fun r =>
      { r with reserved := r.written, state := .full, owner := none, closeSeq := s.seq,
               health := if fault then min (r.health + 1) 3 else r.health }))

/-- A frame leaves the band it was bound in (R50). -/
def leaveBand (l : SegLoc) (s : State) : State :=
  match l.region with
  | .band => s.modBand l.act l.band (fun r => { r with bound := r.bound - 1 })
  | .cache => s
  | .ckring => s

/-- Whether a SEGMENT WRITE bound at a location may be issued (R47, R109). -/
def State.issuable (s : State) (l : SegLoc) : Bool :=
  match l.region with
  | .band =>
    let r := s.bandRec l.act l.band
    (decide (r.state = .opened) || decide (r.state = .draining)) && decide (l.seg = r.written)
  | .cache => true
  | .ckring => true

/-- The test of an EVACUATED band at a checkpoint completion and at its last pin's release (R54, R51). -/
def testEvacuated (a : Actuator) (b : Nat) (s : State) : State :=
  let r := s.bandRec a b
  if r.state = .evacuated ∧ r.readPins = 0 ∧ r.evacSeq.getD 0 < s.cleared.getD 0 then
    if r.health < 3 then
      evalBandPressure a (s.modBand a b (fun r =>
        { r with state := .blank, reserved := 0, written := 0, validAtSel := none, evacSeq := none }))
    else
      post .bandRetired a b 0 (s.modBand a b (fun r =>
        { r with state := .retired, validAtSel := none, evacSeq := none }))
  else s

/-- A READ pins a band for one segment (R55). -/
def pinBand (a : Actuator) (b : Nat) (s : State) : State :=
  s.modBand a b (fun r => { r with readPins := r.readPins + 1 })

/-- A READ releases its pin on a band (R55, R54). -/
def unpinBand (a : Actuator) (b : Nat) (s : State) : State :=
  testEvacuated a b (s.modBand a b (fun r => { r with readPins := r.readPins - 1 }))

/-! ## Cache rings (R57 to R62) -/

/-- Segments with scatter data not yet migrated (R57). -/
def Ring.live (r : Ring) : Nat := r.tail - r.migrateHead

/-- Percentage of a ring of `mcs` segments in use (R57). -/
def Ring.fill (r : Ring) (mcs : Nat) : Nat := (r.tail - r.freeHead) * 100 / mcs

/-- Segments of a ring available to lane 6 (R57). -/
def State.ringFree (s : State) (a : Actuator) : Nat := s.mcs - ((s.ring a).tail - (s.ring a).freeHead)

/-- The migration latch of a ring tested (R134). -/
def evalLatch (a : Actuator) (s : State) : State :=
  let fill := (s.ring a).fill s.mcs
  if s.work.cacheHigh ≤ fill then { s with rc := { s.rc with latch := s.rc.latch.modify a (fun _ => true) } }
  else if fill ≤ s.work.cacheLow then
    { s with rc := { s.rc with latch := s.rc.latch.modify a (fun _ => false) } }
  else s

/-- The answer to lane 6's request for a cache slot on an actuator (R58): the tail's counter value, or none for
RING_FULL and DOWN. -/
def cacheSlot (a : Actuator) (s : State) : Option Nat × State :=
  if s.service = .ready ∧ (s.port a).up ∧ 1 ≤ s.ringFree a then
    (some (s.ring a).tail, evalLatch a (s.modRing a (fun r => { r with tail := r.tail + 1 })))
  else (none, s)

/-- The segment location of a ring counter value (R57). -/
def State.cacheLoc (s : State) (a : Actuator) (ctr : Nat) : SegLoc := ⟨a, .cache, 0, ctr % s.mcs⟩

/-- free_head advanced toward free target, up to the lowest pinned counter value (R62). -/
def advanceFree (a : Actuator) (s : State) : State :=
  evalLatch a (s.modRing a (fun r =>
    { r with freeHead :=
        (r.pins.filter (fun p => r.freeHead ≤ p.1)).foldl (fun m p => min m p.1) (max r.freeHead r.freeTarget) }))

/-- The pin table with one more pin on a counter value, in ascending order (R61). -/
def addPin (ctr : Nat) : List (Nat × Nat) → List (Nat × Nat)
  | [] => [(ctr, 1)]
  | (c, n) :: l =>
    if ctr = c then (c, n + 1) :: l
    else if ctr < c then (ctr, 1) :: (c, n) :: l
    else (c, n) :: addPin ctr l

/-- The pin table with one pin fewer on a counter value, the entry removed at 0 (R61). -/
def dropPin (ctr : Nat) : List (Nat × Nat) → List (Nat × Nat)
  | [] => []
  | (c, n) :: l => if ctr = c then (if n ≤ 1 then l else (c, n - 1) :: l) else (c, n) :: dropPin ctr l

/-- The counter value between free_head and tail − 1 whose ring index is `idx` (R61). -/
def State.pinCtr (s : State) (a : Actuator) (idx : Nat) : Nat :=
  (s.ring a).freeHead + (idx + s.mcs - (s.ring a).freeHead % s.mcs) % s.mcs

/-- A READ pins a cache segment (R61). -/
def pinCache (a : Actuator) (idx : Nat) (s : State) : State :=
  s.modRing a (fun r => { r with pins := addPin (s.pinCtr a idx) r.pins })

/-- A READ releases its pin on a cache segment (R61, R62). -/
def unpinCache (a : Actuator) (idx : Nat) (s : State) : State :=
  advanceFree a (s.modRing a (fun r => { r with pins := dropPin (s.pinCtr a idx) r.pins }))

/-- A pin taken on a media segment (R55, R61). -/
def pinSegment (l : SegLoc) (s : State) : State :=
  match l.region with
  | .band => pinBand l.act l.band s
  | .cache => pinCache l.act l.seg s
  | .ckring => s

/-- A pin on a media segment released (R55, R61). -/
def unpinSegment (l : SegLoc) (s : State) : State :=
  match l.region with
  | .band => unpinBand l.act l.band s
  | .cache => unpinCache l.act l.seg s
  | .ckring => s

/-! ## Completions (R177, R181 to R184) -/

/-- Send a COMPLETION and free the tag (R177). -/
def complete (tag : Nat) (o : Outcome) (detail : Nat) (s : State) : State :=
  { s.send (.completion tag o detail) with tags := s.tags.set tag none }

/-- Whether any frame counts a tag as a waiter (R81). -/
def State.hasFrames (s : State) (tag : Nat) : Bool := s.pool.frames.any (fun f => f.waiters.contains tag)

/-- Complete a WRITE whose data phase has ended (R181): at once without DURABLE, otherwise when no frame it counts is
left. -/
def completeWrite (tag : Nat) (e : TagEntry) (s : State) : State :=
  if e.durable && s.hasFrames tag then s
  else
    match (if e.durable then e.lostLba else none) with
    | some l => complete tag .lost l s
    | none => if e.accepted = e.count then complete tag .good e.count s else complete tag .partly e.accepted s

/-- Complete an accepted FLUSH once its frames have been written or abandoned and its RELEASEs have completed
(R183). -/
def completeFlush (tag : Nat) (e : TagEntry) (s : State) : State :=
  if s.hasFrames tag || !e.releases.isEmpty then s
  else if e.lostLba.isSome then complete tag .lost 0 s
  else if e.releaseFailed then complete tag .mediaError 0 s
  else complete tag .good 0 s

/-- Test whether a WRITE or FLUSH that awaits completion can complete (R181, R183). -/
def checkComplete (tag : Nat) (s : State) : State :=
  match s.tag tag with
  | none => s
  | some e =>
    if e.stand = .accepted then
      match e.kind with
      | .write => completeWrite tag e s
      | .flush => completeFlush tag e s
      | .read => s
      | .release => s
    else s

/-- A FLUSH's entry once a RELEASE it may have recorded has completed (R183). -/
def TagEntry.dropRelease (tag : Nat) (ok : Bool) (e : TagEntry) : TagEntry :=
  if e.kind = .flush ∧ e.releases.contains tag then
    { e with releases := e.releases.filter (fun t => t ≠ tag), releaseFailed := e.releaseFailed || !ok }
  else e

/-- Complete a RELEASE (R182) and tell the FLUSHes that recorded it (R183). A FLUSH that waited for this one last completes
directly after it, before any further RELEASE of the same notice: the model's choice (log 33). -/
def completeRelease (ok : Bool) (s : State) (tag : Nat) : State :=
  match s.tag tag with
  | none => s
  | some e =>
    let s := if ok then complete tag .good e.count s else complete tag .mediaError e.lba s
    let flushes := (List.range 64).filter (fun t =>
      match s.tag t with
      | some f => decide (f.kind = .flush) && f.releases.contains tag
      | none => false)
    let s := { s with tags := s.tags.map (Option.map (TagEntry.dropRelease tag ok)) }
    s.forAny flushes (fun s t => checkComplete t s)

end Sys2Proof.Machine
end

