-- ==== Sys2Proof/Machine/LaneFrames.lean ====
section
/-! DEFINITION. A lane's frames: closing one (R75, R76), its place in the lane's port queue (R77), the lane's
give-up of its band, and what is told to the waiters of a frame whose blocks were lost (R81). -/

namespace Sys2Proof.Machine

/-! ## The port queues (R77) -/

/-- The position of a frame in the band or ring it is bound in (R77): its segment-in-band, or its tail counter. -/
def Frame.position (f : Frame) : Nat :=
  match f.bound with
  | some l =>
    match l.region with
    | .cache => f.ringCtr
    | .band => l.seg
    | .ckring => l.seg
  | none => 0

/-- Whether two frames are bound in the same band or ring (R77). -/
def Frame.sharesHome (f g : Frame) : Bool :=
  match f.bound, g.bound with
  | some l, some m => decide (l.act = m.act) && decide (l.region = m.region) && decide (l.band = m.band)
  | _, _ => false

/-- The list with x directly after the last member that p holds of, when there is one. -/
def insertAfterLast (p : Nat → Bool) (x : Nat) : List Nat → Option (List Nat)
  | [] => none
  | y :: l =>
    match insertAfterLast p x l with
    | some l' => some (y :: l')
    | none => if p y then some (y :: x :: l) else none

/-- The list with x directly ahead of the first member that p holds of, when there is one. -/
def insertBeforeFirst (p : Nat → Bool) (x : Nat) : List Nat → Option (List Nat)
  | [] => none
  | y :: l => if p y then some (x :: y :: l) else (insertBeforeFirst p x l).map (fun l' => y :: l')

/-- The place of a frame in a port queue (R77): `rebound` for a frame that has just been rebound. -/
def orderInQueue (s : State) (id : Nat) (rebound : Bool) (q : List Nat) : List Nat :=
  let f := s.frame id
  let lower := fun i => f.sharesHome (s.frame i) && decide ((s.frame i).position < f.position)
  let higher := fun i => f.sharesHome (s.frame i) && decide (f.position < (s.frame i).position)
  match insertAfterLast lower id q with
  | some q' => q'
  | none =>
    match insertBeforeFirst higher id q with
    | some q' => q'
    | none => if rebound then id :: q else q ++ [id]

/-- A port queue with a frame placed in it (R77). A frame in flight stays at the head until its result (R113, R114): one
that R77 would put ahead of it stands directly behind it (log 46). -/
def placeInQueue (s : State) (a : Actuator) (id : Nat) (rebound : Bool) (q : List Nat) : List Nat :=
  match orderInQueue s id rebound q with
  | x :: y :: l => if x = id ∧ s.writing a y then y :: x :: l else x :: y :: l
  | l => l

/-- A closed frame joins its lane's queue for the port of its actuator (R76 step 5, R77). -/
def joinQueue (n id : Nat) (rebound : Bool) (s : State) : State :=
  match (s.frame id).bound with
  | some l => s.modLane n (fun c => { c with queues := c.queues.modify l.act (placeInQueue s l.act id rebound) })
  | none => s

/-- A frame taken out of its lane's queues (R77). -/
def leaveQueue (n id : Nat) (s : State) : State :=
  s.modLane n (fun c =>
    { c with queues := ⟨c.queues.a.filter (fun i => i ≠ id), c.queues.b.filter (fun i => i ≠ id)⟩ })

/-! ## Closing a frame (R75, R76) -/

/-- Whether a slot of a lane frame is void (R76 step 2): a DATA slot inside a run whose LBA is no longer mapped to
that slot, a RELOC slot whose LBA is no longer mapped at its run's source. -/
def State.voidSlot (s : State) (n : Nat) (f : Frame) (slot : Nat) : Bool :=
  match runsLba f.runs slot with
  | none => false
  | some lba =>
    if n = 7 then
      match runsSource f.runs slot with
      | some src => decide (lookup s.extents lba ≠ .media src)
      | none => true
    else
      match f.bound with
      | some l => decide (lookup s.extents lba ≠ .media (l.at slot))
      | none => true

/-- The void mask of a lane frame as the extent map stands (R76 step 2). -/
def State.voidMask (s : State) (n : Nat) (f : Frame) : BitVec 16 :=
  (List.range 16).foldl (fun m k => if s.voidSlot n f k then m ||| (1#16 <<< k) else m) 0

/-- The stamp of a lane frame (R76 step 4). -/
def laneStamp (s : State) (n : Nat) (f : Frame) (l : SegLoc) (seq : Nat) : Stamp :=
  { kind := if n = 7 then .reloc else .data, epoch := s.epoch.getD 0, seq := seq, own := l, lane := n, runs := f.runs,
    void := f.void, filled := f.fill, check := checkWord (payloadFold f.payload) seq }

/-- The frame is stamped with the void mask and a new sequence (R76 steps 2 to 4; R86 for a closed frame that
moved). -/
def stampFrame (n id : Nat) (s : State) : State :=
  let f := { s.frame id with void := s.voidMask n (s.frame id) }
  let (seq, s) := assignSeq s
  match f.bound with
  | some l =>
    s.modFrame id (fun _ => { f with seq := some seq, closed := true, closePending := false,
                                     stamp := some (laneStamp s n f l seq) })
  | none => s

/-- The close of a frame with no promise left (R76). A frame that stands on its lane's rebind list is queued only
when it has been rebound (R84, R86). -/
def sealFrame (n id : Nat) (s : State) : State :=
  let s := s.modFrame id (fun f => { f with payload := f.payload.take f.fill ++ List.replicate (16 - f.fill) 0 })
  let s := stampFrame n id s
  if (s.lane n).rebind.contains id then s else joinQueue n id false s

/-- A close cause is taken on lane n's open frame `id` (R75): it leaves the open frame field, and it closes, or its
close is pending while it holds a promised slot. -/
def closeFrame (n id : Nat) (s : State) : State :=
  let s := s.modLane n (fun c => { c with openFrame := none, idleTimer := none })
  if (s.frame id).promises = 0 then sealFrame n id s
  else s.modFrame id (fun f => { f with closePending := true })

/-- A close cause is taken on lane n's open frame, when it has one (R75). -/
def closeOpen (n : Nat) (s : State) : State :=
  match (s.lane n).openFrame with
  | some id => closeFrame n id s
  | none => s

/-- Lane n gives up the band it holds (R46). -/
def giveUpLaneBand (n : Nat) (s : State) : State :=
  match (s.lane n).act, (s.lane n).band with
  | some a, some b => (giveUpBand n a b s).modLane n (fun c => { c with band := none })
  | _, _ => s

/-- What lane n holds for a block that has no slot yet is given back (R91, R101): its waiting request is withdrawn
and a frame granted and not yet bound is released. -/
def dropRequest (n : Nat) (s : State) : State :=
  let s := withdraw (.lane n) s
  match (s.lane n).granted with
  | some id => releaseFrame id (s.modLane n (fun c => { c with granted := none }))
  | none => s

/-- The slot of a lane 7 frame that a move's block lies in (R141, R142). -/
def Frame.slotOf (f : Frame) (m : Move) : Option Nat :=
  (List.range f.fill).find? (fun k =>
    decide (runsLba f.runs k = some m.lba) && decide (runsSource f.runs k = some m.src))

/-! ## Waiters (R81) -/

/-- The lower of an LBA kept and another one. -/
def lowest (m : Option Nat) (l : Nat) : Option Nat :=
  match m with
  | some k => some (min k l)
  | none => some l

/-- What a waiter keeps once it has been told LOST for some LBAs (R81): a WRITE the lowest of those in its range, a
FLUSH that there was a loss. -/
def TagEntry.tellLost (lbas : List Nat) (e : TagEntry) : TagEntry :=
  match e.kind with
  | .write =>
    let mine := lbas.filter (fun l => decide (e.lba ≤ l) && decide (l < e.lba + e.count))
    { e with lostLba := mine.foldl lowest e.lostLba }
  | .flush => if lbas.isEmpty then e else { e with lostLba := some 0 }
  | .read => e
  | .release => e

/-- The waiters of a frame are told LOST for blocks of it (R81). -/
def tellLost (id : Nat) (lbas : List Nat) (s : State) : State :=
  (s.frame id).waiters.foldl (fun s t => s.modTag t (TagEntry.tellLost lbas)) s

/-- Waiters that count one frame fewer are tested for completion; of several that end at once, either may complete
first (R81, R181, R183). -/
def wakeWaiters (tags : List Nat) (s : State) : State := s.forAny tags (fun s t => checkComplete t s)

end Sys2Proof.Machine
end

