-- ==== Sys2Proof/Machine/Evacuation.lean ====
section
/-! DEFINITION. What an evacuation brings about in the event that empties the band (R53): the read server drops the
band's AHEAD entries (R130) and the reclaim engine ends its job (R144); and the entries of the read server (R118)
and of the reclaim engine (R139) as these events delete them. -/

namespace Sys2Proof.Machine

/-! ## Segment read entries (R118, R123, R130) -/

/-- The segment read entry for a segment, when there is one. -/
def State.entry (s : State) (l : SegLoc) : Option ReadEntry := s.rs.entries.find? (fun e => decide (e.loc = l))

/-- The state with the entry of a segment changed. -/
def State.modEntry (s : State) (l : SegLoc) (f : ReadEntry → ReadEntry) : State :=
  { s with rs := { s.rs with entries := s.rs.entries.map (fun e => if e.loc = l then f e else e) } }

/-- An entry taken out of its port queue (R118). -/
def unqueueEntry (l : SegLoc) (s : State) : State :=
  { s with rs := { s.rs with queues := s.rs.queues.modify l.act (fun q => q.filter (fun x => x ≠ l)) } }

/-- The frame of an entry released, when it holds one. -/
def releaseHeld (frame : Option Nat) (s : State) : State :=
  match frame with
  | some id => releaseFrame id s
  | none => s

/-- An entry deleted with what it holds (R123): its frame is released and its pool request withdrawn. -/
def deleteEntry (l : SegLoc) (s : State) : State :=
  match s.entry l with
  | none => s
  | some e =>
    let s := unqueueEntry l (withdraw (.readEntry l) (releaseHeld e.frame s))
    { s with rs := { s.rs with entries := s.rs.entries.filter (fun x => x.loc ≠ l) } }

/-- An AHEAD entry dropped (R130): deleted at once, or at its result when it is in flight. -/
def dropAhead (s : State) (l : SegLoc) : State :=
  match s.entry l with
  | none => s
  | some e =>
    if e.state = .inFlight then s.modEntry l (fun e => { e with dropped := true }) else deleteEntry l s

/-- Every AHEAD entry that p picks is dropped (R130). -/
def dropAheadWhere (p : ReadEntry → Bool) (s : State) : State :=
  ((s.rs.entries.filter (fun e => e.ahead && p e)).map (fun e => e.loc)).foldl dropAhead s

/-! ## Source read entries and the end of a job (R139, R144) -/

/-- A source read entry dropped with its job (R144): a request in WAITING FRAME is withdrawn, a frame held in QUEUED
or READY is released, and an entry IN FLIGHT is left to its result. -/
def dropSource (s : State) (e : SourceRead) : State :=
  if e.state = .inFlight then
    { s with rc := { s.rc with sources := s.rc.sources.map (fun x => if x = e then { x with live := false } else x) } }
  else
    let s := withdraw (.source e.loc) (releaseHeld e.frame s)
    { s with rc := { s.rc with
        sources := s.rc.sources.filter (fun x => x ≠ e)
        srcQueue := if e.state = .queued then
            s.rc.srcQueue.modify e.loc.act (fun q => q.filter (fun x => x ≠ e.loc))
          else s.rc.srcQueue } }

/-- Lane 7 is told that the job has ended (R83): it closes its open frame, gives up its band and enters CLOSED; a
FAULTED lane 7 does so when its rebind list has been worked through (log 7). -/
def endLaneSeven (s : State) : State :=
  let s := giveUpLaneBand 7 (closeOpen 7 (dropRequest 7 s))
  if (s.lane 7).state = .faulted then s.modLane 7 (fun c => { c with wasClosed := true })
  else s.modLane 7 (fun c => { c with state := .closed, act := none })

/-- The end of a job (R144, R145): its source reads are dropped, lane 7 is told, and the kind becomes NONE. -/
def endJob (s : State) : State :=
  let s := (s.rc.sources.filter (fun e => e.live)).foldl dropSource s
  let s := endLaneSeven s
  { s with rc := { s.rc with job := none } }

/-- A band job ends by the evacuation of its victim (R144): a checkpoint is requested and the band joins the
pending-blank list with its evacuation sequence (R154). -/
def endBandJob (a : Actuator) (b seq : Nat) (s : State) : State :=
  let s := requestCk (s.modCk (fun c =>
    { c with pendingBlank := c.pendingBlank.filter (fun p => !(decide (p.1 = a) && decide (p.2.1 = b))) ++
        [(a, b, seq)] }))
  endJob s

/-- A CLEANING band whose valid count has been brought to 0, or a victim named with valid count 0, enters EVACUATED
(R52, R53), with everything the evacuation brings about. -/
def evacuate (a : Actuator) (b : Nat) (s : State) : State :=
  let v := (s.bandRec a b).validAtSel.getD 0
  let seq := s.seq.getD 0
  let s := s.modBand a b (fun r => { r with state := .evacuated, evacSeq := some seq, closeSeq := none })
  let s := returnCredit a (s.cap - v) s
  let s := dropAheadWhere (fun e => decide (e.loc.act = a) && decide (e.loc.region = .band) &&
    decide (e.loc.band = b)) s
  match s.rc.job with
  | some j => if j.act = a ∧ j.victim = some b then endBandJob a b seq s else s
  | none => s

end Sys2Proof.Machine
end

