-- ==== Sys2Proof/Machine/ExtentMap.lean ====
section
/-! DEFINITION. The extent map's operations on the whole part (R23 to R40): Place, Release, Conditional move and Make
lost, with the band counters they adjust (R33), the evacuations they bring about (R53) and exhaustion (R39). -/

namespace Sys2Proof.Machine

/-! ## Band counters (R33, R34) -/

/-- A record whose home is a band counted into that band (R33). -/
def countRecord (s : State) (e : Extent) : State :=
  match e.home with
  | some (a, b) => s.modBand a b (fun r => { r with valid := r.valid + e.len, extents := r.extents + 1 })
  | none => s

/-- A record whose home is a band taken out of that band's counts (R33). -/
def uncountRecord (s : State) (e : Extent) : State :=
  match e.home with
  | some (a, b) => s.modBand a b (fun r => { r with valid := r.valid - e.len, extents := r.extents - 1 })
  | none => s

/-- A CLEANING band whose valid count is 0 leaves CLEANING (R34, R53). -/
def testEmptied (s : State) (home : Actuator × Nat) : State :=
  let r := s.bandRec home.1 home.2
  if r.state = .cleaning ∧ r.valid = 0 then evacuate home.1 home.2 s else s

/-- The table after an operation, with every band's counters brought in agreement with it, emptied victims
evacuated and map pressure tested (R19, R33, R34, R40). During RECOVERING the table alone changes. -/
def commitTable (t : List Extent) (s : State) : State :=
  let gone := s.extents.filter (fun e => !t.contains e)
  let made := t.filter (fun e => !s.extents.contains e)
  let s := { s with extents := t }
  if s.service = .recovering then s
  else
    let s := gone.foldl uncountRecord (made.foldl countRecord s)
    evalMapPressure ((gone.filterMap Extent.home).dedup.foldl testEmptied s)

/-! ## Exhaustion (R39) -/

/-- The waiters of the frames that hold blocks of a record are told LOST for those blocks (R39, R81). -/
def tellRecord (e : Extent) (s : State) : State :=
  match e.kind with
  | .lost => s
  | .media _ =>
    (List.range s.pool.frames.length).foldl (fun s id =>
      match (s.frame id).bound with
      | some l =>
        if (s.frame id).holds l then
          tellLost id ((e.blocks.filter (fun x => decide (x.2.segment = l))).map (fun x => x.1)) s
        else s
      | none => s) s

/-- DATA_LOST is posted for a converted record and the waiters concerned are told (R39). -/
def reportConverted (s : State) (e : Extent) : State := tellRecord e (post .dataLost .A e.start e.len s)

/-- A step of an operation on lba finds no free record (R39): the covering record is converted whole to LOST, and
where no record covers lba the Place is not performed. DATA_LOST is posted after all that the conversion brings about, as in
`makeLost` (log 33). -/
def exhaust (lba : Nat) (s : State) : State :=
  match covering s.extents lba with
  | some e => reportConverted (commitTable (convertLost s.extents e) s) e
  | none => post .dataLost .A lba 1 s

/-! ## The operations -/

/-- Place (R24 to R27): true for PLACED, false for EXHAUSTED. -/
def place (lba : Nat) (loc : Loc) (s : State) : Bool × State :=
  match remap s.geom s.freeRecords s.extents lba (.media loc) with
  | some t => (true, commitTable t s)
  | none => (false, exhaust lba s)

/-- What Conditional move answers (R29, R39). -/
inductive Moved where
  | committed
  | dead
  | exhausted
deriving DecidableEq, Repr

/-- Conditional move (R29): COMMITTED, DEAD, or in replay EXHAUSTED (R39). -/
def conditionalMove (lba : Nat) (src dst : Loc) (s : State) : Moved × State :=
  if lookup s.extents lba = .media src then
    match place lba dst s with
    | (true, s) => (.committed, s)
    | (false, s) => (.exhausted, s)
  else (.dead, s)

/-- Release (R28): the number of blocks it unmapped, MEDIA and LOST together, or none for EXHAUSTED, where a split finds
no free record (R39). -/
def releaseRange (lba count : Nat) (s : State) : Option Nat × State :=
  let unmapped := (some (mappedIn s.extents lba count), commitTable (cutTable s.extents lba (lba + count)) s)
  match splitBy s.extents lba count with
  | some e =>
    if s.freeRecords = 0 then (none, reportConverted (commitTable (convertLost s.extents e) s) e) else unmapped
  | none => unmapped

/-- Make lost block by block on the table alone (R31): the table, the LBAs marked, and the records converted by
exhaustion (R39). -/
def makeLostTable (g : Option Geometry) (held : Nat) :
    List (Nat × Loc) → List Extent → List Extent × List Nat × List Extent
  | [], t => (t, [], [])
  | (lba, loc) :: rest, t =>
    if lookup t lba = .media loc then
      match remap g (Config.mapCapacity - t.length - held) t lba .lost with
      | some t' =>
        let (u, marked, conv) := makeLostTable g held rest t'
        (u, lba :: marked, conv)
      | none =>
        match covering t lba with
        | some e =>
          let (u, marked, conv) := makeLostTable g held rest (convertLost t e)
          (u, marked, e :: conv)
        | none => makeLostTable g held rest t
    else makeLostTable g held rest t

/-- What Make lost answers (R31, R39): the LBAs it marked, and whether a step was EXHAUSTED. -/
structure Loss where
  marked : List Nat
  exhausted : Bool
deriving DecidableEq, Repr

/-- Make lost (R31) of blocks each with its expected location, in the order given. The caller posts the exception. Where a step
is EXHAUSTED and converts the last MEDIA record of a CLEANING band (R39), the table is committed first, with the evacuation, the
end of the job and the close of lane 7's frame, and DATA_LOST is posted after them: the model's choice (log 33). -/
def makeLost (blocks : List (Nat × Loc)) (s : State) : Loss × State :=
  let (t, marked, conv) := makeLostTable s.geom (2 * s.earmarks) blocks s.extents
  (⟨marked, !conv.isEmpty⟩, conv.foldl reportConverted (commitTable t s))

/-- Several Make losts one after another, each an operation of its own (R19): all the LBAs marked. -/
def makeLostEach : List (List (Nat × Loc)) → State → List Nat × State
  | [], s => ([], s)
  | blocks :: rest, s =>
    let (r, s) := makeLost blocks s
    let (more, s) := makeLostEach rest s
    (r.marked ++ more, s)

/-- The blocks of a Make lost (lba, count, expected first location) (R31). -/
def lossRange (lba count : Nat) (first : Loc) : List (Nat × Loc) :=
  (List.range count).map (fun i => (lba + i, first.further i))

end Sys2Proof.Machine
end

