-- ==== Sys2Proof/Machine/Lanes.lean ====
section
/-! DEFINITION. The lanes: where a frame is bound (R71, R72), give-up (R69, R79, R80), failed writes and rebinding
(R84 to R87), and the retries of WAITING and FAULTED lanes. -/

namespace Sys2Proof.Machine

/-! ## Locations (R70 to R72) -/

/-- Stream lanes in OPEN that hold a band on an actuator (R71). -/
def State.streamsOn (s : State) (a : Actuator) : Nat :=
  (s.lanes.take 6).countP (fun c => decide (c.state = .opened) && decide (c.act = some a) && c.band.isSome)

/-- The actuator for a stream lane that has none (R71): among the UP ports the one with more bands in BLANK and
PARKED, then with fewer stream lanes in OPEN holding a band there, then A. -/
def State.chooseActuator (s : State) : Option Actuator :=
  let room := fun a => s.blankCount a + s.countIn a .parked
  match (s.port .A).up, (s.port .B).up with
  | false, false => none
  | true, false => some .A
  | false, true => some .B
  | true, true =>
    if room .A < room .B then some .B
    else if room .B < room .A then some .A
    else if s.streamsOn .B < s.streamsOn .A then some .B
    else some .A

/-- The actuator lane n asks on first (R71): its own; for lane 7 without one the job's; else the choice above
(for lane 7 without a job, log 8). A lane 7 in FAULTED when a job starts has that job's as its own (`tellLaneSeven`). -/
def State.laneActuator (s : State) (n : Nat) : Option Actuator :=
  match (s.lane n).act with
  | some a => some a
  | none =>
    if n = 7 then
      match s.rc.job with
      | some j => some j.act
      | none => s.chooseActuator
    else s.chooseActuator

/-- Lane n asks for a band, on its actuator and then on the other (R71). A lane whose actuator's port is DOWN does
not ask. -/
def askBand (n : Nat) (s : State) : Option (Actuator × Nat) × State :=
  match s.laneActuator n with
  | none => (none, s)
  | some a =>
    if (s.port a).up = false then (none, s)
    else
      match allocate n a s with
      | (some b, s') => (some (a, b), s')
      | (none, _) =>
        if (s.port (other a)).up then
          match allocate n (other a) s with
          | (some b, s') => (some (other a, b), s')
          | (none, _) => (none, s)
        else (none, s)

/-- Lane n obtains a band and records it (R71). -/
def obtainBand (n : Nat) (s : State) : Option (Actuator × Nat) × State :=
  match askBand n s with
  | (some (a, b), s) => (some (a, b), s.modLane n (fun c => { c with act := some a, band := some b }))
  | (none, s) => (none, s)

/-- Lane n reserves the next segment of the band it holds (R45). When the reservation brings the reserved pointer to
SPB, or is answered NONE, the lane holds no band afterwards (R72). -/
def reserveHeld (n : Nat) (a : Actuator) (b : Nat) (s : State) : Option SegLoc × State :=
  match reserveSegment n a b s with
  | (some seg, s) =>
    let s := if (s.bandRec a b).state = .opened then s else s.modLane n (fun c => { c with band := none })
    (some ⟨a, .band, b, seg⟩, s)
  | (none, s) => (none, s.modLane n (fun c => { c with band := none }))

/-- A segment of a band for lane n: from the band it holds, or from one it obtains (R72, R86). -/
def bandSegment (n : Nat) (s : State) : Option SegLoc × State :=
  let (got, s) := match (s.lane n).act, (s.lane n).band with
    | some a, some b => reserveHeld n a b s
    | _, _ => (none, s)
  match got with
  | some l => (some l, s)
  | none =>
    match obtainBand n s with
    | (some (a, b), s) => reserveHeld n a b s
    | (none, s) => (none, s)

/-- Whether lane 6 can have a cache segment on an actuator (R58). -/
def State.ringOpen (s : State) (a : Actuator) : Bool :=
  decide (s.service = .ready) && (s.port a).up && decide (1 ≤ s.ringFree a)

/-- The actuator whose ring lane 6 takes (R72): the one with more free segments, A on a tie, excluding a ring whose
port is DOWN. -/
def State.ringChoice (s : State) : Option Actuator :=
  match s.ringOpen .A, s.ringOpen .B with
  | false, false => none
  | true, false => some .A
  | false, true => some .B
  | true, true => if s.ringFree .A < s.ringFree .B then some .B else some .A

/-- A cache segment for lane 6 with its tail counter (R58, R72). -/
def ringSegment (s : State) : Option (SegLoc × Nat) × State :=
  match s.ringChoice with
  | none => (none, s)
  | some a =>
    match cacheSlot a s with
    | (some ctr, s) => (some (s.cacheLoc a ctr, ctr), s)
    | (none, s) => (none, s)

/-- A location for a frame of lane n (R72, R86), with the tail counter of a cache segment. -/
def laneLocation (n : Nat) (s : State) : Option (SegLoc × Nat) × State :=
  if n = 6 then ringSegment s
  else
    match bandSegment n s with
    | (some l, s) => (some (l, 0), s)
    | (none, s) => (none, s)

/-- A granted frame is bound as lane n's open frame (R72): the binding is counted (R154), and the idle timer of a
lane of 0..6 starts. A lane that has returned to CLOSED since a WRITE chose it in FAULTED enters OPEN here (log 7). -/
def openFrame (n id : Nat) (loc : SegLoc) (ctr : Nat) (s : State) : State :=
  let s := s.modFrame id (fun f => { f with bound := some loc, ringCtr := ctr })
  let s := s.modLane n (fun c =>
    { c with openFrame := some id, granted := none, idleTimer := if n = 7 then none else some s.now
             state := if c.state = .closed then .opened else c.state
             lastAccept := if c.state = .closed then some s.now else c.lastAccept })
  countDataSegment s

/-! ## Give-up (R69, R79, R80) -/

/-- A lane gives up (R79): its open frame closes, a stream lane gives up its band, and the lane enters CLOSED. -/
def giveUpLane (n : Nat) (s : State) : State :=
  let s := giveUpLaneBand n (closeOpen n s)
  s.modLane n (fun c =>
    { c with state := .closed, act := none, band := none, nextLba := none, lastAccept := none, idleTimer := none,
             releaseTimer := none, giveUpLater := false })

/-- A stream lane is evicted for a new stream (R69): it gives up and stays OPEN, without an actuator. -/
def evictLane (n : Nat) (s : State) : State :=
  let s := giveUpLaneBand n (closeOpen n s)
  s.modLane n (fun c =>
    { c with act := none, band := none, nextLba := none, lastAccept := some s.now, releaseTimer := none })

/-! ## Failed writes and rebinding (R84 to R86) -/

/-- The LBAs and slots of the blocks that the extent map still maps to their slots in a DATA frame bound at l, in slot
order (R86, log 39). -/
def State.currentBlocks (s : State) (f : Frame) (l : SegLoc) : List (Nat × Nat) :=
  (List.range f.fill).filterMap (fun k =>
    match runsLba f.runs k with
    | some lba => if lookup s.extents lba = .media (l.at k) then some (lba, k) else none
    | none => none)

/-- The blocks of an abandoned lane 7 frame are handed back: the job's entries for them become RETURNED (R143). -/
def returnMoves (f : Frame) (s : State) : State :=
  let inFrame := fun (m : Move) => decide (m.state = .inLane) && (f.slotOf m).isSome
  s.modJob (fun j =>
    { j with moves := j.moves.map (fun m => if inFrame m then { m with state := .returned } else m)
             returned := min (j.returned + j.moves.countP inFrame) Config.max32 })

/-- The blocks of an abandoned DATA frame are made lost run by run (R85 steps 1 to 3). -/
def loseFrame (id : Nat) (f : Frame) (l : SegLoc) (s : State) : State :=
  let (marked, s) := makeLostEach (f.runs.map (fun r => lossRange r.start r.len (l.at r.first))) s
  let s := match marked with
    | [] => s
    | x :: rest => post .dataLost l.act (rest.foldl min x) marked.length s
  tellLost id marked s

/-- A frame on lane n's rebind list whose attempt count has reached 4 is abandoned (R85). -/
def abandonFrame (n id : Nat) (s : State) : State :=
  let f := s.frame id
  match f.bound with
  | none => s
  | some l =>
    let s := if n = 7 then returnMoves f s else loseFrame id f l s
    let s := s.modFrame id (fun f => { f with waiters := [] })
    let s := leaveBand l s
    let s := s.modLane n (fun c => { c with rebind := c.rebind.filter (fun i => i ≠ id) })
    wakeWaiters f.waiters (releaseFrame id s)

/-- A block re-placed from slot x.2 of l to the same slot of loc, when it is still mapped there (R86): one that an
EXHAUSTED Place before it has made lost is left alone (R39). -/
def replaceBlock (l loc : SegLoc) (s : State) (x : Nat × Nat) : State :=
  if lookup s.extents x.1 = .media (l.at x.2) then (place x.1 (loc.at x.2) s).2 else s

/-- A frame on lane n's rebind list is bound to a fresh location (R86); the waiters are told LOST for the blocks whose
re-placement was EXHAUSTED (R81). -/
def moveFrame (n id : Nat) (loc : SegLoc) (ctr : Nat) (s : State) : State :=
  let f := s.frame id
  match f.bound with
  | none => s
  | some l =>
    let current := if n = 7 then [] else s.currentBlocks f l
    let s := current.foldl (replaceBlock l loc) s
    let s := s.modFrame id (fun f => { f with bound := some loc, ringCtr := ctr })
    let s := tellLost id ((current.filter (fun x =>
      decide (lookup s.extents x.1 ≠ .media (loc.at x.2)))).map (fun x => x.1)) s
    let s := countDataSegment (leaveBand l s)
    let s := s.modLane n (fun c => { c with rebind := c.rebind.filter (fun i => i ≠ id) })
    if f.closed then joinQueue n id true (stampFrame n id s) else s

/-- The rebind list has been worked through (R66, R86): a lane that was CLOSED gives up the band it took for the
rebinds, and a FAULTED lane returns to OPEN or CLOSED, where it has neither a next expected LBA nor a last acceptance
(R65). The release timer of a lane of 0..6 runs again in OPEN, unless the lane is that of the data phase (R79); that it
starts from zero at this return is the model's choice (log 39). -/
def endRebind (n : Nat) (s : State) : State :=
  let c := s.lane n
  if c.state = .closed ∨ (c.state = .faulted ∧ c.wasClosed) then
    (giveUpLaneBand n s).modLane n (fun c =>
      { c with state := .closed, act := none, nextLba := none, lastAccept := none, wasClosed := false })
  else if c.state = .faulted then
    s.modLane n (fun c =>
      { c with state := .opened, wasClosed := false
               releaseTimer := if n = 7 ∨ s.phaseLane = some n then none else some s.now })
  else s

/-- Lane n works through its rebind list from its head (R84 to R86), at most `fuel` frames; it enters FAULTED, its release
timer stopped (R79), when no location can be had. A CLOSED lane that enters FAULTED has no last acceptance before it accepts
a block (log 7). -/
def workRebinds (n : Nat) : Nat → State → State
  | 0, s => s
  | fuel + 1, s =>
    match (s.lane n).rebind with
    | [] => endRebind n s
    | id :: _ =>
      if Config.maxWriteAttempts ≤ (s.frame id).attempts then workRebinds n fuel (abandonFrame n id s)
      else
        match laneLocation n s with
        | (some (loc, ctr), s) => workRebinds n fuel (moveFrame n id loc ctr s)
        | (none, s) =>
          s.modLane n (fun c =>
            { c with wasClosed := if c.state = .faulted then c.wasClosed else decide (c.state = .closed)
                     state := .faulted, releaseTimer := none })

/-- Lane n works through its whole rebind list. -/
def workRebindList (n : Nat) (s : State) : State := workRebinds n ((s.lane n).rebind.length + 1) s

/-- The frames of lane n with a close pending that are bound in band b of a above segment seg, ascending (R84). -/
def State.pendingAbove (s : State) (n : Nat) (l : SegLoc) : List Nat :=
  sortByKey (fun id => (s.frame id).position) ((List.range s.pool.frames.length).filter (fun id =>
    let f := s.frame id
    decide (f.state = .inUse) && decide (f.owner = some (.lane n)) && f.closePending &&
    (match f.bound with
     | some m => decide (m.act = l.act) && decide (m.region = .band) && decide (m.band = l.band) &&
        decide (l.seg < m.seg)
     | none => false)))

/-- The frames of lane n that follow a frame failed in a band on to the rebind list (R84): the queued ones in queue
order, those with a close pending by ascending segment, and last the open frame. Where those with a close pending stand
is the model's choice (log 39). -/
def State.laterFrames (s : State) (n : Nat) (l : SegLoc) : List Nat :=
  let above := fun id =>
    match (s.frame id).bound with
    | some m => decide (m.act = l.act) && decide (m.region = .band) && decide (m.band = l.band) &&
        decide (l.seg < m.seg)
    | none => false
  let c := s.lane n
  (c.queues.get l.act).filter above ++ s.pendingAbove n l ++
    (match c.openFrame with
     | some id => if above id then [id] else []
     | none => [])

/-- A frame of lane n failed under WRITE_FAULT or SUPPLY_LATE (R84): it and the lane's later frames of the band join
the rebind list, which is then worked through. The open frame stays the lane's open frame while it waits on the list, so
a close cause closes it there (log 39). -/
def failFrame (n id : Nat) (s : State) : State :=
  match (s.frame id).bound with
  | none => s
  | some l =>
    let later := if l.region = .band then s.laterFrames n l else []
    let s := (id :: later).foldl (fun s i => leaveQueue n i s) s
    let s := s.modFrame id (fun f => { f with attempts := f.attempts + 1 })
    let s := s.modLane n (fun c => { c with rebind := c.rebind ++ id :: later.filter (fun i => !c.rebind.contains i) })
    workRebindList n s

/-! ## WAITING and FAULTED lanes try again (R43, R70, R71, R86, R161) -/

/-- A FAULTED lane informed of a band, of cache space or of a port works through its rebind list again (R86). -/
def retryFaulted (s : State) (n : Nat) : State :=
  if (s.lane n).state = .faulted then workRebindList n s else s

/-- Whether the job is paused (R146, R147). -/
def Job.paused (j : Job) : Bool := j.pausePort || j.pauseProtect

/-- A WAITING lane asks again (R71, R161): it leaves WAITING when it holds or obtains a band, or for lane 6 when a
ring has a segment for it. Lane 7 does not ask while the job is paused (R146). While the distance hold stands no lane asks, a
lane in WAITING for a band included, and a lane 6 that the hold sent into WAITING and that finds no cache segment at its end
stays there, its block not redirected: the model's choices (log 49). -/
def retryWaiting (s : State) (n : Nat) : State :=
  if (s.lane n).state = .waiting ∧ s.distanceHold = false then
    if n = 7 ∧ s.rc.job.any Job.paused then s
    else if n = 6 then
      if s.ringChoice.isSome then s.modLane n (fun c => { c with state := .opened }) else s
    else if (s.lane n).band.isSome then s.modLane n (fun c => { c with state := .opened })
    else
      match obtainBand n s with
      | (some _, s) => s.modLane n (fun c => { c with state := .opened })
      | (none, s) => s
  else s

/-- The lanes in WAITING or FAULTED. -/
def State.stuckLanes (s : State) : List Nat :=
  (List.range 8).filter (fun n =>
    decide ((s.lane n).state = .waiting) || decide ((s.lane n).state = .faulted))

/-- The lanes that wait for a place are informed and each tries again, in an order that is open (R43). -/
def informLanes (s : State) : State := s.forAny s.stuckLanes (fun s n => retryWaiting (retryFaulted s n) n)

end Sys2Proof.Machine
end

