-- ==== Sys2Proof/Machine/Admission.lean ====
section
/-! DEFINITION. Classification of a WRITE to a lane (R67 to R70), the admission gate's test of a block (R93 to R98),
the acceptance of a block (R74), the end of a data phase (R101), and the refusal of turns under the write-protect gate
(R185). -/

namespace Sys2Proof.Machine

/-! ## Classification (R67 to R69) -/

/-- Whether a window matches an LBA (R68). -/
def Window.matchesLba (w : Window) (lba : Nat) : Bool :=
  w.enabled && decide (lba &&& w.mask = w.base &&& w.mask)

/-- Whether a lane is window-bound (R68). -/
def Settings.windowBound (s : Settings) (n : Nat) : Bool := s.windows.any (fun w => w.enabled && decide (w.lane = n))

/-- Step 1 of R67: the lowest stream lane in OPEN or WAITING that expects the LBA. -/
def State.sequentialLane (s : State) (lba : Nat) : Option Nat :=
  (List.range 6).find? (fun n =>
    (decide ((s.lane n).state = .opened) || decide ((s.lane n).state = .waiting)) &&
    decide ((s.lane n).nextLba = some lba))

/-- Step 2 of R67: the lane of the first matching window. -/
def State.windowLane (s : State) (lba : Nat) : Option Nat :=
  (s.work.windows.find? (fun w => w.matchesLba lba)).map (fun w => w.lane)

/-- The lowest-numbered stream lane in CLOSED that is not window-bound (R67 step 3). -/
def State.closedStream (s : State) : Option Nat :=
  (List.range 6).find? (fun n => decide ((s.lane n).state = .closed) && !s.work.windowBound n)

/-- The stream lane with the earliest last acceptance among those in OPEN that are not window-bound, the lower-numbered
of two (R69). -/
def State.oldestStream (s : State) : Option Nat :=
  ((List.range 6).filter (fun n => decide ((s.lane n).state = .opened) && !s.work.windowBound n)).foldl
    (fun best n =>
      match best with
      | none => some n
      | some m => if (s.lane n).lastAccept.getD 0 < (s.lane m).lastAccept.getD 0 then some n else some m) none

/-- Step 3 of R67 with its eviction (R69): a stream lane for a new stream. -/
def takeStream (s : State) : Option Nat × State :=
  match s.closedStream with
  | some n => (some n, s)
  | none =>
    match s.oldestStream with
    | none => (none, s)
    | some n =>
      if s.work.idleLimit ≤ s.now - (s.lane n).lastAccept.getD 0 then (some n, evictLane n s) else (none, s)

/-- The lane of a WRITE (R67). -/
def classify (lba count : Nat) (s : State) : Nat × State :=
  match s.sequentialLane lba with
  | some n => (n, s)
  | none =>
    match s.windowLane lba with
    | some n => (n, s)
    | none =>
      if s.work.streamMin ≤ count then
        match takeStream s with
        | (some n, s) => (n, s)
        | (none, s) => (6, s)
      else (6, s)

/-- A lane chosen or redirected to: CLOSED becomes OPEN, with the present as its last acceptance (R67, R70), and its
release timer stops while it is the lane of the data phase (R79). A FAULTED lane 6 that was CLOSED is assigned from
here on, and returns to OPEN; a window's lane that was CLOSED returns to CLOSED, and enters OPEN with the first frame it
opens for the WRITE (`openFrame`), or WAITING where that frame finds no place (`waitLane`, log 7). -/
def enterLane (n : Nat) (s : State) : State :=
  s.modLane n (fun c =>
    if c.state = .closed then { c with state := .opened, lastAccept := some s.now, releaseTimer := none }
    else if c.state = .faulted ∧ n = 6 ∧ c.wasClosed then
      { c with lastAccept := some s.now, releaseTimer := none, wasClosed := false }
    else { c with releaseTimer := none })

/-! ## The end of a phase and the turns behind it (R101, R179, R185) -/

/-- The request at the head of the write intake leaves it (R179). -/
def popIntake (s : State) : State := { s with intake := s.intake.tail }

/-- While the gate is asserted, each WRITE or RELEASE whose turn comes is refused with PROTECTED (R185), at most `fuel`
of them. -/
def refuseHeads : Nat → State → State
  | 0, s => s
  | fuel + 1, s =>
    if s.gate ∧ s.phase = none then
      match s.intake with
      | [] => s
      | t :: _ =>
        match s.tag t with
        | none => s
        | some e =>
          match e.kind with
          | .write => refuseHeads fuel (complete t .writeProtected 0 (popIntake s))
          | .release => refuseHeads fuel (complete t .writeProtected 0 (popIntake s))
          | .flush => s
          | .read => s
    else s

/-- The turns the asserted gate refuses (R185). -/
def refuseTurns (s : State) : State := refuseHeads s.intake.length s

/-- The lane of an ended data phase gives up what it held for the phase (R66, R91, R101): WAITING returns to OPEN and
the release timer restarts. -/
def leavePhase (n : Nat) (s : State) : State :=
  (dropRequest n s).modLane n (fun c =>
    let c := if c.state = .waiting then { c with state := .opened } else c
    if c.state = .opened then { c with releaseTimer := some s.now } else c)

/-- Lanes that CLOSE_LANES reached during the phase give up at its end (R80). -/
def lateGiveUps (s : State) : State :=
  s.forAny ((List.range 7).filter (fun n => (s.lane n).giveUpLater)) (fun s n =>
    if (s.lane n).state = .opened then giveUpLane n s else s.modLane n (fun c => { c with giveUpLater := false }))

/-- The data phase ends with the WRITE's turn (R101, R179): its lane is released, its accepted count is kept for its
completion (R181), and the next turn begins. -/
def endPhase (s : State) : State :=
  match s.phase with
  | none => s
  | some p =>
    let s := lateGiveUps (leavePhase p.lane { s with phase := none })
    let s := s.modTag p.tag (fun e => { e with stand := .accepted, accepted := p.accepted })
    refuseTurns (checkComplete p.tag (popIntake s))

/-- Whether the data phase is over (R101): every block accepted, or stopped with no pull unanswered. -/
def DataPhase.over (p : DataPhase) : Bool :=
  decide (p.accepted = p.count) || (p.stopped && p.unanswered.isEmpty)

/-- The data phase ends when it is over. -/
def testPhaseEnd (s : State) : State :=
  match s.phase with
  | some p => if p.over then endPhase s else s
  | none => s

/-! ## The gate's test of a block (R94) -/

/-- The block at the gate is redirected to lane m (R70): what the lane before held for it is given back. -/
def redirect (m : Nat) (s : State) : State :=
  match s.phase with
  | none => s
  | some p =>
    let s := leavePhase p.lane s
    enterLane m (s.modPhase (fun p => { p with lane := m, redirected := true }))

/-- Whether the chosen stream lane cannot take blocks (R70): it is FAULTED, or its actuator's port is DOWN. -/
def State.laneLost (s : State) (n : Nat) : Bool :=
  decide (n ≤ 5) && (decide ((s.lane n).state = .faulted) ||
    (match (s.lane n).act with
     | some a => !(s.port a).up
     | none => false))

/-- The run limit (R73, R94 step 1): the open frame closes when the block would need a ninth run in it. -/
def closeAtNinthRun (n lba : Nat) (s : State) : State :=
  match (s.lane n).openFrame with
  | some id => if needsNinthRun (s.frame id).runs lba none && decide ((s.frame id).fill < 16) then closeFrame n id s else s
  | none => s

/-- Step 1 of R94: redirection to lane 6 and the run limit. -/
def settleLane (lba : Nat) (s : State) : State :=
  match s.phase with
  | none => s
  | some p =>
    let s := if s.laneLost p.lane then redirect 6 s else s
    match s.phase with
    | none => s
    | some p => closeAtNinthRun p.lane lba s

/-- Whether lane n has an open frame with a slot left (R94 step 2). -/
def State.hasSlot (s : State) (n : Nat) : Bool :=
  match (s.lane n).openFrame with
  | some id => decide ((s.frame id).fill < 16)
  | none => false

/-- Lane n's frame for the block at the gate (R72): the one granted to it, or a request, made unless it stands in the
queue already. -/
def laneFrame (n : Nat) (s : State) : Option Nat × State :=
  match (s.lane n).granted with
  | some id => (some id, s)
  | none =>
    if s.waits (.lane n) then (none, s)
    else
      match requestFrame (.lane n) s with
      | (some id, s) => (some id, s.modLane n (fun c => { c with granted := some id }))
      | (none, s) => (none, s)

/-- Lane n enters WAITING for a block (R66). A FAULTED lane stays FAULTED. A window's lane that has returned to CLOSED since a
WRITE chose it in FAULTED enters WAITING from CLOSED, which no rule names, and is assigned at that moment, with the present as
its last acceptance (R65): the model's choice (log 7). -/
def waitLane (n : Nat) (s : State) : State :=
  s.modLane n (fun c =>
    if c.state = .faulted then c
    else { c with state := .waiting, lastAccept := if c.state = .closed then some s.now else c.lastAccept })

/-- Step 2 of R94 for lane n: none when a slot stands ready, otherwise the cause that holds the block. A lane that can
bind no location releases its frame at once (R72); whether it then waits is the caller's to settle. PROTECT also when the
block's own ninth run has just brought the sequence limit (R15, R82). A frame granted to the lane's request before the
test found PROTECT stays with the lane, unbound, until the phase ends or the gate lets it open (log 34). An open frame of
fill 16 whose slot 15 was abandoned (R73) meets no cause of R75; it closes here, once the next frame has its location
(log 39). -/
def laneSlot (n : Nat) (s : State) : Option HoldCause × State :=
  if s.hasSlot n then (none, s)
  else if s.gate || s.seqLimit then (some .protect, s)
  else if (s.lane n).state = .waiting then (some .place, s)
  else
    match laneFrame n s with
    | (none, s) => (some .frame, s)
    | (some id, s) =>
      if s.distanceHold then (some .place, waitLane n (dropRequest n s))
      else
        match laneLocation n s with
        | (some (loc, ctr), s) => (none, openFrame n id loc ctr (closeOpen n s))
        | (none, s) => (some .place, dropRequest n s)

/-- Step 2 of R94: a slot in the lane of the phase. A block bound for lane 6 that finds no cache segment goes to a
stream lane (R70). So does one bound for a FAULTED lane 6 under the distance hold, which cannot enter WAITING; the stream
lane then waits (log 49). -/
def findSlot (n : Nat) (s : State) : Option HoldCause × State :=
  match laneSlot n s with
  | (some .place, s) =>
    if (s.lane n).state = .waiting then (some .place, s)
    else if n = 6 then
      match takeStream s with
      | (some m, s) =>
        match laneSlot m (redirect m s) with
        | (some .place, s) => (some .place, waitLane m s)
        | r => r
      | (none, s) => (some .place, waitLane 6 s)
    else (some .place, waitLane n s)
  | r => r

/-- Unanswered promises recorded against an actuator (R98): pulls of lanes 0..5 whose frame lies there. -/
def State.promisesOn (s : State) (p : DataPhase) (a : Actuator) : Nat :=
  p.unanswered.countP (fun u => decide (u.lane ≤ 5) &&
    (match (s.frame u.frame).bound with
     | some l => decide (l.act = a)
     | none => false))

/-- Step 3 of R94 (R98): whether the block passes the credit test. -/
def State.creditPasses (s : State) (p : DataPhase) (id : Nat) : Bool :=
  if p.lane = 6 ∨ p.redirected then true
  else
    match (s.frame id).bound with
    | some l => !(s.credit.get l.act).pressure || decide (s.promisesOn p l.act < (s.credit.get l.act).q)
    | none => true

/-- The block is held (R94, R99): the hold timer starts when it is first held. -/
def holdBlock (c : HoldCause) (s : State) : State :=
  s.modPhase (fun p => { p with hold := some c, holdTimer := some (p.holdTimer.getD s.now) })

/-- The pull is sent (R93, R73, R35): the next slot of the open frame is promised, the run list is extended, two
records are earmarked, and the hold and the idle timer stop. -/
def sendPull (p : DataPhase) (id : Nat) (s : State) : State :=
  let lba := p.lba + p.next
  let slot := (s.frame id).fill
  let s := s.send (.dataPull p.tag)
  let s := s.modFrame id (fun f =>
    { f with fill := f.fill + 1, promises := f.promises + 1, runs := extendRuns f.runs lba f.fill none })
  let s := s.modLane p.lane (fun c => { c with idleTimer := none })
  let s := s.modPhase (fun p =>
    { p with next := p.next + 1, unanswered := p.unanswered ++ [⟨lba, id, slot, p.lane⟩], hold := none,
             holdTimer := none })
  evalMapPressure { s with earmarks := s.earmarks + 1 }

/-- Steps 3 and 4 of R94, with a slot ready in the lane's open frame. -/
def passBlock (s : State) : State :=
  match s.phase with
  | none => s
  | some p =>
    match (s.lane p.lane).openFrame with
    | none => s
    | some id =>
      if s.creditPasses p id = false then holdBlock .credit s
      else if s.freeRecords < Config.frontReserve then holdBlock .records s
      else sendPull p id s

/-- Whether the gate has a block to test (R93): one not yet pulled, with the pull window open. -/
def DataPhase.hasBlock (p : DataPhase) : Bool :=
  !p.stopped && decide (p.next < p.count) && decide (p.unanswered.length < Config.pullWindow)

/-- One test of the block at the gate (R94). -/
def testGate (s : State) : State :=
  match s.phase with
  | none => s
  | some p =>
    if p.hasBlock then
      let s := settleLane (p.lba + p.next) s
      match s.phase with
      | none => s
      | some p =>
        match findSlot p.lane s with
        | (some c, s) => holdBlock c s
        | (none, s) => passBlock s
    else s

/-! ## Acceptance (R74) -/

/-- The lane's timers and its next expected LBA at an acceptance (R74, R78, R79). A lane that is CLOSED, or FAULTED from
CLOSED, is assigned to no stream and expects no LBA (R65, R66). -/
def acceptLane (u : Pull) (current : Bool) (s : State) : State :=
  s.modLane u.lane (fun c =>
    if c.state = .closed then c
    else
      { c with
        nextLba := if u.lane ≤ 5 ∧ c.wasClosed = false then some (u.lba + 1) else c.nextLba
        lastAccept := some s.now
        idleTimer :=
          match c.openFrame with
          | some id => if (s.frame id).promises = 0 then some s.now else none
          | none => none
        releaseTimer := if current || decide (c.state ≠ .opened) then none else some s.now })

/-- Close causes met at an acceptance (R74, R75): a pending close whose last promise is filled, and a full frame. -/
def closeAtAcceptance (u : Pull) (s : State) : State :=
  let f := s.frame u.frame
  if f.closePending then (if f.promises = 0 then sealFrame u.lane u.frame s else s)
  else if u.slot = 15 ∧ (s.lane u.lane).openFrame = some u.frame then closeFrame u.lane u.frame s
  else s

/-- A front block is accepted into its promised slot (R74): stored, placed with its earmark returned, charged, and
counted. Credit that its Place returns comes before its charge (R97, log 33). Map pressure is tested once, on the count after
the whole acceptance (R40, log 34). -/
def acceptBlock (p : DataPhase) (u : Pull) (data : Block) (s : State) : State :=
  let durable := match s.tag p.tag with
    | some e => e.durable
    | none => false
  let s := s.modFrame u.frame (fun f =>
    { f with payload := f.payload.set u.slot data, promises := f.promises - 1,
             waiters := if durable && !f.waiters.contains p.tag then f.waiters ++ [p.tag] else f.waiters })
  let s := { s with earmarks := s.earmarks - 1 }
  let s := s.modPhase (fun p => { p with accepted := p.accepted + 1, unanswered := p.unanswered.tail })
  match (s.frame u.frame).bound with
  | none => s
  | some l =>
    let s := (place u.lba (l.at u.slot) s).2
    let s := if u.lane ≤ 5 then chargeCredit l.act s else s
    closeAtAcceptance u (acceptLane u (decide (p.lane = u.lane)) s)

/-! ## The end of unanswered pulls at a front-link reset (R73, R101) -/

/-- A promised slot is abandoned (R73): a frame whose pending close waited for it closes, and the idle timer restarts
when it was the open frame's last promise (R78). -/
def abandonPromise (s : State) (u : Pull) : State :=
  let s := s.modFrame u.frame (fun f => { f with promises := f.promises - 1 })
  let f := s.frame u.frame
  if f.promises ≠ 0 then s
  else if f.closePending then sealFrame u.lane u.frame s
  else s.modLane u.lane (fun c => if c.openFrame = some u.frame then { c with idleTimer := some s.now } else c)

/-- The data phase ends at a front-link reset (R101, R186). Two frames with a close pending that both lose their last
promise close in the order of the pulls, and all such frames before the open frame of a lane that then gives up because
CLOSE_LANES reached it (R80): the model's choices (log 43). -/
def dropPhase (s : State) : State :=
  match s.phase with
  | none => s
  | some p =>
    let s := p.unanswered.foldl abandonPromise { s with phase := none, earmarks := s.earmarks - p.unanswered.length }
    evalMapPressure (lateGiveUps (leavePhase p.lane s))

end Sys2Proof.Machine
end

