-- ==== Sys2Proof/Machine/ReadServer.lean ====
section
/-! DEFINITION. The read server (chapter 7): resolution of a READ (R119), segment read entries (R120 to R122),
delivery and completion (R123, R124), port waits (R125) and read-ahead (R127 to R129). -/

namespace Sys2Proof.Machine

/-! ## What a READ holds (R119, R123, R124) -/

/-- The index of the first block a READ will not deliver: its failing block, or its count (R124). -/
def ReadRec.stop (r : ReadRec) : Nat :=
  match r.failing with
  | some (i, _, _) => i
  | none => r.count

/-- The sources a READ still relies on (R123, R124). -/
def ReadRec.live (r : ReadRec) : List Source := (r.sources.take r.stop).drop r.next

/-- The frame of a FRAME source. -/
def Source.frame? : Source → Option Nat
  | .frame id _ => some id
  | .zero => none
  | .media _ => none
  | .absent => none

/-- The segment of a MEDIA source. -/
def Source.segment? : Source → Option SegLoc
  | .media l => some l.segment
  | .zero => none
  | .frame _ _ => none
  | .absent => none

/-- The location of a MEDIA or FRAME source in BAND (R127). -/
def Source.bandLoc? : Source → Option SegLoc
  | .media l => if l.segment.region = .band then some l.segment else none
  | .frame _ l => if l.segment.region = .band then some l.segment else none
  | .zero => none
  | .absent => none

/-- The frames a READ pins, once each (R92). -/
def ReadRec.frames (r : ReadRec) : List Nat := (r.live.filterMap Source.frame?).eraseDups

/-- The segments a READ pins, once each (R55, R61), in ascending LBA order of the first block of each. -/
def ReadRec.segments (r : ReadRec) : List SegLoc := (r.live.filterMap Source.segment?).eraseDups

/-- The record of an outstanding READ. -/
def State.readRec (s : State) (tag : Nat) : Option ReadRec := s.rs.reads.find? (fun r => decide (r.tag = tag))

/-- The state with a READ's record changed, its holds left alone. -/
def State.modRead (s : State) (tag : Nat) (f : ReadRec → ReadRec) : State :=
  { s with rs := { s.rs with reads := s.rs.reads.map (fun r => if r.tag = tag then f r else r) } }

/-- The blocks of a READ, by index, that it still needs from a segment (R118, R121): those not yet delivered, also for the
failing LBA of R124 when an entry was recycled after some of them had been (log 35). -/
def ReadRec.needs (r : ReadRec) (l : SegLoc) : List (Nat × Nat) :=
  (List.range r.stop).filterMap (fun i =>
    match r.sources.getD i .absent with
    | .media m => if r.next ≤ i ∧ m.segment = l then some (i, m.slot) else none
    | .zero => none
    | .frame _ _ => none
    | .absent => none)

/-- A READ leaves an entry (R123): an entry that no READ is interested in any longer is deleted, or left to its result
when it is in flight. -/
def leaveEntry (tag : Nat) (l : SegLoc) (s : State) : State :=
  let s := s.modEntry l (fun e => { e with interested := e.interested.filter (fun t => t ≠ tag) })
  match s.entry l with
  | some e => if e.ahead = false ∧ e.interested = [] ∧ e.state ≠ .inFlight then deleteEntry l s else s
  | none => s

/-- A READ gives up a segment: its pin is released and it leaves the entry (R123, R124). -/
def giveUpSegment (tag : Nat) (s : State) (l : SegLoc) : State := leaveEntry tag l (unpinSegment l s)

/-- A READ's record changes, and it releases every frame and segment it no longer needs (R123, R124), the segments in
ascending LBA order (log 43). -/
def updateRead (tag : Nat) (f : ReadRec → ReadRec) (s : State) : State :=
  match s.readRec tag with
  | none => s
  | some r =>
    let r' := f r
    let s := s.modRead tag (fun _ => r')
    let s := (r.frames.filter (fun id => !r'.frames.contains id)).foldl (fun s id => unpinFrame id s) s
    (r.segments.filter (fun l => !r'.segments.contains l)).foldl (giveUpSegment tag) s

/-! ## Completion (R123, R124) -/

/-- A READ that has delivered every block below its failing LBA, or all of them, completes (R123, R124). -/
def finishRead (tag : Nat) (s : State) : State :=
  match s.readRec tag with
  | none => s
  | some r =>
    if r.next < r.stop then s
    else
      let s := { s with rs := { s.rs with reads := s.rs.reads.filter (fun x => x.tag ≠ tag) } }
      match r.failing with
      | none => complete tag .good r.count s
      | some (i, .lost, _) => complete tag .lost (r.lba + i) s
      | some (i, .mediaError, a) =>
        complete tag .mediaError (r.lba + i) (post .readFailed a (r.lba + i) (r.count - r.next) s)

/-! ## Segment read entries (R120 to R122) -/

/-- A frame is granted to an entry (R120): it enters QUEUED at the tail of its port's queue. -/
def grantEntry (l : SegLoc) (id : Nat) (s : State) : State :=
  let s := s.modEntry l (fun e => { e with frame := some id, state := .queued })
  { s with rs := { s.rs with queues := s.rs.queues.modify l.act (fun q => q ++ [l]) } }

/-- Whether a READ's next block lies in an entry in WAITING FRAME other than l (R122). -/
def State.waitsElsewhere (s : State) (l : SegLoc) (tag : Nat) : Bool :=
  match s.readRec tag with
  | none => false
  | some r =>
    match (r.live.head?).bind Source.segment? with
    | some m =>
      decide (m ≠ l) &&
      (match s.entry m with
       | some e => decide (e.state = .waitingFrame)
       | none => false)
    | none => false

/-- Whether an entry is stalled (R122); an entry no READ is interested in is not (log 12). -/
def State.stalled (s : State) (e : ReadEntry) : Bool :=
  decide (e.state = .ready) && !e.interested.isEmpty && e.interested.all (fun t => s.waitsElsewhere e.loc t)

/-- Whether a request is the read server's. -/
def Requester.ofReadServer : Requester → Bool
  | .readEntry _ => true
  | .lane _ => false
  | .source _ => false
  | .page => false
  | .close => false
  | .notice => false
  | .scanner _ => false

/-- The stalled entry created most recently (R122). -/
def State.latestStalled (s : State) : Option ReadEntry :=
  (s.rs.entries.filter s.stalled).foldl (fun best e =>
    match best with
    | some b => if b.order < e.order then some e else some b
    | none => some e) none

/-- The test of R122: while a read-server request waits in the pool's READ queue, the most recent stalled entry is
recycled. The request of the recycled entry brings no further test (log 35). -/
def recycleStalled (s : State) : State :=
  if s.pool.waitRead.any Requester.ofReadServer then
    match s.latestStalled with
    | some e =>
      let s := releaseHeld e.frame s
      let s := s.modEntry e.loc (fun e => { e with frame := none, state := .waitingFrame })
      (requestFrame (.readEntry e.loc) s).2
    | none => s
  else s

/-- The segments whose entries are stalled (R122). -/
def State.stalledAt (s : State) : List SegLoc := (s.rs.entries.filter s.stalled).map (fun e => e.loc)

/-- The test that follows when an entry becomes stalled (R122); `before` names the entries that were. Several entries that
become stalled in one delivery, recorded failure, takeover or result bring one test (log 35). -/
def testStalled (before : List SegLoc) (s : State) : State :=
  if s.stalledAt.any (fun l => !before.contains l) then recycleStalled s else s

/-- A failure is recorded for a READ at block i (R124); what it gives up may leave an entry stalled (R122). -/
def recordFailure (tag i : Nat) (fail : ReadFail) (a : Actuator) (s : State) : State :=
  match s.readRec tag with
  | none => s
  | some r =>
    if i < r.stop then
      testStalled s.stalledAt (finishRead tag (updateRead tag (fun r => { r with failing := some (i, fail, a) }) s))
    else s

/-- An entry asks the pool for a READ-class frame as a waiting request (R120, R121); a refusal is an event of R122. A request
that joins a queue that is not empty without a test (R91) counts as a refusal too (log 35). -/
def askEntry (l : SegLoc) (s : State) : State :=
  match requestFrame (.readEntry l) s with
  | (some id, s) => grantEntry l id s
  | (none, s) => recycleStalled s

/-- A new entry in the read server's table. -/
def addEntry (e : ReadEntry) (s : State) : State :=
  { s with rs := { s.rs with entries := s.rs.entries ++ [e], order := s.rs.order + 1 } }

/-- A READ takes its interest in a segment (R120): it joins a DEMAND entry, takes over an AHEAD entry (R129), or
creates the entry. An entry taken over READY may be stalled at once (R122). -/
def joinEntry (tag : Nat) (s : State) (l : SegLoc) : State :=
  match s.entry l with
  | some e =>
    if e.ahead then
      testStalled s.stalledAt
        (s.modEntry l (fun e => { e with ahead := false, dropped := false, interested := [tag] }))
    else s.modEntry l (fun e => { e with interested := e.interested ++ [tag] })
  | none => askEntry l (addEntry ⟨l, false, .waitingFrame, 0, none, [tag], s.rs.order, 0, false⟩ s)

/-! ## Read-ahead (R127 to R129) -/

/-- Whether the read-ahead may fetch a segment of a band (R128 step 2). An AHEAD entry dropped in flight no longer counts
toward the two. -/
def State.fetchable (s : State) (a : Actuator) (b seg : Nat) : Bool :=
  let r := s.bandRec a b
  let live := decide (r.state = .full) || decide (r.state = .draining) || decide (r.state = .opened) ||
    decide (r.state = .parked)
  let ahead := s.rs.entries.countP (fun e => e.ahead && !e.dropped && decide (e.loc.act = a))
  decide (ahead < Config.maxAhead) && decide (seg < r.written) && live && (s.entry ⟨a, .band, b, seg⟩).isNone

/-- The target of a fetch (R128 step 1): after the stream segment and every AHEAD entry of the stream band. -/
def State.fetchTarget (s : State) (a : Actuator) (b seg : Nat) : Nat :=
  ((s.rs.entries.filter (fun e => e.ahead && decide (e.loc.act = a) && decide (e.loc.region = .band) &&
    decide (e.loc.band = b))).map (fun e => e.loc.seg)).foldl max seg + 1

/-- One fetch (R128): true when an AHEAD entry was made. -/
def fetchAhead (a : Actuator) (s : State) : Bool × State :=
  match (s.rs.ahead.get a).band, (s.rs.ahead.get a).seg with
  | some b, some seg =>
    let target := s.fetchTarget a b seg
    if s.fetchable a b target then
      let l : SegLoc := ⟨a, .band, b, target⟩
      match requestNoWait (.readEntry l) s with
      | (some id, s) => (true, grantEntry l id (addEntry ⟨l, true, .waitingFrame, 0, none, [], s.rs.order, 0, false⟩ s))
      | (none, s) => (false, s)
    else (false, s)
  | _, _ => (false, s)

/-- Fetches one after another until a stop condition or a refusal ends them (R128), at most `fuel`. -/
def fetchMany (a : Actuator) : Nat → State → State
  | 0, s => s
  | fuel + 1, s =>
    match fetchAhead a s with
    | (true, s) => fetchMany a fuel s
    | (false, s) => s

/-- The location in BAND on an actuator of a READ's last block below any failing LBA (R127). -/
def ReadRec.lastOn (r : ReadRec) (a : Actuator) : Option SegLoc :=
  match ((r.sources.take r.stop).getLast?).bind Source.bandLoc? with
  | some l => if l.act = a then some l else none
  | none => none

/-- Whether a READ is sequential on a port (R127). -/
def State.sequentialRead (s : State) (r : ReadRec) (a : Actuator) : Bool :=
  decide ((s.rs.ahead.get a).endLba = some r.lba) && r.sources.all (fun x =>
    match x.bandLoc? with
    | some l => decide (l.act = a)
    | none => false)

/-- The read-ahead record's update, the trigger and the fetches on one port (R127, R128); `taken` says that the READ
took over an AHEAD entry of this port (R129). -/
def updateAhead (r : ReadRec) (taken : Actuator → Bool) (s : State) (a : Actuator) : State :=
  match r.lastOn a with
  | some l =>
    let trigger := s.sequentialRead r a
    let s := { s with rs := { s.rs with
      ahead := s.rs.ahead.modify a (fun _ => ⟨some (r.lba + r.count), some l.band, some l.seg⟩) } }
    match s.work.readAhead with
    | .off => s
    | .one => if trigger then (fetchAhead a s).2 else s
    | .continuous => if trigger || taken a then fetchMany a (Config.maxAhead + 1) s else s
  | none =>
    if s.work.readAhead = .continuous ∧ taken a then fetchMany a (Config.maxAhead + 1) s else s

/-! ## Acceptance (R119) -/

/-- The source of one block (R119). -/
def State.sourceOf (s : State) (lba : Nat) : Source :=
  match lookup s.extents lba with
  | .unmapped => .zero
  | .lost => .absent
  | .media l =>
    match s.holder l.segment with
    | some id => .frame id l
    | none => .media l

/-- The record of a READ at its acceptance (R119): the first LOST block is its failing block, and it and every later
block have no source. -/
def State.resolve (s : State) (tag lba count : Nat) : ReadRec :=
  let found := (List.range count).map (fun i => s.sourceOf (lba + i))
  match found.findIdx? (fun x => decide (x = .absent)) with
  | some i => ⟨tag, lba, count, found.take i ++ List.replicate (count - i) .absent, 0, some (i, .lost, .A), none⟩
  | none => ⟨tag, lba, count, found, 0, none, none⟩

/-- A READ is accepted on to the active read list (R119, R120, R127): resolved, its holds placed, its interests taken,
and read-ahead led, port A's fetches before port B's (log 35). -/
def acceptRead (tag lba count : Nat) (s : State) : State :=
  let r := s.resolve tag lba count
  let taken := fun a => r.segments.any (fun l => decide (l.act = a) &&
    (match s.entry l with
     | some e => e.ahead
     | none => false))
  let s := { s with rs := { s.rs with reads := s.rs.reads ++ [r] } }
  let s := r.frames.foldl (fun s id => pinFrame id s) s
  let s := r.segments.foldl (fun s l => joinEntry tag (pinSegment l s) l) s
  let s := [Actuator.A, Actuator.B].foldl (updateAhead r taken) s
  finishRead tag s

/-! ## Delivery (R123) -/

/-- A READ's next block, when its source is ready (R123). -/
def State.readyBlock (s : State) (r : ReadRec) : Option Block :=
  match r.live.head? with
  | none => none
  | some .zero => some 0
  | some .absent => none
  | some (.frame id l) => some ((s.frame id).payload.getD l.slot 0)
  | some (.media l) =>
    match s.entry l.segment with
    | some e =>
      if e.state = .ready then e.frame.map (fun id => (s.frame id).payload.getD l.slot 0) else none
    | none => none

/-- The next block of a READ is sent when it is ready, and the READ completes after its last (R123, R124). -/
def deliver (tag : Nat) (s : State) : State :=
  match s.readRec tag with
  | none => s
  | some r =>
    match s.readyBlock r with
    | none => s
    | some data =>
      testStalled s.stalledAt (finishRead tag (updateRead tag (fun r => { r with next := r.next + 1 })
        (s.send (.readData tag (r.lba + r.next) data))))

/-! ## Results of segment reads (R121, R130) -/

/-- Whether a stamp agrees with every block the interested READs need from a segment (R121). -/
def State.agreesAll (s : State) (e : ReadEntry) (t : Stamp) : Bool :=
  e.interested.all (fun tag =>
    match s.readRec tag with
    | some r => (r.needs e.loc).all (fun x => t.agrees (r.lba + x.1) x.2)
    | none => true)

/-- The pins of READs dropped at a front-link reset that waited for an entry's result are released (R126). -/
def releaseDropped (l : SegLoc) (count : Nat) (s : State) : State :=
  (List.range count).foldl (fun s _ => unpinSegment l s) (s.modEntry l (fun e => { e with droppedPins := 0 }))

/-- An entry fails its third attempt (R121, R124): each interested READ records MEDIA_ERROR at its lowest block in the
entry, in an order that is open, and the entry is deleted. Each READ gives up its pins, and completes with READ_FAILED where
it ends so, before the next READ records its failure: the model's choice (log 35). -/
def failEntry (e : ReadEntry) (s : State) : State :=
  (deleteEntry e.loc s).forAny e.interested (fun s tag =>
    match s.readRec tag with
    | some r =>
      match (r.needs e.loc).head? with
      | some (i, _) => recordFailure tag i .mediaError e.loc.act s
      | none => s
    | none => s)

/-- A failed attempt (R121): the frame is released and a new request made, or the entry has failed. An AHEAD entry is
dropped (R130). The request is made before the freed frame is offered (log 45); where it is refused and other entries
become stalled by it, one test serves both (R122, log 35). -/
def retryEntry (e : ReadEntry) (s : State) : State :=
  if e.ahead then deleteEntry e.loc s
  else if Config.maxReadAttempts ≤ e.attempts + 1 then failEntry e s
  else
    let s := unqueueEntry e.loc (releaseHeld e.frame s)
    let s := s.modEntry e.loc (fun e => { e with attempts := e.attempts + 1, frame := none, state := .waitingFrame })
    askEntry e.loc s

/-- What a segment read's end tells its requester: the verdict and stamp of a DONE, UNREADABLE, or NOT_READY. -/
inductive ReadEnd where
  | done (verdict : Verdict) (stamp : Option Stamp)
  | unreadable
  | notReady
deriving DecidableEq, Repr

/-- The result of the read server's operation at the head of a port's queue (R115, R121, R126, R130). -/
def entryResult (l : SegLoc) (r : ReadEnd) (s : State) : State :=
  match s.entry l with
  | none => s
  | some e =>
    let s := releaseDropped l e.droppedPins s
    if e.dropped || (!e.ahead && e.interested.isEmpty) then deleteEntry l s
    else
      match r with
      | .notReady => s.modEntry l (fun e => { e with state := .queued })
      | .unreadable => retryEntry e s
      | .done .good (some t) =>
        if e.ahead || s.agreesAll e t then
          testStalled s.stalledAt (unqueueEntry l (s.modEntry l (fun e => { e with state := .ready })))
        else retryEntry e s
      | .done _ _ => retryEntry e s

/-! ## Port waits (R125) -/

/-- The lowest undelivered block of a READ whose source lies in an entry of a DOWN port that is not READY, with the
port's actuator (R125). -/
def State.blockedAt (s : State) (r : ReadRec) : Option (Nat × Actuator) :=
  (List.range r.stop).findSome? (fun i =>
    match r.sources.getD i .absent with
    | .media l =>
      if r.next ≤ i ∧ (s.port l.segment.act).up = false then
        match s.entry l.segment with
        | some e => if e.state ≠ .ready then some (i, l.segment.act) else none
        | none => none
      else none
    | .zero => none
    | .frame _ _ => none
    | .absent => none)

/-- The port wait timers started and stopped (R125), as the READs stand after the event. The one timer of a READ runs on
while it waits on either port, also where the wait on one port begins or ends during that on the other (log 35). -/
def refreshWaits (s : State) : State :=
  { s with rs := { s.rs with reads := s.rs.reads.map (fun r =>
      { r with waitTimer := if (s.blockedAt r).isSome then some (r.waitTimer.getD s.now) else none }) } }

/-- Whether a READ's port wait timer has reached HOLD_LIMIT (R125). -/
def State.waitRanOut (s : State) (tag : Nat) : Bool :=
  (s.readRec tag).any (fun r => s.ranFor r.waitTimer s.work.holdLimit)

/-- A port wait expires (R125). -/
def expireWait (tag : Nat) (s : State) : State :=
  match (s.readRec tag).bind s.blockedAt with
  | some (i, a) => recordFailure tag i .mediaError a s
  | none => s

/-! ## READs dropped at a front-link reset (R126) -/

/-- A dropped READ gives up a segment (R126): the pin for an entry in flight waits for its result. -/
def dropSegment (tag : Nat) (s : State) (l : SegLoc) : State :=
  match s.entry l with
  | some e =>
    if e.state = .inFlight then
      leaveEntry tag l (s.modEntry l (fun e => { e with droppedPins := e.droppedPins + 1 }))
    else giveUpSegment tag s l
  | none => giveUpSegment tag s l

/-- A READ dropped without a completion (R126). It gives up its segments in ascending LBA order (log 43). -/
def dropRead (s : State) (r : ReadRec) : State :=
  let s := { s with rs := { s.rs with reads := s.rs.reads.filter (fun x => x.tag ≠ r.tag) } }
  let s := r.frames.foldl (fun s id => unpinFrame id s) s
  r.segments.foldl (dropSegment r.tag) s

end Sys2Proof.Machine
end

