-- ==== Sys2Proof/Machine/CheckpointWriter.lean ====
section
/-! DEFINITION. The checkpoint writer (chapter 9): checkpoint-ring segments (R150), notices (R151 to R153), the start of
a checkpoint and its pages and close (R155 to R158), completion (R159) and abandonment (R160). -/

namespace Sys2Proof.Machine

/-! ## Checkpoint-ring segments (R150) -/

/-- The segment location of a checkpoint ring counter value (R3, R149). -/
def State.ckLoc (s : State) (ctr : Nat) : SegLoc := ⟨.A, .ckring, 0, ctr % s.cks⟩

/-- A checkpoint-ring frame closes (R150): its contents are fixed, it is bound at ring_tail, sequenced and stamped, and
it joins the tail of the ring queue. -/
def bindRing (kind : RingKind) (seg : SegKind) (id : Nat) (payload : List Block) (filled : Nat) (s : State) : State :=
  let ctr := s.ck.ringTail
  let loc := s.ckLoc ctr
  let (seq, s) := assignSeq s
  let stamp : Stamp := ⟨seg, s.epoch.getD 0, seq, loc, 0, [], 0, filled, checkWord (payloadFold payload) seq⟩
  let s := s.modFrame id (fun f =>
    { f with bound := some loc, payload := payload, fill := filled, seq := some seq, closed := true,
             stamp := some stamp })
  s.modCk (fun c => { c with ringTail := ctr + 1, queue := c.queue ++ [⟨kind, id, ctr⟩] })

/-- The segment of the ring queue that a frame is for. -/
def State.ringSeg (s : State) (id : Nat) : Option RingSeg := s.ck.queue.find? (fun q => decide (q.frame = id))

/-- A checkpoint-ring segment leaves the ring queue. -/
def unqueueRing (id : Nat) (s : State) : State :=
  s.modCk (fun c => { c with queue := c.queue.filter (fun q => q.frame ≠ id) })

/-- Free at or below CKS / 2 requests a checkpoint (R154). -/
def testRingHalf (s : State) : State := if 2 * s.ckFree ≤ s.cks then requestCk s else s

/-! ## Notices (R151 to R153) -/

/-- The closed notice binds when its frame is granted and free is 98 or more (R152, R153); one past its counter value is
kept for the rewind point of a running checkpoint (R160). -/
def bindNotice (s : State) : State :=
  match s.ck.notice with
  | none => s
  | some n =>
    match n.frame with
    | none => s
    | some id =>
      if n.bound then s
      else if s.ckFree < Config.noticeReserve then s
      else
        let s := bindRing .notice .notice id (recordSlots (n.records.map ReleaseRec.bytes)) (slotsFor n.records.length) s
        let s := s.modCk (fun c => { c with notice := c.notice.map (fun n => { n with bound := true }) })
        let s := s.modRun (fun r => { r with noticeEnd := s.ck.ringTail })
        testRingHalf s

/-- A META frame is granted to the closed notice (R152). -/
def grantNotice (id : Nat) (s : State) : State :=
  bindNotice (s.modCk (fun c => { c with notice := c.notice.map (fun n => { n with frame := some id }) }))

/-- The batch is emptied into a new closed notice, when there is none and the batch is not empty (R152). -/
def takeBatch (s : State) : State :=
  if s.ck.notice.isNone ∧ s.ck.batch ≠ [] then
    let s := s.modCk (fun c => { c with notice := some ⟨c.batch, none, false, 0⟩, batch := [] })
    match requestFrame .notice s with
    | (some id, s) => grantNotice id s
    | (none, s) => s
  else s

/-- Whether the checkpoint writer allows a RELEASE (R151). -/
def State.releaseRoom (s : State) : Bool :=
  (s.port .A).up && decide (Config.noticeReserve ≤ s.ckFree) && decide (s.ck.batch.length < Config.recordsPerSegment)

/-- The closed notice has ended (R152, R153, R182): its RELEASEs complete, in an order that is open, its frame is
released, and the batch is taken. -/
def endNotice (ok : Bool) (s : State) : State :=
  match s.ck.notice with
  | none => s
  | some n =>
    let s := releaseHeld n.frame s
    let s := s.modCk (fun c => { c with notice := none })
    let s := s.forAny (n.records.filterMap (fun r => r.tag)) (completeRelease ok)
    takeBatch s

/-- A notice's write failed (R153). -/
def failNotice (id ctr : Nat) (s : State) : State :=
  let s := post .checkpointFailed .A (ctr % s.cks) 0 (unqueueRing id s)
  let s := s.modCk (fun c =>
    { c with notice := c.notice.map (fun n => { n with bound := false, attempts := n.attempts + 1 }) })
  match s.ck.notice with
  | none => s
  | some n =>
    if Config.maxWriteAttempts ≤ n.attempts then requestCk (endNotice false s) else bindNotice s

/-! ## Abandonment (R160) -/

/-- Whether a checkpoint start is possible (R154). -/
def State.startPossible (s : State) : Bool :=
  (decide (s.service = .ready) || decide (s.service = .formatting)) && (s.port .A).up && !s.gate

/-- The start that follows an abandonment (R160): at once where it is possible, which CHECKPOINT_START carries out (log 3),
and otherwise the wanted flag is set. -/
def restartCk (s : State) : State :=
  if s.startPossible then s.modCk (fun c => { c with restart := true }) else requestCk s

/-- The running checkpoint is abandoned (R160): its pages and close leave the ring queue, its META request is
withdrawn and ring_tail moves back to the rewind point. Unless this was the fourth failed attempt after FORMAT (R176), the
checkpoint starts again at once where a start is possible, the wanted flag left as it stands, and is wanted otherwise. A
notice that waited for free binds here, before the restarted checkpoint takes its start position (log 33). The frame of a
page whose write is in flight stays with the writer as it is until the result (R104, R113, log 40). -/
def abandonCheckpoint (s : State) : State :=
  match s.ck.run with
  | none => s
  | some r =>
    let mine := (s.ck.queue.filter (fun q => q.kind ≠ .notice)).map (fun q => q.frame)
    let s := (mine.filter (fun id => !s.writing .A id)).foldl (fun s id => releaseFrame id s) s
    let s := releaseHeld r.pageFrame (if r.closeBound then s else releaseHeld r.closeFrame s)
    let s := withdraw .close (withdraw .page s)
    let s := s.modCk (fun c =>
      { c with queue := c.queue.filter (fun q => q.kind = .notice), ringTail := max r.startPos r.noticeEnd, run := none })
    let s := if r.answers then { s with maint := { s.maint with awaitStart := true } } else s
    let s :=
      match s.ck.formatTries with
      | some n =>
        if Config.maxWriteAttempts ≤ n + 1 then
          { s.modCk (fun c => { c with wanted := false, formatTries := none }) with service := .halted }
        else restartCk (s.modCk (fun c => { c with formatTries := some (n + 1) }))
      | none => restartCk s
    bindNotice s

/-- The write of a page ends that was in flight when its checkpoint was abandoned, at this ring index (R104, R113): a
failure is posted (R160), and the frame is released (log 40). -/
def endAbandoned (id seg : Nat) (failed : Bool) (s : State) : State :=
  releaseFrame id (if failed then post .checkpointFailed .A seg 0 s else s)

/-- A page or close write failed (R160). -/
def failCheckpoint (ctr : Nat) (s : State) : State :=
  abandonCheckpoint (post .checkpointFailed .A (ctr % s.cks) 0 s)

/-! ## Pages and the close (R156 to R158) -/

/-- Bands of one actuator under the geometry in force. -/
def State.bpa (s : State) (a : Actuator) : Nat := (s.geom.map (fun g => g.bpa a)).getD 0

/-- The extent records at or above a cursor, the first trimmed to start there (R157). -/
def extentsFrom (t : List Extent) (cursor : Nat) : List Extent :=
  (t.filter (fun e => decide (cursor < e.stop))).map (fun e =>
    if e.start < cursor then ⟨cursor, e.stop - cursor, e.kind.further (cursor - e.start)⟩ else e)

/-- The band page cursor after a page that took the bands from b on (R155, R156). -/
def State.nextBandCursor (s : State) (a : Actuator) (b : Nat) : Option (Actuator × Nat) :=
  if b + Config.recordsPerSegment < s.bpa a then some (a, b + Config.recordsPerSegment)
  else
    match a with
    | .A => some (.B, 0)
    | .B => none

/-- The close segment closes once its frame is granted and every page has returned DONE (R158), while free is 1 or more
(R150). -/
def bindClose (s : State) : State :=
  match s.ck.run, s.geom with
  | some r, some g =>
    match r.closeFrame with
    | none => s
    | some id =>
      if r.closeBound = false ∧ r.pagesDone = r.pages.length ∧ 1 ≤ s.ckFree then
        let block := closeBlock r.sStart (s.epoch.getD 0) r.startPos r.pagesA r.pagesB r.pagesExt g r.captured s.work
          r.pages
        (bindRing .close .close id (block :: List.replicate 15 0) 1 s).modRun (fun r => { r with closeBound := true })
      else s
  | _, _ => s

/-- A META frame is granted for the close (R158). -/
def grantClose (id : Nat) (s : State) : State :=
  bindClose (s.modRun (fun r => { r with closeFrame := some id, ask := .nothing }))

/-- Whether pages remain to be captured (R156, R157). -/
def State.pagesRemain (s : State) (r : CkRun) : Bool :=
  r.bandCursor.isSome || !(extentsFrom s.extents r.extCursor).isEmpty

/-- The frame for the next page, or for the close once the last page has been bound, is asked for (R155, R158). Which page
is the last is judged at its binding: a record that appears at or above the cursor after that takes no page, and whether the
table has a record at the start of the extent pages is judged when the last band page is bound (log 3). -/
def askNext (s : State) : Option Nat × State :=
  match s.ck.run with
  | none => (none, s)
  | some r =>
    if s.pagesRemain r then requestFrame .page (s.modRun (fun r => { r with ask := .page }))
    else
      match requestFrame .close (s.modRun (fun r => { r with ask := .close })) with
      | (some id, s) => (none, grantClose id s)
      | (none, s) => (none, s)

/-- A band page is captured and bound (R156). -/
def captureBands (a : Actuator) (b id : Nat) (r : CkRun) (s : State) : State :=
  let records := (((s.bm.get a).bands.drop b).take Config.recordsPerSegment).map (fun x => x.pageBytes r.sStart)
  let ctr := s.ck.ringTail
  (bindRing .page .bandpage id (recordSlots records) (slotsFor records.length) s).modRun (fun r =>
    { r with bandCursor := s.nextBandCursor a b, pages := r.pages ++ [ctr]
             pagesA := if a = .A then r.pagesA + 1 else r.pagesA
             pagesB := if a = .B then r.pagesB + 1 else r.pagesB })

/-- An extent page is captured and bound (R157). -/
def captureExtents (records : List Extent) (id : Nat) (s : State) : State :=
  let ctr := s.ck.ringTail
  (bindRing .page .extpage id (recordSlots (records.map Extent.bytes)) (slotsFor records.length) s).modRun (fun r =>
    { r with extCursor := (records.getLast?.map Extent.stop).getD r.extCursor, pages := r.pages ++ [ctr]
             pagesExt := r.pagesExt + 1 })

/-- The abandonment of a checkpoint whose 64th extent page leaves records behind (R157). -/
def testOverflow (s : State) : State :=
  match s.ck.run with
  | none => s
  | some r =>
    let left := (extentsFrom s.extents r.extCursor).length
    if Config.maxExtentPages ≤ r.pagesExt ∧ 0 < left then
      abandonCheckpoint (post .checkpointFailed .A left 0 s)
    else s

/-- A page frame is granted (R155 to R157): the page is captured, closed and bound, and the frame for the next page is
asked for, which may be granted at once; at most `fuel` pages. A frame granted when nothing is left to capture serves
the close (log 3). While free is 0 the page waits with its frame (R150): free does not rise before the checkpoint is
abandoned (log 30). -/
def capturePages : Nat → Nat → State → State
  | 0, _, s => s
  | fuel + 1, id, s =>
    match s.ck.run with
    | none => s
    | some r =>
      if s.pagesRemain r ∧ s.ckFree = 0 then s.modRun (fun r => { r with ask := .nothing, pageFrame := some id })
      else
      let after := fun s =>
        match askNext s with
        | (some id, s) => capturePages fuel id s
        | (none, s) => s
      match r.bandCursor with
      | some (a, b) => after (captureBands a b id r s)
      | none =>
        let records := (extentsFrom s.extents r.extCursor).take Config.recordsPerSegment
        if records.isEmpty then grantClose id s
        else
          let s := testOverflow (captureExtents records id s)
          after s

/-- A META frame is granted for a page (R155). -/
def grantPage (id : Nat) (s : State) : State := capturePages (FrameClass.cap .metadata + 1) id s

/-! ## Start and completion (R154, R155, R159) -/

/-- The counters of a cache ring captured at a checkpoint's start (R63). -/
def State.captureRing (s : State) (a : Actuator) : Captured :=
  ⟨(s.ring a).freeHead, (s.ring a).migrateHead, (s.ring a).tail⟩

/-- A checkpoint starts (R155), when one is wanted or is to start again, none runs and a start is possible. The start that
follows an abandonment leaves the wanted flag as it stands (R160), any other clears it (R154). -/
def startCheckpoint (s : State) : State :=
  if s.ck.run.isNone ∧ (s.ck.wanted ∨ s.ck.restart) ∧ s.startPossible then
    let run : CkRun := ⟨s.seq.getD 0, s.ck.ringTail, ⟨s.captureRing .A, s.captureRing .B⟩, some (.A, 0), 0, 0, 0, 0, [], 0,
      .page, none, none, false, 0, s.maint.busy && s.maint.awaitStart⟩
    let s := s.modCk (fun c => { c with run := some run, wanted := c.restart && c.wanted, restart := false, dStart := 0 })
    let s := { s with maint := { s.maint with awaitStart := false } }
    match requestFrame .page s with
    | (some id, s) => grantPage id s
    | (none, s) => s
  else s

/-- The bands in EVACUATED. -/
def State.evacuatedBands (s : State) : List (Actuator × Nat) :=
  [Actuator.A, Actuator.B].flatMap (fun a =>
    ((List.range (s.bm.get a).bands.length).filter (fun b => decide ((s.bandRec a b).state = .evacuated))).map
      (fun b => (a, b)))

/-- A ring's free target takes the captured migrate_head and free_head advances toward it (R62). -/
def releaseRing (a : Actuator) (captured : Nat) (s : State) : State :=
  advanceFree a (s.modRing a (fun r => { r with freeTarget := max r.freeTarget captured }))

/-- The pending-blank list and the wanted flag at a completion (R159 step 5). -/
def settlePendingBlank (r : CkRun) (s : State) : State :=
  let s := s.modCk (fun c => { c with pendingBlank := c.pendingBlank.filter (fun p => decide (r.sStart ≤ p.2.2)) })
  if s.ck.pendingBlank ≠ [] ∨ r.captured.a.migrateHead < (s.ring .A).migrateHead ∨
      r.captured.b.migrateHead < (s.ring .B).migrateHead then requestCk s
  else s

/-- The first checkpoint after FORMAT completes (R176): the part enters READY, pressures are evaluated afresh and the
idle clock starts. -/
def enterReady (s : State) : State :=
  let s := { s with service := .ready, rc := { s.rc with idleClock := some s.now, idleExpired := false } }
  evalBandPressure .B (evalBandPressure .A (evalMapPressure s))

/-- The CHECKPOINT command that a completed checkpoint answers (R159 step 7, R189). -/
def answerCheckpoint (r : CkRun) (s : State) : State :=
  if r.answers then
    { s with maint := { s.maint with busy := false, awaitStart := false, status := .good, payload := leBytes 6 r.sStart } }
  else s

/-- A checkpoint completes (R159): its close has returned DONE. -/
def completeCheckpoint (s : State) : State :=
  match s.ck.run with
  | none => s
  | some r =>
    let s := s.modCk (fun c => { c with ringStart := r.startPos, dComplete := c.dStart })
    let s := { s with cleared := some r.sStart }
    let s := s.forAny s.evacuatedBands (fun s x => testEvacuated x.1 x.2 s)
    let s := releaseRing .B r.captured.b.migrateHead (releaseRing .A r.captured.a.migrateHead s)
    let s := settlePendingBlank r s
    let s := (releaseHeld r.closeFrame s).modCk (fun c => { c with run := none })
    let s := answerCheckpoint r s
    let s := if s.service = .formatting then enterReady (s.modCk (fun c => { c with formatTries := none })) else s
    testRingHalf (bindNotice s)

/-! ## Results of checkpoint-ring writes (R114, R153, R158 to R160) -/

/-- A checkpoint-ring segment's write returned DONE (R150, R152, R158, R159). -/
def ringWritten (q : RingSeg) (s : State) : State :=
  let s := unqueueRing q.frame s
  match q.kind with
  | .notice => endNotice true s
  | .page => bindClose ((releaseFrame q.frame s).modRun (fun r => { r with pagesDone := r.pagesDone + 1 }))
  | .close => completeCheckpoint s

/-- A checkpoint-ring segment's write returned WRITE_FAULT or SUPPLY_LATE (R153, R160). -/
def ringFailed (q : RingSeg) (s : State) : State :=
  match q.kind with
  | .notice => failNotice q.frame q.ctr s
  | .page => failCheckpoint q.ctr s
  | .close => failCheckpoint q.ctr s

end Sys2Proof.Machine
end

