-- ==== Sys2Proof/Machine/ReclaimEngine.lean ====
section
/-! DEFINITION. The reclaim engine (chapter 8): triggers and victims (R133 to R137), passes (R138, R145), source reads
(R139, R140), handing to lane 7 (R141), commits (R142), and what pauses a job (R146, R147). A job is worked by
`pump`, which takes every step the job can take at the moment. -/

namespace Sys2Proof.Machine

/-! ## Triggers (R133, R134) -/

/-- A ring's share of live segments in percent (R133). -/
def State.livePercent (s : State) (a : Actuator) : Nat := (s.ring a).live * 100 / s.mcs

/-- Whether trigger 1 or trigger 4 holds for an actuator (R133). -/
def State.urgentOn (s : State) (a : Actuator) : Bool :=
  (s.port a).up && decide (s.blankCount a ≤ s.work.reserve)

/-- Whether trigger 4 holds for an actuator (R133). -/
def State.pressureOn (s : State) (a : Actuator) : Bool := (s.port a).up && (s.credit.get a).pressure

/-- Whether trigger 3 holds for a ring (R133). -/
def State.cacheHighOn (s : State) (a : Actuator) : Bool :=
  (s.port a).up && s.rc.latch.get a && decide (s.work.cacheLow < s.livePercent a)

/-- Whether trigger 5 holds for a ring (R133). -/
def State.idleOn (s : State) (a : Actuator) : Bool :=
  decide (s.work.idleMigrate ≠ 0) && s.rc.idleExpired && (s.port a).up && decide (0 < (s.ring a).live)

/-- Whether a trigger holds (R133). -/
def State.triggerHolds (s : State) : Trigger → Bool
  | .urgent => s.urgentOn .A || s.urgentOn .B
  | .map => s.mapPressure
  | .cacheHigh => s.cacheHighOn .A || s.cacheHighOn .B
  | .pressure => s.pressureOn .A || s.pressureOn .B
  | .idle => s.idleOn .A || s.idleOn .B

/-- The triggers before one in the order of R133. -/
def Trigger.earlier : Trigger → List Trigger
  | .urgent => []
  | .map => [.urgent]
  | .cacheHigh => [.urgent, .map]
  | .pressure => [.urgent, .map, .cacheHigh]
  | .idle => [.urgent, .map, .cacheHigh, .pressure]

/-- Whether a cache job's own trigger still holds for its ring (R133). -/
def State.ownTrigger (s : State) (j : Job) : Bool :=
  match j.trigger with
  | .cacheHigh => s.cacheHighOn j.act
  | .idle => s.idleOn j.act
  | .urgent => false
  | .map => false
  | .pressure => false

/-! ## Victims (R136, R137) -/

/-- The age of a band (R136). -/
def bandAge (seq closeSeq : Nat) : Nat := min ((seq - closeSeq) / 256) 4095 + 1

/-- The score of a candidate (R136). -/
def victimScore (cap valid age : Nat) : Nat :=
  if valid = 0 then Config.maxScore
  else min ((cap - valid) * age * 256 / (valid + cap / 16)) Config.maxScore

/-- The score of a band as it stands (R136). -/
def State.score (s : State) (r : Band) : Nat :=
  victimScore s.cap r.valid (bandAge (s.seq.getD 0) (r.closeSeq.getD 0))

/-- Whether a band is a candidate (R136, R52): FULL, settled, and with at least C / 16 to free. -/
def State.candidate (s : State) (r : Band) : Bool :=
  decide (r.state = .full) && decide (r.bound = 0) && decide (s.cap / 16 ≤ s.cap - r.valid)

/-- The candidates of an actuator whose port is UP, by ascending band index (R136). -/
def State.candidates (s : State) (a : Actuator) : List (Actuator × Nat) :=
  if (s.port a).up then
    ((List.range (s.bm.get a).bands.length).filter (fun b => s.candidate (s.bandRec a b))).map (fun b => (a, b))
  else []

/-- The first member of a list that no other is better than. -/
def firstBest {α : Type} (better : α → α → Bool) (l : List α) : Option α :=
  l.foldl (fun best x =>
    match best with
    | some y => if better x y then some x else some y
    | none => some x) none

/-- The victim of trigger 1 or 4 on an actuator (R137): the highest score, the lower band index of two. -/
def State.bestByScore (s : State) (a : Actuator) : Option (Actuator × Nat) :=
  firstBest (fun x y => decide (s.score (s.bandRec y.1 y.2) < s.score (s.bandRec x.1 x.2))) (s.candidates a)

/-- The victim of trigger 2 (R137): the highest extent count, then the higher score, then the lower band index, then
actuator A. -/
def State.bestByExtents (s : State) : Option (Actuator × Nat) :=
  firstBest (fun x y =>
    let p := s.bandRec x.1 x.2
    let q := s.bandRec y.1 y.2
    if p.extents ≠ q.extents then decide (q.extents < p.extents)
    else if s.score p ≠ s.score q then decide (s.score q < s.score p)
    else decide (x.2 < y.2)) (s.candidates .A ++ s.candidates .B)

/-! ## Passes (R138, R145) -/

/-- The move list of a Sweep, each entry PENDING (R138). -/
def pendingMoves (found : List (Nat × Loc)) : List Move := found.map (fun x => ⟨x.1, x.2, .pending, none⟩)

/-- A pass of a band job begins with a Sweep of its victim (R138). -/
def beginBandPass (v : Nat) (j : Job) (s : State) : State :=
  let (found, more) := sweep s.extents (.band j.act v) j.sweepPos Config.maxMoves
  s.modJob (fun j => { j with moves := pendingMoves found, more := more, running := true, told := false })

/-- The counter values of the next pass of a cache job (R145 step 1): from migrate_head upward, below tail, at most 16,
up to the first segment still bound to a lane frame whose write has not returned DONE. -/
def State.passSegments (s : State) (a : Actuator) : List Nat :=
  ((List.range Config.maxPassSegments).map (fun k => (s.ring a).migrateHead + k)).takeWhile (fun c =>
    decide (c < (s.ring a).tail) && (s.holder (s.cacheLoc a c)).isNone)

/-- A pass of a cache job begins (R145), unless the segment at migrate_head is still bound. -/
def beginCachePass (j : Job) (s : State) : State :=
  match s.passSegments j.act with
  | [] => s
  | segs =>
    let swept := segs.map (fun c => (c, (sweep s.extents (.cacheSeg j.act (c % s.mcs)) 0 Config.maxMoves).1))
    s.modJob (fun j =>
      { j with segs := swept.map (fun x => (x.1, x.2.isEmpty)), moves := pendingMoves (swept.flatMap (fun x => x.2)),
               running := true, told := false, advanced := false })

/-- The job's next pass begins (R138, R145). -/
def beginPass (s : State) : State :=
  match s.rc.job with
  | none => s
  | some j =>
    match j.victim with
    | some v => beginBandPass v j s
    | none => beginCachePass j s

/-- A job just started. -/
def Job.fresh (t : Trigger) (a : Actuator) (victim : Option Nat) : Job :=
  { trigger := t, act := a, victim := victim, pass := if victim.isSome then 1 else 0, sweepPos := 0, more := false,
    running := false, segs := [], pausePort := false, pauseProtect := false, moves := [], told := false,
    advanced := false, committed := 0, dead := 0, lost := 0, returned := 0 }

/-- Lane 7 is told the actuator of a job that starts (R71, R137). In CLOSED it has no actuator (R65) and takes the job's when
it is handed its first block (R83). A lane 7 that outlived the job before in FAULTED has it from now on and asks there for the
frames it still has to rebind (R86), in this event already (log 8); the actuator of a band it holds stays with the band. -/
def tellLaneSeven (a : Actuator) (s : State) : State :=
  s.modLane 7 (fun c => if c.state = .closed ∨ c.band.isSome then c else { c with act := some a })

/-- A victim is named (R52, R137): CLEANING with its valid count as valid at selection and the first pass begun, or
EVACUATED at once when its valid count is 0, the job ending in the same event (R138). Lane 7 is told the job's actuator. -/
def startBandJob (t : Trigger) (a : Actuator) (b : Nat) (s : State) : State :=
  let v := (s.bandRec a b).valid
  let s := tellLaneSeven a { s with rc := { s.rc with job := some (Job.fresh t a (some b)) } }
  let s := s.modBand a b (fun r => { r with state := .cleaning, validAtSel := some v })
  if v = 0 then evacuate a b s else beginPass s

/-- A cache job starts on a ring (R133, R145), and lane 7 is told its actuator (R71). -/
def startCacheJob (t : Trigger) (a : Actuator) (s : State) : State :=
  beginPass (tellLaneSeven a { s with rc := { s.rc with job := some (Job.fresh t a none) } })

/-! ## The trigger test (R133, R135) -/

/-- Attempts taken in order until one yields. -/
def tryEach {α : Type} (f : α → State → Bool × State) : List α → State → Bool × State
  | [], s => (false, s)
  | x :: l, s =>
    match f x s with
    | (true, s) => (true, s)
    | (false, s) => tryEach f l s

/-- Trigger 1 or 4 on an actuator for which it holds (R133, R135): a job, or NO_VICTIM posted once. A candidate clears the
mark; under the asserted gate it ends the test without a job (R133, log 19). -/
def tryActuator (t : Trigger) (holds : State → Actuator → Bool) (a : Actuator) (s : State) : Bool × State :=
  if holds s a then
    match s.bestByScore a with
    | some (_, b) =>
      let s := { s with rc := { s.rc with noVictim := s.rc.noVictim.modify a (fun _ => false) } }
      (true, if s.gate then s else startBandJob t a b s)
    | none =>
      if s.rc.noVictim.get a then (false, s)
      else (false, post .noVictim a (s.countIn a .full) 0
        { s with rc := { s.rc with noVictim := s.rc.noVictim.modify a (fun _ => true) } })
  else (false, s)

/-- Trigger 2 (R133, R135), under the asserted gate as above. -/
def tryMap (s : State) : Bool × State :=
  if s.mapPressure then
    match s.bestByExtents with
    | some (a, b) =>
      let s := { s with rc := { s.rc with noVictimMap := false } }
      (true, if s.gate then s else startBandJob .map a b s)
    | none =>
      if s.rc.noVictimMap then (false, s)
      else (false, post .noVictim .A (s.countIn .A .full + s.countIn .B .full) 0
        { s with rc := { s.rc with noVictimMap := true } })
  else (false, s)

/-- The actuators by blank count, A first on a tie (R133). -/
def State.byBlank (s : State) : List Actuator :=
  if s.blankCount .B < s.blankCount .A then [.B, .A] else [.A, .B]

/-- The rings by fill, and by live segments, A first on a tie (R133). -/
def State.byFill (s : State) : List Actuator :=
  if (s.ring .A).fill s.mcs < (s.ring .B).fill s.mcs then [.B, .A] else [.A, .B]

@[inherit_doc State.byFill]
def State.byLive (s : State) : List Actuator :=
  if (s.ring .A).live < (s.ring .B).live then [.B, .A] else [.A, .B]

/-- Trigger 3 or 5 on a ring (R133): no job is started under the asserted gate. -/
def tryRing (t : Trigger) (holds : State → Actuator → Bool) (a : Actuator) (s : State) : Bool × State :=
  if holds s a then (true, if s.gate then s else startCacheJob t a s) else (false, s)

/-- One trigger tried (R133). -/
def tryTrigger (t : Trigger) (s : State) : Bool × State :=
  match t with
  | .urgent => tryEach (tryActuator .urgent State.urgentOn) s.byBlank s
  | .map => tryMap s
  | .cacheHigh => tryEach (tryRing .cacheHigh State.cacheHighOn) s.byFill s
  | .pressure => tryEach (tryActuator .pressure State.pressureOn) s.byBlank s
  | .idle => tryEach (tryRing .idle State.idleOn) s.byLive s

/-- The test of the triggers (R133): while no job stands and the service state is READY. -/
def testTriggers (s : State) : State :=
  if s.rc.job.isNone ∧ s.service = .ready then
    (tryEach tryTrigger [.urgent, .map, .cacheHigh, .pressure, .idle] s).2
  else s

/-! ## Move entries (R132) -/

/-- Whether a move's block is current (R132). -/
def State.isCurrent (s : State) (m : Move) : Bool := decide (lookup s.extents m.lba = .media m.src)

/-- Whether an entry has left its source for good (R145): COMMITTED, DEAD or LOST. -/
def Move.settled (m : Move) : Bool :=
  decide (m.state = .committed) || decide (m.state = .dead) || decide (m.state = .lost)

/-- The pass segments of a job with each marked resolved whose every entry is COMMITTED, DEAD or LOST (R131, R145). -/
def State.markedSegs (s : State) (j : Job) (moves : List Move) : List (Nat × Bool) :=
  j.segs.map (fun x =>
    (x.1, x.2 || moves.all (fun m => decide (m.src.segment ≠ s.cacheLoc j.act x.1) || m.settled)))

/-- The entries that p picks enter a resolved state, its tally rises by one for each, and the pass segments that this
resolves are marked (R131, R132, R145). -/
def resolveMoves (st : MoveState) (p : Move → Bool) (s : State) : State :=
  s.modJob (fun j =>
    let n := j.moves.countP p
    let moves := j.moves.map (fun m => if p m then { m with state := st } else m)
    let j := { j with moves := moves, segs := s.markedSegs j moves }
    match st with
    | .committed => { j with committed := min (j.committed + n) Config.max32 }
    | .dead => { j with dead := min (j.dead + n) Config.max32 }
    | .lost => { j with lost := min (j.lost + n) Config.max32 }
    | .returned => { j with returned := min (j.returned + n) Config.max32 }
    | .pending => j
    | .held => j
    | .inLane => j)

/-- The move list of the job. -/
def State.moves (s : State) : List Move := (s.rc.job.map (fun j => j.moves)).getD []

/-- Whether an entry is in one of the resolved states (R132). -/
def Move.resolved (m : Move) : Bool :=
  match m.state with
  | .committed => true
  | .dead => true
  | .lost => true
  | .returned => true
  | .pending => false
  | .held => false
  | .inLane => false

/-- Whether an entry waits to be read or to be handed. -/
def Move.open (m : Move) : Bool := decide (m.state = .pending) || decide (m.state = .held)

/-! ## Source reads (R139, R140) -/

/-- The live source read entry of a segment. -/
def State.source (s : State) (l : SegLoc) : Option SourceRead :=
  s.rc.sources.find? (fun e => decide (e.loc = l) && e.live)

/-- The state with the live source read entry of a segment changed. -/
def State.modSource (s : State) (l : SegLoc) (f : SourceRead → SourceRead) : State :=
  { s with rc := { s.rc with sources := s.rc.sources.map (fun e => if e.loc = l ∧ e.live then f e else e) } }

/-- A source read entry granted its frame enters QUEUED at the tail of its port's queue (R139). -/
def grantSource (l : SegLoc) (id : Nat) (s : State) : State :=
  let s := s.modSource l (fun e => { e with frame := some id, state := .queued })
  { s with rc := { s.rc with srcQueue := s.rc.srcQueue.modify l.act (fun q => q ++ [l]) } }

/-- The head of a port's source read queue leaves it (R115). -/
def popSource (a : Actuator) (s : State) : State :=
  { s with rc := { s.rc with srcQueue := s.rc.srcQueue.modify a List.tail } }

/-- The live source read entry of a segment deleted, its frame released (R139 to R141). -/
def deleteSource (l : SegLoc) (s : State) : State :=
  match s.source l with
  | none => s
  | some e =>
    let s := releaseHeld e.frame s
    { s with rc := { s.rc with sources := s.rc.sources.filter (fun x => !(decide (x.loc = l) && x.live)) } }

/-- A source read entry is deleted when every block of its segment has been handed or resolved (R141). -/
def tidySource (l : SegLoc) (s : State) : State :=
  match s.source l with
  | some e =>
    if e.state = .ready ∧ s.moves.all (fun m => decide (m.src.segment ≠ l) || !m.open) then deleteSource l s else s
  | none => s

/-- The segments with PENDING entries that have no source read entry, in move list order (R139). -/
def State.unread (s : State) : Option SegLoc :=
  (s.moves.find? (fun m => decide (m.state = .pending) && (s.source m.src.segment).isNone)).map (fun m => m.src.segment)

/-- A source read entry is made for the next segment with a current PENDING block (R139): blocks no longer current
become DEAD first. None when no entry is due or 8 stand. Its request is made before a frame freed in the same event is
offered (log 45). -/
def makeSource (s : State) : Option State :=
  if Config.maxSourceReads ≤ s.rc.sources.countP (fun e => e.live) then none
  else
    match s.unread with
    | none => none
    | some l =>
      let mine := fun (m : Move) => decide (m.state = .pending) && decide (m.src.segment = l)
      let s := resolveMoves .dead (fun m => mine m && !s.isCurrent m) s
      if s.moves.any mine then
        let s := { s with rc := { s.rc with sources := s.rc.sources ++ [⟨l, 0, none, .waitingFrame, true⟩] } }
        match requestFrame (.source l) s with
        | (some id, s) => some (grantSource l id s)
        | (none, s) => some s
      else some s

/-- A source segment has failed its third attempt (R140): its current blocks are made lost one by one in ascending LBA
order, and MOVE_FAILED is posted when any was marked. A block whose Make lost was EXHAUSTED counts as not marked: its entry
becomes DEAD and it is left out of the number (log 36). Where the victim loses its last valid block the job ends, and lane 7's
open frame closes, before MOVE_FAILED is posted (log 33). -/
def failSource (l : SegLoc) (s : State) : State :=
  let act := (s.rc.job.map (fun j => j.act)).getD l.act
  let mine := fun (m : Move) => decide (m.state = .pending) && decide (m.src.segment = l)
  let blocks := sortByKey (fun x => x.1) ((s.moves.filter mine).map (fun m => (m.lba, m.src)))
  let s := deleteSource l s
  let (marked, s) := makeLostEach (blocks.map (fun b => [b])) s
  let s := resolveMoves .lost (fun m => mine m && marked.contains m.lba) s
  let s := resolveMoves .dead mine s
  match marked with
  | [] => s
  | x :: rest => post .moveFailed act (rest.foldl min x) marked.length s

/-- A source read failed an attempt (R139): blocks no longer current become DEAD; with none left the entry is deleted,
otherwise it is tried again or the segment has failed. -/
def retrySource (e : SourceRead) (s : State) : State :=
  let mine := fun (m : Move) => decide (m.state = .pending) && decide (m.src.segment = e.loc)
  let s := resolveMoves .dead (fun m => mine m && !s.isCurrent m) s
  if s.moves.any mine = false then deleteSource e.loc s
  else if Config.maxReadAttempts ≤ e.attempts + 1 then failSource e.loc s
  else
    let s := s.modSource e.loc (fun e => { e with attempts := e.attempts + 1, state := .queued })
    { s with rc := { s.rc with srcQueue := s.rc.srcQueue.modify e.loc.act (fun q => q ++ [e.loc]) } }

/-- A source segment was read GOOD (R139): READY with its current blocks HELD and the others DEAD, when the stamp agrees
with every current block. -/
def readSource (e : SourceRead) (t : Stamp) (s : State) : State :=
  let mine := fun (m : Move) => decide (m.state = .pending) && decide (m.src.segment = e.loc)
  if s.moves.all (fun m => !(mine m && s.isCurrent m) || t.agrees m.lba m.src.slot) then
    let s := resolveMoves .dead (fun m => mine m && !s.isCurrent m) s
    let s := s.modJob (fun j => { j with moves := j.moves.map (fun m => if mine m then { m with state := .held } else m) })
    tidySource e.loc (s.modSource e.loc (fun e => { e with state := .ready }))
  else retrySource e s

/-- The source read entry in flight for a segment. -/
def State.flying (s : State) (l : SegLoc) : Option SourceRead :=
  s.rc.sources.find? (fun e => decide (e.loc = l) && decide (e.state = .inFlight))

/-- The result of the reclaim engine's operation at the head of a port's queue (R115, R139, R144). -/
def sourceResult (l : SegLoc) (r : ReadEnd) (s : State) : State :=
  match s.flying l with
  | none => s
  | some e =>
    if e.live then
      match r with
      | .notReady => s.modSource l (fun e => { e with state := .queued })
      | .unreadable => retrySource e (popSource l.act s)
      | .done .good (some t) => readSource e t (popSource l.act s)
      | .done _ _ => retrySource e (popSource l.act s)
    else
      let s := releaseHeld e.frame (popSource l.act s)
      { s with rc := { s.rc with sources := s.rc.sources.filter (fun x => x ≠ e) } }

/-! ## Handing to lane 7 (R83, R141) -/

/-- The block at hand (R141): of the first segment in move list order that is not all handed, the HELD block of lowest
LBA. -/
def State.blockAtHand (s : State) : Option Move :=
  match s.moves.find? Move.open with
  | none => none
  | some m =>
    firstBest (fun x y => decide (x.lba < y.lba)) (s.moves.filter (fun x =>
      decide (x.state = .held) && decide (x.src.segment = m.src.segment)))

/-- The bytes of a HELD block in its source frame (R141). -/
def State.heldBytes (s : State) (m : Move) : Block :=
  match (s.source m.src.segment).bind (fun e => e.frame) with
  | some id => (s.frame id).payload.getD m.src.slot 0
  | none => 0

/-- Lane 7 places a block in the next slot of its open frame (R83); a full frame closes (R75). -/
def placeRelocation (id : Nat) (m : Move) (s : State) : State :=
  let data := s.heldBytes m
  let slot := (s.frame id).fill
  let s := s.modFrame id (fun f =>
    { f with payload := f.payload.set slot data, fill := slot + 1, runs := extendRuns f.runs m.lba slot (some m.src) })
  let s := s.modJob (fun j => { j with moves := j.moves.map (fun x => if x = m then { x with state := .inLane } else x) })
  tidySource m.src.segment (if slot = 15 then closeFrame 7 id s else s)

/-- Whether lane 7 can be handed a block (R141, R161): not WAITING for a band, not FAULTED, and with a slot in its open
frame or neither waiting for a frame nor held by the distance. -/
def State.laneSevenTakes (s : State) : Bool :=
  decide ((s.lane 7).state ≠ .waiting) && decide ((s.lane 7).state ≠ .faulted) &&
  (s.hasSlot 7 || (!s.distanceHold && !s.waits (.lane 7)))

/-- Lane 7 is assigned to the job when it is handed a block in CLOSED (R83). -/
def wakeLaneSeven (a : Actuator) (s : State) : State :=
  s.modLane 7 (fun c => if c.state = .closed then { c with state := .opened, act := some a } else c)

/-- Lane 7 obtains an open frame for the block at hand (R72, R83, R161); none while it cannot. -/
def openLaneSeven (s : State) : Bool × State :=
  if s.distanceHold then (false, s)
  else
    match laneFrame 7 s with
    | (none, s) => (false, s)
    | (some id, s) =>
      match laneLocation 7 s with
      | (some (loc, ctr), s) => (true, openFrame 7 id loc ctr (closeOpen 7 s))
      | (none, s) => (false, waitLane 7 (dropRequest 7 s))

/-- The open frame of lane 7 that can take a block: one with a slot and without a ninth run (R73). -/
def State.laneSevenFrame (s : State) (m : Move) : Option Nat :=
  match (s.lane 7).openFrame with
  | some id =>
    if (s.frame id).fill < 16 ∧ needsNinthRun (s.frame id).runs m.lba (some m.src) = false then some id else none
  | none => none

/-- One step of handing (R141): the block at hand, once lane 7 can be handed one, becomes DEAD or is placed in lane 7's
open frame, which closes first when the block would need a ninth run in it (R73, R75), and is opened where none is open. A
frame granted for a block that became DEAD stays with lane 7 for the next (log 41). None while nothing can be handed. -/
def handBlock (s : State) : Option State :=
  match s.rc.job, s.blockAtHand with
  | some j, some m =>
    if s.laneSevenTakes = false then none
    else if s.isCurrent m = false then
      some (tidySource m.src.segment (resolveMoves .dead (fun x => decide (x = m)) s))
    else
      let s := wakeLaneSeven j.act s
      match s.laneSevenFrame m, (s.lane 7).openFrame with
      | some id, _ => some (placeRelocation id m s)
      | none, some id => some (closeFrame 7 id s)
      | none, none =>
        match openLaneSeven s with
        | (true, s) =>
          match (s.lane 7).openFrame with
          | some id => some (placeRelocation id m s)
          | none => none
        | (false, _) => none
  | _, _ => none

/-- Lane 7's side of an attempt at handing that found no slot (R66, R91): its waiting request, or its entry to
WAITING. -/
def askLaneSeven (s : State) : State :=
  match s.rc.job, s.blockAtHand with
  | some j, some m =>
    if j.paused = false ∧ s.laneSevenTakes ∧ s.isCurrent m ∧ (s.lane 7).openFrame.isNone then
      (openLaneSeven (wakeLaneSeven j.act s)).2
    else s
  | _, _ => s

/-! ## The end of a pass (R138, R141, R145) -/

/-- Lane 7 is told that the pass has ended (R141): once every entry is resolved, IN LANE or RETURNED and no source read
entry remains. -/
def endHanding (s : State) : Option State :=
  match s.rc.job with
  | none => none
  | some j =>
    if j.running ∧ j.told = false ∧ j.moves.all (fun m => !m.open) ∧ s.rc.sources.all (fun e => !e.live) then
      some ((closeOpen 7 (dropRequest 7 s)).modJob (fun j => { j with told := true }))
    else none

/-- Whether a counter value is that of a pass segment marked resolved (R145). -/
def Job.segResolved (j : Job) (ctr : Nat) : Bool := j.segs.any (fun x => decide (x.1 = ctr) && x.2)

/-- migrate_head advances past the segment there when it is resolved and not bound to an unwritten frame (R60,
R145). -/
def advanceMigrate (s : State) : Option State :=
  match s.rc.job with
  | none => none
  | some j =>
    let head := (s.ring j.act).migrateHead
    if j.victim = none ∧ head < (s.ring j.act).tail ∧ (s.holder (s.cacheLoc j.act head)).isNone ∧
        j.segResolved head then
      some ((s.modRing j.act (fun r => { r with migrateHead := head + 1 })).modJob (fun j => { j with advanced := true }))
    else none

/-- The next pass of a band job (R138): after the last entry, or a rescan from offset 0. The pass number stays within the 4
bytes that report it (R131, log 48). -/
def nextBandPass (s : State) : State :=
  beginPass (s.modJob (fun j =>
    { j with pass := min (j.pass + 1) Config.max32, running := false
             sweepPos := if j.more then (j.moves.getLast?.map (fun m => m.src.offset + 1)).getD 0 else 0 }))

/-- A cache job's pass has ended (R133, R145): a checkpoint is requested when migrate_head advanced; the job continues
while its own trigger holds and no earlier one does, and otherwise ends. A paused job begins no pass (R147). -/
def endCachePass (j : Job) (s : State) : State :=
  let s := if j.advanced then requestCk s else s
  if 0 < (s.ring j.act).live ∧ s.ownTrigger j ∧ j.trigger.earlier.all (fun t => !s.triggerHolds t) then
    let s := s.modJob (fun j => { j with running := false, segs := [], moves := [], advanced := false })
    if j.paused then s else beginPass s
  else endJob s

/-- Whether the pass is over (R138, R145): every entry of its move list is resolved. -/
def Job.passOver (j : Job) : Bool := j.running && j.told && j.moves.all Move.resolved

/-- The pass ends when every entry of its move list is resolved (R138, R145). -/
def endPass (s : State) : Option State :=
  match s.rc.job with
  | none => none
  | some j =>
    if j.passOver then
      if j.victim.isSome then some (nextBandPass s) else some (endCachePass j s)
    else none

/-- A pass ends while the job is paused (R145 to R147). A band job's next pass begins when the pause is over. A cache job
requests its checkpoint, and ends when its ring's live is 0; whether it continues is tested at once in a PROTECT pause, and
in a PORT pause, which the job outlasts (R146), when the pause is over (log 37). -/
def endPausedPass (s : State) : Option State :=
  match s.rc.job with
  | none => none
  | some j =>
    if j.passOver = false ∨ j.victim.isSome then none
    else if j.pausePort = false ∨ (s.ring j.act).live = 0 then some (endCachePass j s)
    else if j.advanced then some ((requestCk s).modJob (fun j => { j with advanced := false }))
    else none

/-! ## The write-protect pause (R147) -/

/-- Whether a lane 7 frame of the job is not yet written (R147): one that holds an entry IN LANE without a
destination (R132). -/
def State.laneSevenUnwritten (s : State) : Bool :=
  s.moves.any (fun m => decide (m.state = .inLane) && m.dst.isNone)

/-- Whether the engine holds data already read, or will when a read in flight ends (R147). That a read in flight counts, so that
lane 7's open frame waits for its blocks, is the model's choice (log 41). -/
def State.holdsData (s : State) : Bool :=
  s.rc.sources.any (fun e => e.live && (decide (e.state = .ready) || decide (e.state = .inFlight)))

/-- Under the asserted gate (R147): once the engine has handed every block it holds, and those of a source read still in
flight (log 41), lane 7 closes its open frame, and once every lane 7 frame of the job has been written the job's pause becomes
PROTECT. A job paused for PORT that still holds read data takes the pause only once it has handed that data, after PORT UP
(log 41). -/
def pauseForProtect (s : State) : Option State :=
  match s.rc.job with
  | none => none
  | some j =>
    if s.gate ∧ j.pauseProtect = false ∧ s.holdsData = false then
      if (s.lane 7).openFrame.isSome then some (closeOpen 7 s)
      else if s.laneSevenUnwritten then none
      else some (s.modJob (fun j => { j with pauseProtect := true }))
    else none

/-! ## The pump -/

/-- The first of several steps that can be taken. -/
def firstStep : List (State → Option State) → State → Option State
  | [], _ => none
  | f :: l, s =>
    match f s with
    | some s => some s
    | none => firstStep l s

/-- A waiting cache job, or one whose pass did not begin, tests again (R145 step 1). -/
def resumePass (s : State) : Option State :=
  match s.rc.job with
  | none => none
  | some j =>
    if j.running then none
    else
      let s' := beginPass s
      if (s'.rc.job.map (fun j => j.running)).getD false then some s' else none

/-- One step of the job (R138 to R147). The block at hand comes before a new source read entry, so that where both need a RECLAIM
frame and only one is to be had lane 7 is granted it (log 41). A paused job reads nothing new, hands nothing and begins no pass; lane 7 is still
told of the end of the handing (R141), and the pass still ends. Under the asserted gate a job goes on only while it holds
data already read (R147): without any it waits for its frames to be written and takes the pause, and that it makes no
source read entry meanwhile either is the model's choice (log 41). -/
def pumpStep (s : State) : Option State :=
  match s.rc.job with
  | none => none
  | some j =>
    if j.paused then firstStep [advanceMigrate, endHanding, endPausedPass, pauseForProtect] s
    else if s.gate ∧ s.holdsData = false then firstStep [advanceMigrate, handBlock, endHanding, pauseForProtect] s
    else firstStep [advanceMigrate, handBlock, makeSource, endHanding, endPass, resumePass] s

/-- The job worked until no step can be taken, at most `fuel` steps. Lane 7 asks for its frame last: a source read entry made
in the same event has its request queued first (R139, log 41). -/
def pumpSteps : Nat → State → State
  | 0, s => s
  | fuel + 1, s =>
    match pumpStep s with
    | some s => pumpSteps fuel s
    | none => askLaneSeven s

/-- The steps one event can take: more than a pass of 4,096 moves and its successors need. -/
def pumpFuel : Nat := 65536

/-- The job takes every step it can take (R138 to R147). -/
def pump (s : State) : State := if s.rc.job.isSome then pumpSteps pumpFuel s else s

/-! ## Written lane 7 frames and commits (R132, R142) -/

/-- A lane 7 frame has been written (R81, R89, R132): the entries that lie in it take their destinations, the reclaim
engine becomes its owner, and the frame joins the tail of the commit queue. -/
def takeWritten (id : Nat) (l : SegLoc) (s : State) : State :=
  let f := s.frame id
  let s := s.modJob (fun j => { j with moves := j.moves.map (fun m =>
    match f.slotOf m with
    | some k => if m.state = .inLane then { m with dst := some (l.at k) } else m
    | none => m) })
  let s := s.modFrame id (fun f => { f with owner := some .reclaim })
  { s with rc := { s.rc with commitQ := s.rc.commitQ ++ [id] } }

/-- The entry of the job for a slot of a lane 7 frame. -/
def Move.isFor (lba : Nat) (src : Loc) (m : Move) : Bool :=
  decide (m.state = .inLane) && decide (m.lba = lba) && decide (m.src = src)

/-- One slot of a commit (R142): none while fewer than 2 records are free. -/
def commitSlot (f : Frame) (l : SegLoc) (k : Nat) (s : State) : Option State :=
  match runsLba f.runs k, runsSource f.runs k with
  | some lba, some src =>
    if f.void.getLsbD k then some (resolveMoves .dead (Move.isFor lba src) s)
    else if s.freeRecords < Config.commitReserve then none
    else
      let (r, s) := conditionalMove lba src (l.at k) s
      some (resolveMoves (if r = .committed then .committed else .dead) (Move.isFor lba src) s)
  | _, _ => some s

/-- The slots of a lane 7 frame committed in slot order (R142): true when the last slot has been resolved. -/
def commitSlots (f : Frame) (l : SegLoc) : List Nat → State → Bool × State
  | [], s => (true, s)
  | k :: ks, s =>
    match commitSlot f l k s with
    | some s => commitSlots f l ks { s with rc := { s.rc with commitAt := k + 1 } }
    | none => (false, { s with rc := { s.rc with commitAt := k } })

/-- The head frame of the commit queue has its moves committed, and leaves the queue with its last slot (R142). -/
def commitHead (s : State) : State :=
  match s.rc.commitQ with
  | [] => s
  | id :: rest =>
    let f := s.frame id
    match f.bound with
    | none => s
    | some l =>
      match commitSlots f l ((List.range f.fill).drop s.rc.commitAt) s with
      | (true, s) => releaseFrame id { s with rc := { s.rc with commitQ := rest, commitAt := 0 } }
      | (false, s) => s

/-! ## Ports (R146) -/

/-- The job's actuator enters DOWN (R146). -/
def pausePort (a : Actuator) (s : State) : State :=
  s.modJob (fun j => if j.act = a then { j with pausePort := true } else j)

/-- The job's actuator enters UP (R146). -/
def resumePort (a : Actuator) (s : State) : State :=
  s.modJob (fun j => if j.act = a then { j with pausePort := false } else j)

end Sys2Proof.Machine
end

