-- ==== Sys2Proof/Machine/Settle.lean ====
section
/-! DEFINITION. What follows within the same event once a command has had its own effect: the write-protect gate takes
its new level (R116), lanes that wait for a place ask again (R43, R70, R86), the reclaim job takes the steps it can
(R138 to R147), and port waits begin and end (R125). -/

namespace Sys2Proof.Machine

/-! ## The write-protect gate (R116) -/

/-- The level the gate is to have (R116): asserted while WPROT is asserted or the sequence limit holds. -/
def State.gateLevel (s : State) : Bool := s.wprot || s.seqLimit

/-- The gate is asserted (R116): every lane's open frame closes, in an order that is open (R82), and the turns it refuses
are refused (R185). -/
def assertGate (s : State) : State :=
  let s := { s with gate := true }
  refuseTurns (s.forAny ((List.range 8).filter (fun n => (s.lane n).openFrame.isSome)) (fun s n => closeOpen n s))

/-- The gate is deasserted (R116): a job paused for it goes on (R147). -/
def deassertGate (s : State) : State :=
  ({ s with gate := false }).modJob (fun j => { j with pauseProtect := false })

/-- The gate takes its level. While RESET_N is asserted it waits for the end of the reset (R116). -/
def gateEdge (s : State) : State :=
  if s.resetN then s
  else if s.gateLevel && !s.gate then assertGate s
  else if !s.gateLevel && s.gate then deassertGate s
  else s

/-- One round of what follows a command: the gate, the lanes, the reclaim job, in this order, each taking the sequences its
closes and rebinds need, and the lanes that wait asking for a place before lane 7 of a job that goes on (log 33). -/
def settleRound (s : State) : State := refreshWaits (pump (informLanes (pump (informLanes (gateEdge s)))))

/-- What follows a command, in the same event. A round whose closes bring the sequence limit is followed by another. -/
def settle (s : State) : State :=
  let s := settleRound s
  if s.gateLevel = s.gate ∨ s.resetN then s else settleRound s

end Sys2Proof.Machine
end

