-- ==== Sys2Proof/Machine/Recovery.lean ====
section
/-! DEFINITION. The recovery scanner (chapter 10): finding the checkpoint (R164, R165), loading it (R166), the scans of
what was written after it (R167 to R170), replay (R171, R172), and the settling of the tables (R173, R174). -/

namespace Sys2Proof.Machine

/-! ## The scanner's operations -/

/-- The segments one STAMP SCAN may cover from a ring index on (R106): to the ring's last index at most. -/
def State.ringRun (s : State) (ctr left : Nat) : Nat := min (min Config.scanLimit left) (s.mcs - ctr % s.mcs)

/-- The operation of a task: its kind, first location, count, mode and floor (R106, R164 to R171). -/
def State.taskOp (s : State) (a : Actuator) (floor : Nat) : RecTask → OpKind × SegLoc × Nat × ScanMode × Nat
  | .ring idx => (.stampScan, ⟨.A, .ckring, 0, idx⟩, Config.scanLimit, .through, 0)
  | .close t => (.segmentRead, t.own, 1, .through, 0)
  | .page k =>
    let ctr := ((s.recov.chosen.map (fun c => c.pages)).getD []).getD k 0
    (.segmentRead, s.ckLoc ctr, 1, .through, 0)
  | .notice t => (.segmentRead, t.own, 1, .through, 0)
  | .band b seg => (.stampScan, ⟨a, .band, b, seg⟩, min Config.scanLimit (s.spb - seg), .stopUnused, floor)
  | .blank b => (.stampScan, ⟨a, .band, b, 0⟩, 1, .stopUnused, floor)
  | .verify ctr left => (.stampScan, s.cacheLoc a ctr, s.ringRun ctr left, .through, 0)
  | .collect ctr left => (.stampScan, s.cacheLoc a ctr, s.ringRun ctr left, .through, 0)
  | .again l left => (.stampScan, l, min Config.scanLimit left, .through, 0)

/-- Whether a task is a SEGMENT READ, which needs a frame (R166). -/
def RecTask.reads : RecTask → Bool
  | .close _ => true
  | .page _ => true
  | .notice _ => true
  | .ring _ => false
  | .band _ _ => false
  | .blank _ => false
  | .verify _ _ => false
  | .collect _ _ => false
  | .again _ _ => false

/-- The task at the head of an actuator's work. -/
def State.task (s : State) (a : Actuator) : Option RecWork := (s.recov.work.get a).head?

/-- The scanner with one actuator's work changed. -/
def State.modWork (s : State) (a : Actuator) (f : List RecWork → List RecWork) : State :=
  s.modRec (fun r => { r with work := r.work.modify a f })

/-- A frame is granted to the scanner (R91, R166). -/
def grantScanner (a : Actuator) (id : Nat) (s : State) : State :=
  s.modWork a (fun l =>
    match l with
    | w :: rest => { w with frame := some id } :: rest
    | [] => [])

/-- The scanner asks for the READ-class frame its head task needs (R166). -/
def prepare (a : Actuator) (s : State) : State :=
  match s.task a with
  | some w =>
    if w.task.reads ∧ w.frame = none ∧ s.waits (.scanner a) = false then
      match requestFrame (.scanner a) s with
      | (some id, s) => grantScanner a id s
      | (none, s) => s
    else s
  | none => s

/-- A new task. -/
def fresh (t : RecTask) : RecWork := ⟨t, 0, none⟩

/-- The head task is done: its frame is released and further tasks take its place at the head. -/
def finishTask (a : Actuator) (next : List RecTask) (s : State) : State :=
  let s := match s.task a with
    | some w => releaseHeld w.frame s
    | none => s
  prepare a (s.modWork a (fun l => next.map fresh ++ l.tail))

/-- The head task's attempt failed and it is issued again (R166), with the frame it has, and at once: it stays at the head, before
the scanner's other operations on this port (log 42). -/
def retryTask (a : Actuator) (s : State) : State :=
  s.modWork a (fun l =>
    match l with
    | w :: rest => { w with attempts := w.attempts + 1 } :: rest
    | [] => [])

/-- Whether the head task has had its last attempt (R166). -/
def State.lastAttempt (s : State) (a : Actuator) : Bool :=
  match s.task a with
  | some w => decide (Config.maxReadAttempts ≤ w.attempts + 1)
  | none => true

/-! ## The ends of recovery other than READY (R164 to R166) -/

/-- The scanner gives back the frame it holds. -/
def dropScanner (s : State) : State :=
  [Actuator.A, Actuator.B].foldl (fun s a =>
    let s := withdraw (.scanner a) s
    match s.task a with
    | some w => releaseHeld w.frame s
    | none => s) s

/-- Recovery ends UNFORMATTED (R164, R14, R16). -/
def endUnformatted (s : State) : State :=
  { dropScanner s with service := .unformatted, epoch := some 1, highEpoch := some 0, seq := some 1, recov := Recovery.off }

/-- Recovery ends HALTED with an epoch in force and no geometry (R164 to R166): what had been loaded is discarded. -/
def endHalted (epoch : Nat) (s : State) : State :=
  { dropScanner s with service := .halted, epoch := some epoch, geom := none, seq := none, extents := [],
                       bm := Two.both BandMgr.discarded, cleared := none, recov := Recovery.off,
                       maint := { s.maint with pend := Settings.default, work := Settings.default } }

/-! ## The ring scan and the close (R164, R165) -/

/-- The highest of a list, 0 when it is empty. -/
def highest (l : List Nat) : Nat := l.foldl max 0

/-- The working epoch E (R164): the highest epoch of a GOOD entry. -/
def workingEpoch (l : List ScanEntry) : Option Nat :=
  match l.filter (fun e => decide (e.verdict = some .good)) with
  | [] => none
  | good => some (highest (good.map (fun e => e.epoch)))

/-- The candidate close of highest sequence (R165). -/
def candidateClose (l : List ScanEntry) (epoch : Nat) : Option Stamp :=
  firstBest (fun x y => decide (y.seq < x.seq)) ((l.filterMap (fun e => e.stamp)).filter (fun t =>
    decide (t.kind = .close) && decide (t.epoch = epoch)))

/-- The end of the ring scan (R164, R165): UNFORMATTED, HALTED, or the candidate close to be read. The epoch in force is the
working epoch E from here on, before the close has been read and chosen (R16, log 50). -/
def endRingScan (s : State) : State :=
  let ring := s.recov.ring
  let stamped := ring.filter (fun e => e.stamped)
  if stamped.isEmpty then endUnformatted s
  else
    let high := highest (stamped.map (fun e => e.epoch))
    let s := { s with highEpoch := some high }
    match workingEpoch ring with
    | none => endHalted high s
    | some e =>
      match candidateClose ring e with
      | none => endHalted e s
      | some t =>
        let s := { s with epoch := some e }
        finishTask .A [.close t] (s.modRec (fun r => { r with phase := .closeRead }))

/-- Whether a page a close lists passes the tests of R165; k is its place in the list. -/
def pageComplete (ring : List ScanEntry) (c : CloseInfo) (k ctr : Nat) : Bool :=
  match ((ring[ctr % c.geom.cks]?).bind (fun e => if e.verdict = some .good then e.stamp else none)) with
  | some t =>
    decide (t.kind = if k < c.pagesA + c.pagesB then .bandpage else .extpage) && decide (t.epoch = c.stamp.epoch) &&
    decide (t.own = ⟨.A, .ckring, 0, ctr % c.geom.cks⟩) && decide (c.sStart ≤ t.seq) && decide (t.seq < c.stamp.seq)
  | none => false

/-- Whether a close is complete (R165). One that counts more pages than it has places for is not (log 38). -/
def closeComplete (ring : List ScanEntry) (c : CloseInfo) : Bool :=
  decide (c.stamp.own.seg < c.geom.cks) && decide (c.pages.length = c.pagesA + c.pagesB + c.pagesExt) &&
  (List.range c.pages.length).all (fun k => pageComplete ring c k (c.pages.getD k 0))

/-- The close has been read (R165, R166 step 1): it is chosen and its geometry, cleared sequence and settings are taken,
or recovery ends HALTED. The tests of R165 hold of a close that counts no page, which the part never writes: it is chosen too, and
the reads of a page 0 that it does not list find no stamp that is expected, so that recovery ends HALTED at the third: the
model's choice (log 38). -/
def closeRead (t : Stamp) (block : Block) (s : State) : State :=
  let c := loadClose t block
  if closeComplete s.recov.ring c then
    let s := { s with geom := some c.geom, cleared := some c.sStart,
                      maint := { s.maint with pend := c.settings, work := c.settings } }
    let s := s.modRec (fun r => { r with phase := .pages, chosen := some c, floor := c.sStart })
    finishTask .A [.page 0] s
  else endHalted t.epoch s

/-! ## Pages (R166, R194) -/

/-- The members of a list of readings, when none is missing. -/
def allSome {α : Type} : List (Option α) → Option (List α)
  | [] => some []
  | none :: _ => none
  | some x :: l => (allSome l).map (fun l => x :: l)

/-- The band records of page p of an actuator (R156, R194). -/
def bandsOfPage (payload : List Block) (g : Geometry) (a : Actuator) (p : Nat) : Option (List Band) :=
  allSome ((List.range (min Config.recordsPerSegment (g.bpa a - p * Config.recordsPerSegment))).map (fun k =>
    loadBand (recordAt payload k) g.spb))

/-- A page's records are put into the tables (R166 step 3, R42, R20); none when the page counts as a failed read
(R194). -/
def loadPage (k filled : Nat) (payload : List Block) (c : CloseInfo) (s : State) : Option State :=
  if k < c.pagesA then
    (bandsOfPage payload c.geom .A k).map (fun l => s.modMgr .A (fun m => { m with bands := m.bands ++ l }))
  else if k < c.pagesA + c.pagesB then
    (bandsOfPage payload c.geom .B (k - c.pagesA)).map (fun l => s.modMgr .B (fun m => { m with bands := m.bands ++ l }))
  else
    (allSome ((filledRecords extentWidth payload filled).map (fun n => loadExtent n s.geom))).map (fun l =>
      { s with extents := s.extents ++ l })

/-! ## The scans (R167 to R170) -/

/-- The bands of an actuator whose recorded state p picks, ascending. -/
def State.bandsWhere (s : State) (a : Actuator) (p : BandState → Bool) : List Nat :=
  (List.range (s.bm.get a).bands.length).filter (fun b => p (s.bandRec a b).state)

/-- The recorded states whose bands are scanned from their written pointer (R167). -/
def BandState.appended : BandState → Bool
  | .opened => true
  | .draining => true
  | .parked => true
  | .blank => false
  | .full => false
  | .cleaning => false
  | .evacuated => false
  | .retired => false

/-- The notices to replay (R170): the GOOD notice entries of epoch E below CKS with a sequence at or above S_start. -/
def noticesOf (ring : List ScanEntry) (c : CloseInfo) : List Stamp :=
  ((ring.take c.geom.cks).filterMap (fun e => e.stamp)).filter (fun t =>
    decide (t.kind = .notice) && decide (t.epoch = c.stamp.epoch) && decide (c.sStart ≤ t.seq))

/-- The scans of one actuator's bands and ring (R167 to R169), in the order the model issues them (log 14). -/
def State.scanTasks (s : State) (a : Actuator) (cap : Captured) : List RecTask :=
  ((s.bandsWhere a BandState.appended).filter (fun b => decide ((s.bandRec a b).written < s.spb))).map
    (fun b => .band b (s.bandRec a b).written) ++
  (s.bandsWhere a (fun st => decide (st = .blank))).map (fun b => .blank b) ++
  (if cap.migrateHead < cap.tail then [.verify cap.migrateHead (cap.tail - cap.migrateHead)] else []) ++
  (if 0 < s.mcs - (cap.tail - cap.migrateHead) then [.collect cap.tail (s.mcs - (cap.tail - cap.migrateHead))] else [])

/-- The walks of the bands recorded OPEN, DRAINING or PARKED (R167). -/
def State.walksOf (s : State) (a : Actuator) : List Walk :=
  (s.bandsWhere a BandState.appended).map (fun b =>
    ⟨a, b, (s.bandRec a b).written, (s.bandRec a b).written, false, false, false⟩)

/-- The scans of section 10.3 begin (R166): every ring scan entry counts toward the highest sequence seen (R174). -/
def beginScans (c : CloseInfo) (s : State) : State :=
  let seen := highest ((s.recov.ring.filter (fun e => (decide (e.verdict = some .good) || decide (e.verdict = some .torn)) &&
    decide (e.epoch = c.stamp.epoch))).map (fun e => e.seq))
  let notices := noticesOf s.recov.ring c
  let s := s.modRec (fun r =>
    { r with
      phase := .scans, notices := notices, maxSeq := seen, walks := s.walksOf .A ++ s.walksOf .B
      derivedTail := ⟨c.captured.a.tail, c.captured.b.tail⟩
      work := ⟨((notices.map RecTask.notice) ++ s.scanTasks .A c.captured.a).map fresh,
               (s.scanTasks .B c.captured.b).map fresh⟩ })
  prepare .A s

/-! ## The replay list (R171) -/

/-- The sequence of a replay item. -/
def ReplayItem.seq : ReplayItem → Nat
  | .segment t => t.seq
  | .release _ _ seq => seq

/-- The lower of a ceiling and a sequence not kept (R171). -/
def lowerCeiling (c : Option Nat) (seq : Nat) : Option Nat :=
  match c with
  | some k => some (min k seq)
  | none => some seq

/-- An item is collected (R171): while the list is full the items of lowest sequence are kept. -/
def keepItem (x : ReplayItem) (r : Recovery) : Recovery :=
  if r.items.length < Config.replayCapacity then { r with items := r.items ++ [x] }
  else
    let top := highest (r.items.map ReplayItem.seq)
    if top < x.seq then { r with ceiling := lowerCeiling r.ceiling x.seq }
    else { r with items := r.items.filter (fun y => y.seq ≠ top) ++ [x], ceiling := lowerCeiling r.ceiling top }

/-- A stamp collected for replay; DATA and RELOC stamps of the first round are counted (R171, R174). -/
def collectStamp (t : Stamp) (r : Recovery) : Recovery :=
  let r := keepItem (.segment t) r
  if r.phase = .scans then { r with stampsCollected := r.stampsCollected + 1 } else r

/-- A scan entry's sequence counts toward the highest seen when it is GOOD or TORN and of epoch E (R174). -/
def noteSeq (epoch : Option Nat) (e : ScanEntry) (r : Recovery) : Recovery :=
  if (e.verdict = some .good ∨ e.verdict = some .torn) ∧ some e.epoch = epoch then { r with maxSeq := max r.maxSeq e.seq }
  else r

/-! ## Walking the entries of a scan (R167 to R169) -/

/-- A segment found written, with its stamp where it was GOOD (R167, R169, R173). -/
def foundWritten (l : SegLoc) (t : Option Stamp) (r : Recovery) : Recovery := { r with found := r.found ++ [(l, t)] }

/-- The walk of a band changed. -/
def Recovery.modWalk (r : Recovery) (a : Actuator) (b : Nat) (f : Walk → Walk) : Recovery :=
  { r with walks := r.walks.map (fun w => if w.act = a ∧ w.band = b then f w else w) }

/-- Whether a band's walk has ended. -/
def Recovery.walkEnded (r : Recovery) (a : Actuator) (b : Nat) : Bool :=
  r.walks.any (fun w => decide (w.act = a) && decide (w.band = b) && w.ended)

/-- One entry of a band scan, in segment order (R167). -/
def walkBand (a : Actuator) (b seg : Nat) (e : ScanEntry) (r : Recovery) : Recovery :=
  if r.walkEnded a b then r
  else
    let l : SegLoc := ⟨a, .band, b, seg⟩
    match e.verdict, e.stamp with
    | some .good, some t =>
      if r.floor ≤ e.seq then
        collectStamp t (foundWritten l (some t) (r.modWalk a b (fun w => { w with derived := seg + 1 })))
      else r.modWalk a b (fun w => { w with ended := true })
    | some .torn, _ => r.modWalk a b (fun w => { w with ended := true, torn := true })
    | some .corrupt, _ => foundWritten l none (r.modWalk a b (fun w => { w with derived := seg + 1 }))
    | none, _ => foundWritten l none (r.modWalk a b (fun w => { w with derived := seg + 1 }))
    | some .good, none => r.modWalk a b (fun w => { w with ended := true })
    | some .blank, _ => r.modWalk a b (fun w => { w with ended := true })
    | some .foreign, _ => r.modWalk a b (fun w => { w with ended := true })

/-- One entry of a ring's verification stretch (R169). -/
def verifyEntry (l : SegLoc) (e : ScanEntry) (r : Recovery) : Recovery :=
  match e.verdict, e.stamp with
  | some .good, some t =>
    let r := foundWritten l (some t) r
    if r.floor ≤ e.seq then collectStamp t r else r
  | some .corrupt, _ => foundWritten l none r
  | none, _ => foundWritten l none r
  | some .good, none => r
  | some .blank, _ => r
  | some .torn, _ => r
  | some .foreign, _ => r

/-- One entry of a ring's collection stretch, at a counter value (R169). -/
def collectEntry (a : Actuator) (ctr : Nat) (l : SegLoc) (e : ScanEntry) (r : Recovery) : Recovery :=
  if r.collectDone.get a then r
  else
    match e.verdict, e.stamp with
    | some .good, some t =>
      if r.floor ≤ e.seq then
        let r := (r.passed.get a).foldl (fun r x => foundWritten x none r) r
        let r := collectStamp t (foundWritten l (some t) r)
        { r with passed := r.passed.modify a (fun _ => []), derivedTail := r.derivedTail.modify a (fun _ => ctr + 1) }
      else { r with collectDone := r.collectDone.modify a (fun _ => true) }
    | some .corrupt, _ => { r with passed := r.passed.modify a (fun p => p ++ [l]) }
    | none, _ => { r with passed := r.passed.modify a (fun p => p ++ [l]) }
    | some .good, none => r
    | some .blank, _ => r
    | some .torn, _ => r
    | some .foreign, _ => r

/-- One entry of a stretch scanned in a later round (R171). -/
def againEntry (e : ScanEntry) (r : Recovery) : Recovery :=
  match e.verdict, e.stamp with
  | some .good, some t => if r.floor ≤ e.seq then collectStamp t r else r
  | _, _ => r

/-- What one entry does, by the task whose scan returned it; k is its place in the scan. -/
def State.takeEntry (s : State) (a : Actuator) (t : RecTask) (k : Nat) (e : ScanEntry) (r : Recovery) : Recovery :=
  match t with
  | .ring _ => { r with ring := r.ring ++ [e] }
  | .band b seg => walkBand a b (seg + k) e (noteSeq s.epoch e r)
  | .blank _ => noteSeq s.epoch e r
  | .verify ctr _ => verifyEntry (s.cacheLoc a (ctr + k)) e (noteSeq s.epoch e r)
  | .collect ctr _ => collectEntry a (ctr + k) (s.cacheLoc a (ctr + k)) e (noteSeq s.epoch e r)
  | .again _ _ => againEntry e (noteSeq s.epoch e r)
  | .close _ => r
  | .page _ => r
  | .notice _ => r

/-- Entries taken one after another from place k on. -/
def State.takeEntries (s : State) (a : Actuator) (t : RecTask) : Nat → List ScanEntry → Recovery → Recovery
  | _, [], r => r
  | k, e :: l, r => s.takeEntries a t (k + 1) l (s.takeEntry a t k e r)

/-- The list of a scan as the port hands it on (R106): at most count entries, in THROUGH mode exactly count, and in
STOP_UNUSED mode none past the first unused segment. An entry the sequencer left out counts as UNREADABLE (log 15). -/
def scanList (count floor : Nat) (mode : ScanMode) (l : List ScanEntry) : List ScanEntry :=
  let l := l.take count
  match mode with
  | .through => l ++ List.replicate (count - l.length) ⟨none, false, 0, 0, none⟩
  | .stopUnused =>
    match l.findIdx? (fun e => e.unused floor) with
    | some i => l.take (i + 1)
    | none => l

/-! ## Rounds of replay (R171, R172) -/

/-- The slots of a run that are not void. -/
def Stamp.liveSlots (t : Stamp) (r : Run) : List Nat :=
  ((List.range r.len).map (fun j => r.first + j)).filter (fun k => !t.void.getLsbD k)

/-- One item replayed (R172). -/
def replayItem (s : State) : ReplayItem → State
  | .release lba count _ => (releaseRange lba count s).2
  | .segment t =>
    t.runs.foldl (fun s r =>
      (t.liveSlots r).foldl (fun s k =>
        match t.kind, r.source with
        | .data, _ => (place (r.start + (k - r.first)) (t.own.at k) s).2
        | .reloc, some src =>
          (conditionalMove (r.start + (k - r.first)) (src.further (k - r.first)) (t.own.at k) s).2
        | _, _ => s) s) s

/-- A ring stretch in parts that do not wrap (R169). -/
def State.ringParts (s : State) (a : Actuator) (ctr left : Nat) : List RecTask :=
  let first := min left (s.mcs - ctr % s.mcs)
  (if 0 < first then [.again (s.cacheLoc a ctr) first] else []) ++
  (if first < left then [.again ⟨a, .cache, 0, 0⟩ (left - first)] else [])

/-- The stretches the first round found on an actuator (R171). -/
def State.stretches (s : State) (a : Actuator) (cap : Captured) : List RecTask :=
  ((s.recov.walks.filter (fun w => decide (w.act = a) && decide (w.start < w.derived))).map (fun w =>
    .again ⟨a, .band, w.band, w.start⟩ (w.derived - w.start))) ++
  s.ringParts a cap.migrateHead (cap.tail - cap.migrateHead) ++
  s.ringParts a cap.tail (s.recov.derivedTail.get a - cap.tail)

/-- A further round begins with the ceiling as its floor (R171). -/
def beginRound (c : CloseInfo) (ceiling : Nat) (s : State) : State :=
  let s := s.modRec (fun r =>
    { r with
      phase := .round, items := [], ceiling := none, floor := ceiling
      work := ⟨((r.notices.map RecTask.notice) ++ s.stretches .A c.captured.a).map fresh,
               (s.stretches .B c.captured.b).map fresh⟩ })
  prepare .A s

/-! ## Settling (R173) -/

/-- Whether a stamp found confirms a block (R173). -/
def Stamp.confirms (t : Stamp) (lba slot : Nat) : Bool := t.agrees lba slot && !t.void.getLsbD slot

/-- Whether the media confirmed a mapping (R173). -/
def State.confirmed (s : State) (x : Nat × Loc) : Bool :=
  let l := x.2.segment
  let found := match s.recov.found.find? (fun f => decide (f.1 = l)) with
    | some (_, some t) => t.confirms x.1 x.2.slot
    | some (_, none) => true
    | none => false
  match l.region with
  | .band =>
    match s.recov.walks.find? (fun w => decide (w.act = l.act) && decide (w.band = l.band)) with
    | some w => decide (l.seg < w.start) || found
    | none => decide (l.seg < (s.bandRec l.act l.band).written)
  | .cache => found
  | .ckring => false

/-- RECOVERY_TORN for one actuator on which blocks were made lost (R173). -/
def postTorn (lost : List (Nat × Loc)) (s : State) (a : Actuator) : State :=
  match lost.countP (fun x => decide (x.2.segment.act = a)) with
  | 0 => s
  | n => post .recoveryTorn a n 0 s

/-- The mappings the media did not confirm are made lost (R173), by ascending LBA over both actuators, an order that is the
model's choice and shows only where records run out (R39, log 36). Blocks that Make lost turns LOST with a whole record, ending
EXHAUSTED (R39), are not in the number of RECOVERY_TORN (log 36). -/
def settleTables (s : State) : State :=
  let unconfirmed := (s.extents.flatMap Extent.blocks).filter (fun x => !s.confirmed x)
  let (loss, s) := makeLost unconfirmed s
  let lost := unconfirmed.filter (fun x => loss.marked.contains x.1)
  s.forAny ([Actuator.A, Actuator.B].filter (fun a => lost.any (fun x => decide (x.2.segment.act = a)))) (postTorn lost)

/-! ## The end of recovery in READY (R174) -/

/-- A band's state and pointers at the end of recovery (R174), before its counts. -/
def endBand (seq spb : Nat) (walk : Option Walk) (r : Band) : Band :=
  match walk with
  | some w =>
    let r := { r with written := w.derived, reserved := w.derived }
    if w.torn ∨ w.derived = spb then { r with state := .full, closeSeq := some seq }
    else { r with state := .parked }
  | none => r

/-- A band's counts recomputed (R174): an EVACUATED band that still holds current data returns to FULL. -/
def recountBand (t : List Extent) (seq : Nat) (a : Actuator) (b : Nat) (r : Band) : Band :=
  let mine := t.filter (fun e => decide (e.home = some (a, b)))
  let r : Band := { r with valid := (mine.map (fun e => e.len)).sum, extents := mine.length }
  if r.state = .evacuated ∧ 0 < r.valid then
    { r with state := .full, closeSeq := some seq, evacSeq := none, validAtSel := none }
  else r

/-- The parked list of an actuator (R174): the bands recorded PARKED first, then those that became so. -/
def parkedList (old new : List Band) : List Nat :=
  let parked := (List.range new.length).filter (fun b => decide ((new.getD b Band.blank).state = .parked))
  parked.filter (fun b => decide ((old.getD b Band.blank).state = .parked)) ++
  parked.filter (fun b => decide ((old.getD b Band.blank).state ≠ .parked))

/-- The band manager of an actuator at the end of recovery (R174). -/
def State.endManager (s : State) (seq : Nat) (a : Actuator) (cap : Captured) : BandMgr :=
  let old := (s.bm.get a).bands
  let new := (List.range old.length).map (fun b =>
    let walk := s.recov.walks.find? (fun w => decide (w.act = a) && decide (w.band = b))
    recountBand s.extents seq a b (endBand seq s.spb walk (old.getD b Band.blank)))
  ⟨new, parkedList old new, ⟨cap.migrateHead, cap.migrateHead, cap.migrateHead, s.recov.derivedTail.get a, []⟩⟩

/-- The counter value of a checkpoint ring index in the window from a start position on (R170). -/
def ringCounter (startPos cks idx : Nat) : Nat := startPos + (idx + cks - startPos % cks) % cks

/-- ring_tail at the end of recovery (R170). -/
def derivedRingTail (ring : List ScanEntry) (c : CloseInfo) : Nat :=
  highest ((List.range (min ring.length c.geom.cks)).map (fun i =>
    match ring[i]? with
    | some e =>
      if (e.verdict = some .good ∨ e.verdict = some .torn) ∧ e.epoch = c.stamp.epoch ∧ c.sStart ≤ e.seq then
        ringCounter c.startPos c.geom.cks i + 1
      else 0
    | none => 0))

/-- Recovery ends in READY (R174, R20, R42, R57, R96). -/
def endReady (c : CloseInfo) (s : State) : State :=
  let seq := s.recov.maxSeq + 1
  let collected := s.recov.stampsCollected
  let bm : Two BandMgr := ⟨s.endManager seq .A c.captured.a, s.endManager seq .B c.captured.b⟩
  let ck : Ckpt := { Ckpt.fresh with ringStart := c.startPos, ringTail := derivedRingTail s.recov.ring c,
                                     dStart := collected, dComplete := collected }
  let s := { dropScanner s with bm := bm, ck := ck, seq := some seq, seqLimit := decide (Config.sequenceLimit ≤ seq),
                                recov := Recovery.off }
  evalLatch .B (evalLatch .A (requestCk (enterReady s)))

/-- A round has ended (R171): its items are replayed in ascending sequence; a ceiling brings a further round, and
otherwise the tables are settled. -/
def endRound (s : State) : State :=
  match s.recov.chosen with
  | none => s
  | some c =>
    let s := (sortByKey ReplayItem.seq s.recov.items).foldl replayItem s
    match s.recov.ceiling with
    | some k => beginRound c k s
    | none => endReady c (settleTables s)

/-- Whether the scans of a round have all ended. -/
def State.scansDone (s : State) : Bool :=
  (decide (s.recov.phase = .scans) || decide (s.recov.phase = .round)) && (s.recov.work.get .A).isEmpty &&
  (s.recov.work.get .B).isEmpty

/-- The end of a round, when every scan of both actuators has ended (R163). A round with nothing to scan ends at once,
at most `fuel` in a row. -/
def testRound : Nat → State → State
  | 0, s => s
  | fuel + 1, s => if s.scansDone then testRound fuel (endRound s) else s

/-! ## Results (R106, R115, R164 to R171) -/

/-- What follows a scan's list (R164, R167 to R171). Once a GOOD entry below S_start has ended the walk of the collection
stretch, no scan of the rest of the stretch is issued (R169, log 51). -/
def afterScan (a : Actuator) (t : RecTask) (count : Nat) (l : List ScanEntry) (s : State) : State :=
  let used := l.any (fun e => !e.unused s.recov.floor)
  match t with
  | .ring idx =>
    if idx + Config.scanLimit < Config.largestRing then finishTask a [.ring (idx + Config.scanLimit)] s else endRingScan s
  | .band b seg =>
    if l.any (fun e => e.unused s.recov.floor) ∨ s.spb ≤ seg + l.length then finishTask a [] s
    else finishTask a [.band b (seg + l.length)] s
  | .blank b =>
    if used then
      finishTask a [.band b 0] (s.modRec (fun r => { r with walks := r.walks ++ [⟨a, b, 0, 0, false, false, true⟩] }))
    else finishTask a [] s
  | .verify ctr left =>
    if count < left then finishTask a [.verify (ctr + count) (left - count)] s else finishTask a [] s
  | .collect ctr left =>
    if count < left ∧ s.recov.collectDone.get a = false then finishTask a [.collect (ctr + count) (left - count)] s
    else finishTask a [] s
  | .again l left =>
    if count < left then finishTask a [.again { l with seg := l.seg + count } (left - count)] s else finishTask a [] s
  | .close _ => s
  | .page _ => s
  | .notice _ => s

/-- A STAMP SCAN of the scanner, that of its head task, has ended with its list (R106). -/
def scanTaken (a : Actuator) (l : List ScanEntry) (s : State) : State :=
  match s.task a with
  | none => s
  | some w =>
    let (_, _, count, mode, floor) := s.taskOp a s.recov.floor w.task
    let l := scanList count floor mode l
    testRound 3 (afterScan a w.task count l (s.modRec (s.takeEntries a w.task 0 l)))

/-- A read that does not succeed (R166, R170, R194): issued again, or the third failure handled. -/
def scannerFailed (a : Actuator) (t : RecTask) (s : State) : State :=
  if s.lastAttempt a = false then retryTask a s
  else
    match t with
    | .close c => endHalted c.epoch s
    | .page _ => endHalted (s.epoch.getD 0) s
    | .notice _ => finishTask a [] s
    | .ring _ => s
    | .band _ _ => s
    | .blank _ => s
    | .verify _ _ => s
    | .collect _ _ => s
    | .again _ _ => s

/-- A page read GOOD with the stamp the ring scan found (R166). -/
def pageRead (k : Nat) (t : Stamp) (payload : List Block) (s : State) : State :=
  match s.recov.chosen with
  | none => s
  | some c =>
    match loadPage k t.filled payload c s with
    | none => scannerFailed .A (.page k) s
    | some s =>
      if k + 1 < c.pages.length then finishTask .A [.page (k + 1)] s
      else testRound 3 (beginScans c (finishTask .A [] s))

/-- A notice read GOOD with the stamp the ring scan found (R170): its records at or above the floor are collected. -/
def noticeRead (t : Stamp) (payload : List Block) (s : State) : State :=
  match allSome ((filledRecords releaseWidth payload t.filled).map loadRelease) with
  | none => scannerFailed .A (.notice t) s
  | some records =>
    let s := s.modRec (fun r => records.foldl (fun r x =>
      let r := { r with maxSeq := max r.maxSeq x.seq }
      if r.floor ≤ x.seq then keepItem (.release x.lba x.count x.seq) r else r) r)
    finishTask .A [] s

/-- The stamp the ring scan found for the segment of a read task (R166). -/
def State.expected (s : State) : RecTask → Option Stamp
  | .close t => some t
  | .notice t => some t
  | .page k => do
    let c ← s.recov.chosen
    let ctr ← c.pages[k]?
    let e ← s.recov.ring[ctr % c.geom.cks]?
    e.stamp
  | .ring _ => none
  | .band _ _ => none
  | .blank _ => none
  | .verify _ _ => none
  | .collect _ _ => none
  | .again _ _ => none

/-- A SEGMENT READ of the scanner has ended, other than NOT_READY (R165, R166, R170). -/
def readTaken (a : Actuator) (r : ReadEnd) (payload : List Block) (s : State) : State :=
  match s.task a with
  | none => s
  | some w =>
    match r with
    | .done .good (some t) =>
      if some t = s.expected w.task then
        match w.task with
        | .close c => closeRead c (payload.getD 0 0) s
        | .page k => pageRead k t payload s
        | .notice n => testRound 3 (noticeRead n payload s)
        | .ring _ => s
        | .band _ _ => s
        | .blank _ => s
        | .verify _ _ => s
        | .collect _ _ => s
        | .again _ _ => s
      else testRound 3 (scannerFailed a w.task s)
    | .done _ _ => testRound 3 (scannerFailed a w.task s)
    | .unreadable => testRound 3 (scannerFailed a w.task s)
    | .notReady => s

end Sys2Proof.Machine
end

