-- ==== Sys2Proof/Machine/MediaPorts.lean ====
section
/-! DEFINITION. The media ports (chapter 6) and the commands that reach them: the arbiter's run (R109 to R113), the
results of operations (R103 to R106, R114, R115), PORT DOWN, PORT UP and the response timer (R103, R107, R108). -/

namespace Sys2Proof.Machine

/-! ## Requesters (R109) -/

/-- A request that could be issued now: the operation without its issue number (R113). -/
structure Request where
  kind : OpKind
  req : OpReq
  loc : SegLoc
  count : Nat
  mode : ScanMode
  floor : Nat
  frame : Option Nat
deriving DecidableEq, Repr

/-- A SEGMENT WRITE of a frame (R104). -/
def writeRequest (req : OpReq) (id : Nat) (l : SegLoc) : Request := ⟨.segmentWrite, req, l, 1, .through, 0, some id⟩

/-- A SEGMENT READ into a frame (R105). -/
def readRequest (req : OpReq) (l : SegLoc) (frame : Option Nat) : Request :=
  ⟨.segmentRead, req, l, 1, .through, 0, frame⟩

/-- The CHECKPOINT requester (R109, R150): the head of the ring queue, at port A. -/
def State.ckRequest (s : State) (a : Actuator) : Option Request :=
  match a, s.ck.queue.head? with
  | .A, some q => (s.frame q.frame).bound.map (fun l => writeRequest .ckpt q.frame l)
  | _, _ => none

/-- The scanner's next operation for a port (R109): a scan, or a read with its frame. -/
def State.scanRequest (s : State) (a : Actuator) : Option Request :=
  match s.task a with
  | none => none
  | some w =>
    let (kind, l, count, mode, floor) := s.taskOp a s.recov.floor w.task
    if w.task.reads ∧ w.frame = none then none else some ⟨kind, .scanner, l, count, mode, floor, w.frame⟩

/-- The READ requester (R109): the head of the read server's queue, or during RECOVERING the scanner. -/
def State.readRequest (s : State) (a : Actuator) : Option Request :=
  if s.service = .recovering then s.scanRequest a
  else
    match (s.rs.queues.get a).head? with
    | none => none
    | some l =>
      match s.entry l with
      | some e => if e.state = .queued then some (Machine.readRequest .read l e.frame) else none
      | none => none

/-- A lane's requester (R109, R47, R117): the head of its queue for the port when it is issuable. -/
def State.laneRequest (s : State) (a : Actuator) (n : Nat) : Option Request :=
  match ((s.lane n).queues.get a).head? with
  | none => none
  | some id =>
    match (s.frame id).bound with
    | some l => if s.issuable l then some (writeRequest (.lane n) id l) else none
    | none => none

/-- The RECLAIM READ requester (R109), held back by the write-protect gate (R117). -/
def State.reclaimRequest (s : State) (a : Actuator) : Option Request :=
  if s.gate then none
  else
    match (s.rc.srcQueue.get a).head? with
    | none => none
    | some l =>
      match s.rc.sources.find? (fun e => decide (e.loc = l) && decide (e.state = .queued)) with
      | some e => some (Machine.readRequest .reclaim l e.frame)
      | none => none

/-- The requesters other than CHECKPOINT in the fixed order: READ, lane 0 to lane 7, RECLAIM READ (R111). -/
def State.requests (s : State) (a : Actuator) : List (Option Request) :=
  [s.readRequest a] ++ (List.range 8).map (s.laneRequest a) ++ [s.reclaimRequest a]

/-! ## Arbitration (R110 to R113) -/

/-- Whether a port's actuator is urgent (R112). -/
def State.urgent (s : State) (a : Actuator) : Bool := decide (s.blankCount a ≤ s.work.reserve)

/-- Whether the requester at place k is a candidate at step 1 of R111: its latch is clear, or it is lane 7 or RECLAIM
READ while the actuator is urgent (R112). -/
def isCandidate (urgent : Bool) (latches : List Bool) (k : Nat) : Bool :=
  !latches.getD k false || (urgent && decide (8 ≤ k))

/-- The first place whose requester waits and is a candidate. -/
def firstCandidate (requests : List (Option Request)) (candidate : Nat → Bool) : Option (Nat × Request) :=
  (List.range requests.length).findSome? (fun k =>
    match requests.getD k none with
    | some r => if candidate k then some (k, r) else none
    | none => none)

/-- The request is issued (R113): the operation record is formed with the next issue number, its stamp sent with a write,
and the response timer starts. -/
def issue (a : Actuator) (r : Request) (s : State) : State :=
  let stamp := match r.kind with
    | .segmentWrite => (r.frame.bind (fun id => (s.frame id).stamp)).map Stamp.bytes
    | .segmentRead => none
    | .stampScan => none
  let s := s.modPort a (fun p =>
    { p with op := some ⟨r.kind, p.issue, r.req, r.loc, r.count, r.mode, r.floor, r.frame, stamp, false, true, false⟩
             issue := (p.issue + 1) % 65536, timer := some s.now })
  match r.req with
  | .read => s.modEntry r.loc (fun e => { e with state := .inFlight })
  | .reclaim =>
    { s with rc := { s.rc with sources := s.rc.sources.map (fun e =>
        if e.loc = r.loc ∧ e.state = .queued then { e with state := .inFlight } else e) } }
  | .ckpt => s
  | .lane _ => s
  | .scanner => s

/-- A requester is granted: its latch is set and its request issued (R111, R113). -/
def grantRequester (a : Actuator) (k : Nat) (r : Request) (s : State) : State :=
  issue a r (s.modPort a (fun p => { p with latches := p.latches.set k true }))

/-- One run of a port's arbiter (R110 to R112): CHECKPOINT first, then a round of the others. -/
def runArbiter (a : Actuator) (s : State) : State :=
  if (s.port a).up = false ∨ (s.port a).op.isSome then s
  else
    match s.ckRequest a with
    | some r => issue a r s
    | none =>
      let requests := s.requests a
      match firstCandidate requests (isCandidate (s.urgent a) (s.port a).latches) with
      | some (k, r) => grantRequester a k r s
      | none =>
        let s := s.modPort a (fun p => { p with latches := List.replicate 10 false })
        match firstCandidate requests (fun _ => true) with
        | some (k, r) => grantRequester a k r s
        | none => s

/-- ARBITER_RUN: one run of a port's arbiter (R110 to R113). -/
def execArbiterRun (a : Actuator) (s : State) : Host.Outcome State Fault Refusal := .next (settle (runArbiter a s))

/-! ## Port up and port down (R107, R108) -/

/-- Closed frames queued for a port across all lanes (R107). -/
def State.queuedFor (s : State) (a : Actuator) : Nat := (s.lanes.map (fun c => (c.queues.get a).length)).sum

/-- Whether lane n's open frame is bound on an actuator. -/
def State.openOn (s : State) (n : Nat) (a : Actuator) : Bool :=
  match (s.lane n).openFrame with
  | some id =>
    match (s.frame id).bound with
    | some l => decide (l.act = a)
    | none => false
  | none => false

/-- Whether lane n holds a band on an actuator. -/
def State.bandOn (s : State) (n : Nat) (a : Actuator) : Bool :=
  (s.lane n).band.isSome && decide ((s.lane n).act = some a)

/-- The lanes that the loss of a port concerns: those with an open frame or a band there, and lane 7. -/
def State.lanesAt (s : State) (a : Actuator) : List Nat :=
  (List.range 8).filter (fun n => decide (n = 7) || s.openOn n a || s.bandOn n a)

/-- A lane loses a port (R80, R146): a stream lane or lane 7 with its band or open frame there closes its open frame and
gives up its band, and lane 6 closes an open frame bound in that ring. Lane 7 returns to the job's actuator. -/
def losePort (a : Actuator) (s : State) (n : Nat) : State :=
  let s := if s.openOn n a ∨ s.bandOn n a then
      (if n = 6 then closeOpen n s else giveUpLaneBand n (closeOpen n s))
    else s
  if n = 7 then
    match s.rc.job with
    | some j => s.modLane 7 (fun c => if c.act = some a then { c with act := some j.act } else c)
    | none => s
  else s

/-- A port enters DOWN (R107, R108): PORT_DOWN is posted with the frames queued for it, and the blocks that depend on
it are informed. -/
def enterDown (a : Actuator) (s : State) : State :=
  let s := post .portDown a (s.queuedFor a) 0 s
  let s := s.modPort a (fun p => { p with up := false })
  pausePort a (s.forAny (s.lanesAt a) (losePort a))

/-- PORT_DOWN: a PORT DOWN message (R107, R108). -/
def execPortDown (a : Actuator) (s : State) : Host.Outcome State Fault Refusal :=
  .next (if (s.port a).up then settle (enterDown a s) else s)

/-- PORT_UP: a PORT UP message (R107, R108): an operation in flight was issued before this entry to UP. -/
def execPortUp (a : Actuator) (s : State) : Host.Outcome State Fault Refusal :=
  .next (if (s.port a).up then s
    else settle (resumePort a (s.modPort a (fun p =>
      { p with up := true, op := p.op.map (fun o => { o with beforeUp := true }) }))))

/-! ## Results -/

/-- The port's operation ends (R103): it becomes idle and its response timer stops. -/
def endOp (a : Actuator) (s : State) : State := s.modPort a (fun p => { p with op := none, timer := none })

/-- A frame whose read failed holds contents that are not defined (R105, log 4). -/
def scramble (frame : Option Nat) (s : State) : State :=
  match frame with
  | some id =>
    { s.modFrame id (fun f => { f with payload := (List.range 16).map (Config.undefinedBlock s.freeCount) }) with
      freeCount := s.freeCount + 1 }
  | none => s

/-- What a NOT_READY result does for the requester (R114, R115, R121, R139): its request stays with it, but that of a
checkpoint abandoned meanwhile (R160). -/
def routeNotReady (o : Op) (s : State) : State :=
  let s := if o.kind = .segmentRead ∧ o.live then scramble o.frame s else s
  if o.live = false then (if o.releaseAtEnd then releaseHeld o.frame s else s)
  else
    match o.req with
    | .read => entryResult o.loc .notReady s
    | .reclaim => sourceResult o.loc .notReady s
    | .ckpt =>
      match o.frame with
      | some id => if s.ringSeg id = none then endAbandoned id o.loc.seg false s else s
      | none => s
    | .lane _ => s
    | .scanner => s

/-- An operation ends NOT_READY (R107): an UP port enters DOWN, unless the operation was issued before the port's latest
entry to UP. The result is routed first, so what its requester posts stands before PORT_DOWN (log 47). -/
def endNotReady (a : Actuator) (o : Op) (s : State) : State :=
  let s := routeNotReady o (endOp a s)
  if (s.port a).up ∧ o.beforeUp = false then enterDown a s else s

/-- The operation a result ends (R103): the one in flight, when the issue number is its. -/
def State.opFor (s : State) (a : Actuator) (issue : BitVec 16) : Option Op :=
  match (s.port a).op with
  | some o => if o.issue = issue.toNat then some o else none
  | none => none

/-- A lane frame's SEGMENT WRITE returned DONE (R81, R114): the band manager advances, the frame leaves its queue, its
waiters are answered and it is released; lane 7 hands it to the reclaim engine, its owner from then on, for its commit
(R89). -/
def laneWritten (n id : Nat) (l : SegLoc) (s : State) : State :=
  let s := if l.region = .band then bandWritten l.act l.band s else s
  let waiters := (s.frame id).waiters
  let s := (leaveQueue n id s).modFrame id (fun f => { f with written := true, waiters := [] })
  if n = 7 then takeWritten id l s
  else wakeWaiters waiters (releaseFrame id s)

/-- A truncated band is lost to the lane that owned it (R49). -/
def loseBand (l : SegLoc) (s : State) : State :=
  { s with lanes := s.lanes.map (fun c => if c.act = some l.act ∧ c.band = some l.band then { c with band := none } else c) }

/-- A lane frame's SEGMENT WRITE returned WRITE_FAULT or SUPPLY_LATE (R49, R59, R84, R114): the band manager acts
first. -/
def laneFailed (n id : Nat) (l : SegLoc) (fault : Bool) (s : State) : State :=
  let s :=
    if l.region = .band then loseBand l (truncateBand l.act l.band fault s)
    else post (if fault then .writeFault else .supplyLate) l.act l.seg 0 s
  failFrame n id s

/-- A SEGMENT WRITE result other than NOT_READY routed to its requester (R114). -/
def routeWrite (o : Op) (ok fault : Bool) (s : State) : State :=
  if o.live = false then (if o.releaseAtEnd then releaseHeld o.frame s else s)
  else
    match o.req, o.frame with
    | .lane n, some id => if ok then laneWritten n id o.loc s else laneFailed n id o.loc fault s
    | .ckpt, some id =>
      match s.ringSeg id with
      | some q => if ok then ringWritten q s else ringFailed q s
      | none => endAbandoned id o.loc.seg (!ok) s
    | _, _ => s

/-- A SEGMENT WRITE result taken (R103, R104, R114). -/
def takeWrite (a : Actuator) (o : Op) (r : WriteResult) (s : State) : State :=
  if o.kind ≠ .segmentWrite then endNotReady a o s
  else
    match r with
    | .done => routeWrite o true false (endOp a s)
    | .writeFault => routeWrite o false true (endOp a s)
    | .supplyLate => routeWrite o false false (endOp a s)
    | .notReady => endNotReady a o s

/-- SEGMENT_WRITE_RESULT: a result of a SEGMENT WRITE arrives (R103, R104, R114); one that ends no operation in flight is
discarded. -/
def execSegmentWriteResult (a : Actuator) (issue : BitVec 16) (r : WriteResult) (s : State) :
    Host.Outcome State Fault Refusal :=
  .next (match s.opFor a issue with
    | some o => settle (takeWrite a o r s)
    | none => s)

/-- A SEGMENT READ result other than NOT_READY goes to its requester (R115). -/
def routeRead (a : Actuator) (o : Op) (r : ReadEnd) (payload : List Block) (s : State) : State :=
  if o.live = false then (if o.releaseAtEnd then releaseHeld o.frame s else s)
  else
    match o.req with
    | .read => entryResult o.loc r s
    | .reclaim => sourceResult o.loc r s
    | .scanner => readTaken a r payload s
    | .ckpt => s
    | .lane _ => s

/-- The payload of a read placed in its frame (R105). -/
def fillFrame (frame : Option Nat) (payload : List Block) (s : State) : State :=
  match frame with
  | some id => s.modFrame id (fun f => { f with payload := payload })
  | none => s

/-- A SEGMENT READ result taken (R103, R105, R115): the port judges what was found. The result of an operation that serves
no one is discarded and touches no frame's contents (R102). -/
def takeRead (a : Actuator) (o : Op) (r : ReadResult) (s : State) : State :=
  if o.kind ≠ .segmentRead then endNotReady a o s
  else
    match r with
    | .done header trailer payload =>
      let j := judge s.geom s.epoch o.loc header trailer (payloadFold payload)
      let s := endOp a s
      routeRead a o (.done j.verdict j.stamp) payload (if o.live then fillFrame o.frame payload s else s)
    | .unreadable =>
      let s := endOp a s
      routeRead a o .unreadable [] (if o.live then scramble o.frame s else s)
    | .notReady => endNotReady a o s

/-- SEGMENT_READ_RESULT: a result of a SEGMENT READ arrives (R103, R105, R115). -/
def execSegmentReadResult (a : Actuator) (issue : BitVec 16) (r : ReadResult) (s : State) :
    Host.Outcome State Fault Refusal :=
  .next (match s.opFor a issue with
    | some o => settle (takeRead a o r s)
    | none => s)

/-- The entries of a scan judged, each against its own segment location (R106). -/
def judgeEntries (g : Option Geometry) (epoch : Option Nat) (l : SegLoc) : Nat → List ScanRaw → List ScanEntry
  | _, [] => []
  | k, e :: es => judgeEntry g epoch { l with seg := l.seg + k } e :: judgeEntries g epoch l (k + 1) es

/-- A STAMP SCAN result taken (R103, R106, R115): its list goes to the scanner. -/
def takeScan (a : Actuator) (o : Op) (r : ScanResult) (s : State) : State :=
  if o.kind ≠ .stampScan then endNotReady a o s
  else
    match r with
    | .entries list =>
      let s := endOp a s
      if o.live = false then s
      else
        match o.req with
        | .scanner => scanTaken a (judgeEntries s.geom s.epoch o.loc 0 list) s
        | .read => s
        | .reclaim => s
        | .ckpt => s
        | .lane _ => s
    | .notReady => endNotReady a o s

/-- STAMP_SCAN_RESULT: a result of a STAMP SCAN arrives (R103, R106, R115). -/
def execStampScanResult (a : Actuator) (issue : BitVec 16) (r : ScanResult) (s : State) :
    Host.Outcome State Fault Refusal :=
  .next (match s.opFor a issue with
    | some o => settle (takeScan a o r s)
    | none => s)

/-- The response limit of an operation (R103). -/
def OpKind.limit : OpKind → Nat
  | .segmentWrite => Config.responseLimit
  | .segmentRead => Config.responseLimit
  | .stampScan => Config.scanResponseLimit

/-- RESPONSE_TIMER_EXPIRY: the response timer of a port reaches its limit (R103): the operation ends as though NOT_READY.
An expiry that is not due has no effect (log 2). -/
def execResponseTimerExpiry (a : Actuator) (s : State) : Host.Outcome State Fault Refusal :=
  .next (match (s.port a).op with
    | some o => if s.ranFor (s.port a).timer o.kind.limit then settle (endNotReady a o s) else s
    | none => s)

end Sys2Proof.Machine
end

