-- ==== Sys2Proof/Machine/FrontLink.lean ====
section
/-! DEFINITION. The front link's commands (chapter 11): the arrival of READ, WRITE, RELEASE, FLUSH, WRITE DATA and
unknown messages (R177, R178, R180, R195), the delivery of READ DATA (R123), port waits (R125) and the front-link reset
(R186). -/

namespace Sys2Proof.Machine

/-! ## Arrival (R178, R195) -/

/-- Every arrival of a request restarts the idle clock (R134, R178). -/
def restartIdleClock (s : State) : State :=
  { s with rc := { s.rc with idleClock := some s.now, idleExpired := false } }

/-- What an arriving request asks of the part: its kind, LBA, count and DURABLE flag. -/
structure Arrival where
  kind : ReqKind
  lba : Nat
  count : Nat
  durable : Bool
deriving DecidableEq, Repr

/-- The highest count of a kind (section 11.1). -/
def ReqKind.maxCount : ReqKind → Nat
  | .read => 256
  | .write => 256
  | .release => 65536
  | .flush => 0

/-- Check 3 of R178: the count lies in its kind's range and the range below LCAP. -/
def State.inRange (s : State) (r : Arrival) : Bool :=
  decide (r.kind = .flush) ||
  (decide (1 ≤ r.count) && decide (r.count ≤ r.kind.maxCount) &&
   (match s.geom with
    | some g => decide (r.lba + r.count ≤ g.lcap)
    | none => false))

/-- The arrival checks of R178 in their order, with R195's for tags above 63: the outcome of the first that fails. -/
def State.refusal (s : State) (tag : Nat) (r : Arrival) : Option Outcome :=
  if 63 < tag ∨ (s.tag tag).isSome then some .tagInUse
  else if s.service ≠ .ready then some .notReady
  else if s.inRange r = false then some .outOfRange
  else if (r.kind = .write ∨ r.kind = .release) ∧ s.gate then some .writeProtected
  else none

/-- An accepted request takes its tag (R177, R178). -/
def takeTag (tag : Nat) (r : Arrival) (stand : Stand) (s : State) : State :=
  { s with tags := s.tags.set tag (some ⟨r.kind, r.lba, r.count, r.durable, stand, 0, none, [], false⟩) }

/-- A request arrives (R178): refused at once with detail 0, or it takes its tag and goes on as `accept` has it. -/
def arrive (tag : Nat) (r : Arrival) (stand : Stand) (accept : State → State) (s : State) : State :=
  let s := restartIdleClock s
  match s.refusal tag r with
  | some o => s.send (.completion tag o 0)
  | none => settle (accept (takeTag tag r stand s))

/-- A WRITE, RELEASE or FLUSH joins the tail of the write intake queue (R178). -/
def joinIntake (tag : Nat) (s : State) : State := { s with intake := s.intake ++ [tag] }

/-- READ: accepted at once on to the active read list and resolved (R119, R178). -/
def execRead (tag : Byte) (lba : BitVec 40) (count : BitVec 24) (s : State) : Host.Outcome State Fault Refusal :=
  .next (arrive tag.toNat ⟨.read, lba.toNat, count.toNat, false⟩ .reading
    (acceptRead tag.toNat lba.toNat count.toNat) s)

/-- WRITE: checked and queued in the write intake (R178); bit 0 of the flags is DURABLE (section 13.4). -/
def execWrite (tag : Byte) (lba : BitVec 40) (count : BitVec 24) (flags : Byte) (s : State) :
    Host.Outcome State Fault Refusal :=
  .next (arrive tag.toNat ⟨.write, lba.toNat, count.toNat, flags.getLsbD 0⟩ .queued (joinIntake tag.toNat) s)

/-- RELEASE: checked and queued in the write intake (R178). -/
def execRelease (tag : Byte) (lba : BitVec 40) (count : BitVec 24) (s : State) : Host.Outcome State Fault Refusal :=
  .next (arrive tag.toNat ⟨.release, lba.toNat, count.toNat, false⟩ .queued (joinIntake tag.toNat) s)

/-- FLUSH: checked and queued in the write intake (R178). -/
def execFlush (tag : Byte) (s : State) : Host.Outcome State Fault Refusal :=
  .next (arrive tag.toNat ⟨.flush, 0, 0, false⟩ .queued (joinIntake tag.toNat) s)

/-- A message of no known kind is discarded on arrival without effect (R177). -/
def execUnknownMessage (_kind : Byte) (s : State) : Host.Outcome State Fault Refusal := .next s

/-! ## Data -/

/-- WRITE_DATA: the answer to the oldest unanswered pull of the current data phase (R74, R180); with no pull of its tag
unanswered it is discarded. -/
def execWriteData (tag : Byte) (data : Block) (s : State) : Host.Outcome State Fault Refusal :=
  .next (match s.phase with
    | some p =>
      match p.unanswered with
      | u :: _ => if p.tag = tag.toNat then settle (testPhaseEnd (acceptBlock p u data s)) else s
      | [] => s
    | none => s)

/-- READ_DATA_DELIVERY: the next block of a READ is sent as soon as its source is ready (R123); until then nothing
happens. -/
def execReadDataDelivery (tag : Byte) (s : State) : Host.Outcome State Fault Refusal :=
  .next (settle (deliver tag.toNat s))

/-- PORT_WAIT_EXPIRY: a READ's port wait timer reaches HOLD_LIMIT (R125); an expiry that is not due has no effect
(log 2). -/
def execPortWaitExpiry (tag : Byte) (s : State) : Host.Outcome State Fault Refusal :=
  .next (if s.waitRanOut tag.toNat then settle (expireWait tag.toNat s) else s)

/-! ## Front-link reset (R186) -/

/-- The tags of dropped RELEASEs are cleared from their records (R149, R186). -/
def clearTags (l : List ReleaseRec) : List ReleaseRec := l.map (fun (r : ReleaseRec) => { r with tag := none })

/-- Everything a front-link reset drops (R186): the data phase, the active READs, the tags, the intake, the waiters of
every frame, and the tags kept with release records. The data phase ends, and a frame
whose close waited for it takes its sequence, before the READs are dropped; these are dropped in the order of the active read
list: both orders are the model's choice (log 43). -/
def dropRequests (s : State) : State :=
  let s := dropPhase s
  let s := s.rs.reads.foldl dropRead s
  let s := { s with
    tags := List.replicate 64 none, intake := []
    pool := { s.pool with frames := s.pool.frames.map (fun (f : Frame) => { f with waiters := [] }) } }
  s.modCk (fun c =>
    { c with batch := clearTags c.batch, notice := c.notice.map (fun (n : Notice) => { n with records := clearTags n.records }) })

/-- FRONT_LINK_RESET: every outstanding request is dropped without a completion (R186). -/
def execFrontLinkReset (s : State) : Host.Outcome State Fault Refusal := .next (settle (dropRequests s))

end Sys2Proof.Machine
end

