-- ==== Sys2Proof/Machine/WriteIntake.lean ====
section
/-! DEFINITION. The write intake's turns, the admission gate's commands and the timers of lanes and holds: the start of a
data phase (R67, R179), a pull (R93), the acceptance of a RELEASE (R151) and of a FLUSH (R183), the hold timer (R100),
the idle and release timers (R78, R79), and WPROT (R116). -/

namespace Sys2Proof.Machine

/-! ## Turns (R179) -/

/-- The request whose turn it is, with its tag (R179). -/
def State.headRequest (s : State) : Option (Nat × TagEntry) :=
  match s.intake.head? with
  | some t => (s.tag t).map (fun e => (t, e))
  | none => none

/-- A WRITE's data phase begins (R67, R179): it is classified to a lane, which it enters. -/
def startPhase (tag : Nat) (e : TagEntry) (s : State) : State :=
  let (n, s) := classify e.lba e.count s
  let s := enterLane n s
  let s := { s with phase := some ⟨tag, e.lba, e.count, n, false, 0, 0, [], none, none, false⟩ }
  s.modTag tag (fun e => { e with stand := .inTurn })

/-- DATA_PHASE_START: the WRITE at the head of the intake begins its data phase, or is refused under the asserted gate
(R67, R179, R185). -/
def execDataPhaseStart (s : State) : Host.Outcome State Fault Refusal :=
  .next (match s.headRequest with
    | some (t, e) =>
      if e.kind = .write ∧ s.phase = none then
        settle (if s.gate then refuseTurns s else startPhase t e s)
      else s
    | none => s)

/-- DATA_PULL: the admission gate tests the block at the gate, and sends its pull when the test passes (R93, R94). -/
def execDataPull (s : State) : Host.Outcome State Fault Refusal :=
  .next (match s.phase with
    | some _ => settle (testGate s)
    | none => s)

/-- A RELEASE is accepted (R28, R151): Release is performed, its record takes the current SEQ and joins the batch, and
its turn ends. -/
def acceptRelease (tag : Nat) (e : TagEntry) (s : State) : State :=
  let s := (releaseRange e.lba e.count s).2
  let (seq, s) := assignSeq s
  let s := s.modCk (fun c => { c with batch := c.batch ++ [⟨e.lba, e.count, seq, some tag⟩] })
  let s := takeBatch s
  refuseTurns (popIntake (s.modTag tag (fun e => { e with stand := .accepted })))

/-- RELEASE_ACCEPTANCE: the RELEASE at the head is accepted once 66 records are free and the checkpoint writer allows it
(R36, R151, R182); until then it is held in its turn (R177). -/
def execReleaseAcceptance (s : State) : Host.Outcome State Fault Refusal :=
  .next (match s.headRequest with
    | some (t, e) =>
      if e.kind = .release then
        settle (if s.gate then refuseTurns s
          else if Config.frontReserve ≤ s.freeRecords ∧ s.releaseRoom then acceptRelease t e s
          else s.modTag t (fun e => { e with stand := .inTurn }))
      else s
    | none => s)

/-- A FLUSH joins every DATA frame of the pool whose write has not returned DONE (R81). -/
def joinFrames (tag : Nat) (s : State) : State :=
  { s with pool := { s.pool with frames := s.pool.frames.map (fun (f : Frame) =>
      match f.owner with
      | some (.lane n) =>
        if f.state = .inUse ∧ n ≤ 6 ∧ f.bound.isSome ∧ f.written = false then { f with waiters := f.waiters ++ [tag] } else f
      | _ => f) } }

/-- The RELEASEs accepted and not completed (R183). -/
def State.openReleases (s : State) : List Nat :=
  (List.range 64).filter (fun t =>
    match s.tag t with
    | some e => decide (e.kind = .release) && decide (e.stand = .accepted)
    | none => false)

/-- A FLUSH is accepted (R80, R81, R183): the open frames of lanes 0..6 close, in an order that is open, it joins the
DATA frames and records the RELEASEs before it, and its turn ends. -/
def acceptFlush (tag : Nat) (s : State) : State :=
  let s := s.forAny ((List.range 7).filter (fun n => (s.lane n).openFrame.isSome)) (fun s n => closeOpen n s)
  let s := joinFrames tag s
  let releases := s.openReleases
  let s := s.modTag tag (fun e => { e with stand := .accepted, releases := releases })
  refuseTurns (checkComplete tag (popIntake s))

/-- FLUSH_ACCEPTANCE: the FLUSH at the head is accepted at once (R179, R183). -/
def execFlushAcceptance (s : State) : Host.Outcome State Fault Refusal :=
  .next (match s.headRequest with
    | some (t, e) => if e.kind = .flush then settle (acceptFlush t s) else s
    | none => s)

/-! ## The hold timer (R99, R100) -/

/-- The current WRITE stops pulling (R100): WRITE_HELD_EXPIRED is posted, the hold is abandoned, and the data phase ends
once no pull is unanswered. -/
def expireHold (s : State) : State :=
  match s.phase with
  | none => s
  | some p =>
    let s := post .writeHeldExpired .A (p.lba + p.next) (p.count - p.next) s
    let s := s.modPhase (fun p => { p with stopped := true, hold := none, holdTimer := none })
    let s := (dropRequest p.lane s).modLane p.lane (fun c =>
      if c.state = .waiting then { c with state := .opened } else c)
    testPhaseEnd s

/-- HOLD_TIMER_EXPIRY: the hold timer reaches HOLD_LIMIT (R100); an expiry that is not due has no effect (log 2). -/
def execHoldTimerExpiry (s : State) : Host.Outcome State Fault Refusal :=
  .next (match s.phase with
    | some p => if s.ranFor p.holdTimer s.work.holdLimit then settle (expireHold s) else s
    | none => s)

/-! ## Lane timers (R78, R79) -/

/-- IDLE_TIMER_EXPIRY: a lane's idle timer reaches IDLE_LIMIT and its open frame closes (R78). -/
def execIdleTimerExpiry (lane : Nat) (s : State) : Host.Outcome State Fault Refusal :=
  .next (if lane ≤ 6 ∧ s.ranFor (s.lane lane).idleTimer s.work.idleLimit then settle (closeOpen lane s) else s)

/-- RELEASE_TIMER_EXPIRY: a lane's release timer reaches LANE_RELEASE and the lane gives up (R79). -/
def execReleaseTimerExpiry (lane : Nat) (s : State) : Host.Outcome State Fault Refusal :=
  .next (if lane ≤ 6 ∧ (s.lane lane).state = .opened ∧ s.ranFor (s.lane lane).releaseTimer (s.work.laneRelease * 1000) then
      settle (giveUpLane lane s)
    else s)

/-! ## The WPROT pin (R15, R116) -/

/-- WPROT_ASSERTED: the WPROT input is asserted (R116). -/
def execWprotAsserted (s : State) : Host.Outcome State Fault Refusal := .next (settle { s with wprot := true })

/-- WPROT_DEASSERTED: the WPROT input is deasserted (R116); the gate stays asserted while the sequence limit holds. -/
def execWprotDeasserted (s : State) : Host.Outcome State Fault Refusal := .next (settle { s with wprot := false })

end Sys2Proof.Machine
end

