-- ==== Sys2Proof/Machine/Engines.lean ====
section
/-! DEFINITION. The part's own steps at the frame pool, the checkpoint writer and the reclaim engine: a frame's grant
(R91), a checkpoint's start (R155), the trigger test (R133), a commit (R142) and the idle clock (R134). -/

namespace Sys2Proof.Machine

/-! ## The pool's offer (R91) -/

/-- The first head, in the order META, RECLAIM, READ, WRITE, that passes the test of R90 (R91). -/
def State.nextGrant (s : State) : Option Requester :=
  [FrameClass.metadata, .reclaim, .read, .write].findSome? (fun c =>
    match s.pool.queue c with
    | r :: _ => if s.pool.passes c then some r else none
    | [] => none)

/-- The head of a requester's queue leaves it (R91). -/
def dequeue (c : FrameClass) (s : State) : State := { s with pool := s.pool.setQueue c (s.pool.queue c).tail }

/-- A granted frame goes to its requester (R72, R120, R139, R152, R155, R158, R166). -/
def deliverFrame (r : Requester) (id : Nat) (s : State) : State :=
  match r with
  | .lane n => s.modLane n (fun c => { c with granted := some id })
  | .readEntry l => grantEntry l id s
  | .source l => grantSource l id s
  | .page => grantPage id s
  | .close => grantClose id s
  | .notice => grantNotice id s
  | .scanner a => grantScanner a id s

/-- One grant of the pool's offer, and the read server's test of stalled entries after it (R91, R122). Without a FREE
frame nothing is offered. -/
def offerFrame (s : State) : State :=
  match s.nextGrant with
  | none => if s.pool.freeCount = 0 then s else recycleStalled s
  | some r =>
    match grantFrame r s with
    | some (id, s) => recycleStalled (deliverFrame r id (dequeue r.cls s))
    | none => s

/-- FRAME_GRANT: the pool offers its FREE frames, and the first head that passes is granted one (R91). -/
def execFrameGrant (s : State) : Host.Outcome State Fault Refusal := .next (settle (offerFrame s))

/-! ## Checkpoint start, triggers, commits, idle clock -/

/-- CHECKPOINT_START: a wanted checkpoint starts when a start is possible (R154, R155). -/
def execCheckpointStart (s : State) : Host.Outcome State Fault Refusal := .next (settle (startCheckpoint s))

/-- RECLAIM_TRIGGER_TEST: the triggers are tested in order and a job started for the first that yields one (R133). -/
def execReclaimTriggerTest (s : State) : Host.Outcome State Fault Refusal := .next (settle (testTriggers s))

/-- RECLAIM_COMMIT: the head frame of the commit queue has its moves committed (R142). -/
def execReclaimCommit (s : State) : Host.Outcome State Fault Refusal := .next (settle (commitHead s))

/-- The idle clock expires (R134). -/
def expireIdleClock (s : State) : State :=
  if s.work.idleMigrate ≠ 0 ∧ s.ranFor s.rc.idleClock (s.work.idleMigrate * 1000) then
    { s with rc := { s.rc with idleExpired := true } }
  else s

/-- IDLE_CLOCK_EXPIRY: the idle clock has run IDLE_MIGRATE seconds (R134); an expiry that is not due has no effect
(log 2). -/
def execIdleClockExpiry (s : State) : Host.Outcome State Fault Refusal := .next (expireIdleClock s)

end Sys2Proof.Machine
end

