-- ==== Sys2Proof/Machine/Maintenance.lean ====
section
/-! DEFINITION. The maintenance port (chapter 12): transactions (R187, R188), the commands (R189), settings (R190, R191),
FORMAT (R175, R176), exceptions (R193) and the response layouts (section 13.5). -/

namespace Sys2Proof.Machine

/-! ## Transactions (R187, R188) -/

/-- The port's own target address (R187): 88 plus the value of ADDR1 and ADDR0. -/
def State.ownAddress (s : State) : Nat := 88 + (if s.straps.addr0 then 1 else 0) + (if s.straps.addr1 then 2 else 0)

/-- A command's response (R187): it replaces the previous one. -/
def respond (st : Status) (payload : List Byte) (s : State) : State :=
  { s with maint := { s.maint with status := st, payload := payload } }

/-- A write transaction that is received whole (R187): another address is not acknowledged and a busy port NACKs, both
without effect; otherwise the command is taken. -/
def take (addr : BitVec 7) (cmd : State → State) (s : State) : State :=
  if addr.toNat ≠ s.ownAddress ∨ s.maint.busy then s else cmd s

/-- A command whose payload is to have `len` bytes (R187, section 13.5). -/
def takeLen (w : MaintWrite) (len : Nat) (cmd : State → State) (s : State) : State :=
  take w.addr (fun s => if w.payload.length = len then cmd s else respond .badLength [] s) s

/-- The code of a response status (section 13.5). -/
def Status.code : Status → Nat
  | .none => 0x00
  | .busy => 0x01
  | .good => 0x02
  | .clamped => 0x03
  | .empty => 0x04
  | .malformed => 0x10
  | .unknownCommand => 0x11
  | .badLength => 0x12
  | .badArgument => 0x13
  | .wrongState => 0x14
  | .strapLow => 0x20
  | .requestsOpen => 0x21
  | .writeProtected => 0x22
  | .formatLimit => 0x23
  | .badGeometry => 0x24

/-- The response buffer (R188): the status byte, the length byte and the payload. -/
def State.response (s : State) : List Byte :=
  byte1 s.maint.status.code ++ byte1 s.maint.payload.length ++ s.maint.payload

/-- What a read transaction of n bytes returns (R188): the response buffer from its status byte on, and a zero byte for each
byte read past the payload. -/
def State.readTransaction (s : State) (n : Nat) : List Byte := (List.range n).map (fun k => s.response.getD k 0)

/-! ## Codes of the responses (section 13.5) -/

/-- The code of a service state. -/
def Service.code : Service → Nat
  | .recovering => 0
  | .ready => 1
  | .unformatted => 2
  | .formatting => 3
  | .halted => 4

/-- The code of an exception kind. -/
def ExcKind.code : ExcKind → Nat
  | .writeFault => 0x01
  | .supplyLate => 0x02
  | .dataLost => 0x03
  | .readFailed => 0x04
  | .moveFailed => 0x05
  | .mapPressure => 0x06
  | .bandRetired => 0x07
  | .portDown => 0x08
  | .writeHeldExpired => 0x09
  | .noVictim => 0x0A
  | .checkpointFailed => 0x0B
  | .recoveryTorn => 0x0C

/-- The code of a lane state. -/
def LaneState.code : LaneState → Nat
  | .closed => 0
  | .opened => 1
  | .waiting => 2
  | .faulted => 3

/-- The code of a hold cause. -/
def HoldCause.code : HoldCause → Nat
  | .protect => 1
  | .frame => 2
  | .place => 3
  | .credit => 4
  | .records => 5

/-- The code of a trigger. -/
def Trigger.code : Trigger → Nat
  | .urgent => 1
  | .map => 2
  | .cacheHigh => 3
  | .pressure => 4
  | .idle => 5

/-- One for true, zero for false. -/
def bit (b : Bool) : Nat := if b then 1 else 0

/-- The LCAP in force, 0 where no geometry is in force. -/
def State.lcap (s : State) : Nat := (s.geom.map (fun g => g.lcap)).getD 0

/-- The IDENTIFY response. -/
def State.identity (s : State) : List Byte :=
  leBytes 2 0x0420 ++ byte1 1 ++ byte1 s.service.code ++ leBytes 2 (s.epoch.getD 0) ++ leBytes 2 (s.highEpoch.getD 0) ++
  leBytes 8 s.lcap ++ leBytes 6 (s.seq.getD 0) ++
  byte1 (bit s.straps.addr0 + 2 * bit s.straps.addr1 + 4 * bit s.straps.fmtEn)

/-! ## Settings (R8, R190) -/

/-- The value a settings copy holds under a code (section 13.5). -/
def Settings.value (s : Settings) (code : Nat) : Option Nat :=
  let win := fun k => s.windows.getD k ⟨0, 0, 0, false⟩
  if code = 0x01 then some s.streamMin
  else if code = 0x02 then some s.idleLimit
  else if code = 0x03 then some s.laneRelease
  else if code = 0x04 then some s.holdLimit
  else if code = 0x05 then some s.blankLow
  else if code = 0x06 then some s.reserve
  else if code = 0x07 then some s.cacheHigh
  else if code = 0x08 then some s.cacheLow
  else if code = 0x09 then some s.ckSegments
  else if code = 0x0A then some s.idleMigrate
  else if code = 0x0B then some s.readAhead.code
  else if 0x10 ≤ code ∧ code < 0x18 then some (win (code - 0x10)).base
  else if 0x18 ≤ code ∧ code < 0x20 then some (win (code - 0x18)).mask
  else if 0x20 ≤ code ∧ code < 0x28 then some (win (code - 0x20)).lane
  else if 0x28 ≤ code ∧ code < 0x30 then some (bit (win (code - 0x28)).enabled)
  else none

/-- The value a geometry holds under a code (section 13.5). -/
def Geometry.value (g : Geometry) (code : Nat) : Option Nat :=
  if code = 0x30 then some g.spb
  else if code = 0x31 then some g.bpaA
  else if code = 0x32 then some g.bpaB
  else if code = 0x33 then some g.mcs
  else if code = 0x34 then some g.cks
  else if code = 0x35 then some g.lcap
  else none

/-- A numeric setting's range and step (R8, R190). -/
structure Range where
  low : Nat
  high : Nat
  step : Nat
deriving DecidableEq, Repr

/-- A value brought into range (R190): rounded down to a multiple of the step, then the nearest limit. -/
def Range.clamp (r : Range) (v : Nat) : Nat := max r.low (min r.high (v / r.step * r.step))

/-- The range of a numeric setting or geometry field (R8, R190); none for an enumerated one and for a code that names no
setting. -/
def rangeOf (code : Nat) : Option Range :=
  if code = 0x01 then some ⟨1, 256, 1⟩
  else if code = 0x02 then some ⟨10, 2550, 10⟩
  else if code = 0x03 then some ⟨1, 255, 1⟩
  else if code = 0x04 then some ⟨100, 25500, 100⟩
  else if code = 0x05 then some ⟨4, 255, 1⟩
  else if code = 0x06 then some ⟨1, 253, 1⟩
  else if code = 0x07 then some ⟨50, 95, 1⟩
  else if code = 0x08 then some ⟨10, 85, 1⟩
  else if code = 0x09 then some ⟨4096, 65536, 1⟩
  else if code = 0x0A then some ⟨0, 60, 1⟩
  else if 0x10 ≤ code ∧ code < 0x20 then some ⟨0, 1099511627775, 1⟩
  else if 0x20 ≤ code ∧ code < 0x28 then some ⟨0, 5, 1⟩
  else if code = 0x30 then some ⟨256, 4096, 256⟩
  else if code = 0x31 then some ⟨64, 65536, 1⟩
  else if code = 0x32 then some ⟨64, 65536, 1⟩
  else if code = 0x33 then some ⟨1024, 65536, 1⟩
  else if code = 0x34 then some ⟨256, 4096, 1⟩
  else if code = 0x35 then some ⟨1048576, 1099511627776, 1⟩
  else none

/-- A window of the settings changed. -/
def Settings.modWindow (s : Settings) (k : Nat) (f : Window → Window) : Settings :=
  { s with windows := s.windows.modify k f }

/-- A settings copy with a numeric value written under its code. -/
def Settings.write (s : Settings) (code v : Nat) : Settings :=
  if code = 0x01 then { s with streamMin := v }
  else if code = 0x02 then { s with idleLimit := v }
  else if code = 0x03 then { s with laneRelease := v }
  else if code = 0x04 then { s with holdLimit := v }
  else if code = 0x05 then { s with blankLow := v }
  else if code = 0x06 then { s with reserve := v }
  else if code = 0x07 then { s with cacheHigh := v }
  else if code = 0x08 then { s with cacheLow := v }
  else if code = 0x09 then { s with ckSegments := v }
  else if code = 0x0A then { s with idleMigrate := v }
  else if 0x10 ≤ code ∧ code < 0x18 then s.modWindow (code - 0x10) (fun w => { w with base := v })
  else if 0x18 ≤ code ∧ code < 0x20 then s.modWindow (code - 0x18) (fun w => { w with mask := v })
  else if 0x20 ≤ code ∧ code < 0x28 then s.modWindow (code - 0x20) (fun w => { w with lane := v })
  else s

/-- A geometry with a field written under its code. -/
def Geometry.write (g : Geometry) (code v : Nat) : Geometry :=
  if code = 0x30 then { g with spb := v }
  else if code = 0x31 then { g with bpaA := v }
  else if code = 0x32 then { g with bpaB := v }
  else if code = 0x33 then { g with mcs := v }
  else if code = 0x34 then { g with cks := v }
  else if code = 0x35 then { g with lcap := v }
  else g

/-- The state with the pending settings changed. -/
def State.modPend (s : State) (f : Settings → Settings) : State :=
  { s with maint := { s.maint with pend := f s.maint.pend } }

/-- SET_SETTING's effect (R8, R190, R194): a numeric value is brought into range, an enumerated value outside its list is
BAD_ARGUMENT. -/
def writeSetting (code v : Nat) (s : State) : State :=
  match rangeOf code with
  | some r =>
    let c := r.clamp v
    let s := if 0x30 ≤ code then { s with pendGeom := s.pendGeom.write code c } else s.modPend (fun p => p.write code c)
    respond (if c = v then .good else .clamped) [] s
  | none =>
    if code = 0x0B then
      match readAheadOf v with
      | some m => respond .good [] (s.modPend (fun p => { p with readAhead := m }))
      | none => respond .badArgument [] s
    else if 0x28 ≤ code ∧ code < 0x30 ∧ v ≤ 1 then
      respond .good [] (s.modPend (fun p => p.modWindow (code - 0x28) (fun w => { w with enabled := decide (v = 1) })))
    else respond .badArgument [] s

/-- GET_SETTING's response (R190, R8): the pending value and the working value, or a geometry field's one value twice. -/
def State.settingBytes (s : State) (code : Nat) : Option (List Byte) :=
  match s.maint.pend.value code, s.maint.work.value code with
  | some p, some w => some (leBytes 8 p ++ leBytes 8 w)
  | _, _ => ((s.geom.getD s.pendGeom).value code).map (fun v => leBytes 8 v ++ leBytes 8 v)

/-! ## Commands on settings -/

/-- IDENTIFY (R189). -/
def execIdentify (w : MaintWrite) (s : State) : Host.Outcome State Fault Refusal :=
  .next (takeLen w 0 (fun s => respond .good s.identity s) s)

/-- GET_SETTING (R189, R190). -/
def execGetSetting (w : MaintWrite) (s : State) : Host.Outcome State Fault Refusal :=
  .next (takeLen w 1 (fun s =>
    match s.settingBytes (leNat (w.payload.take 1)) with
    | some bytes => respond .good bytes s
    | none => respond .badArgument [] s) s)

/-- SET_SETTING (R8, R189, R190). -/
def execSetSetting (w : MaintWrite) (s : State) : Host.Outcome State Fault Refusal :=
  .next (takeLen w 9 (fun s =>
    if s.service = .recovering then respond .wrongState [] s
    else writeSetting (leNat (w.payload.take 1)) (leNat (w.payload.drop 1)) s) s)

/-- The working settings after APPLY's two agreements (R191). -/
def Settings.agreed (p : Settings) : Settings :=
  { p with reserve := min p.reserve (p.blankLow - 2), cacheLow := min p.cacheLow (p.cacheHigh - 10) }

/-- The blocks that test working settings are informed (R96, R134, R154, R99, R130, R191). A hold timer that HOLD_LIMIT now
finds run out expires here, before the block at the gate is tested again, also where the same APPLY ends its hold cause
(log 33). -/
def informSettings (old : Settings) (s : State) : State :=
  let s := if s.geom.isSome ∧ s.service ≠ .recovering then
      evalLatch .B (evalLatch .A (evalBandPressure .B (evalBandPressure .A s)))
    else s
  let s := expireIdleClock s
  let s := if s.work.ckSegments < old.ckSegments ∧ s.work.ckSegments ≤ s.ck.dStart then requestCk s else s
  let s := if s.work.readAhead = .off then dropAheadWhere (fun _ => true) s else s
  match s.phase with
  | some p => if s.ranFor p.holdTimer s.work.holdLimit then expireHold s else s
  | none => s

/-- APPLY's effect (R191): the pending settings become the working ones, brought into agreement. -/
def applySettings (s : State) : State :=
  let p := s.maint.pend
  let old := s.work
  let s := { s with maint := { s.maint with work := p.agreed } }
  let s := informSettings old s
  respond (if p.agreed = p then .good else .clamped) [] s

/-- APPLY (R189, R191). -/
def execApply (w : MaintWrite) (s : State) : Host.Outcome State Fault Refusal :=
  .next (takeLen w 0 (fun s =>
    if s.service = .recovering then respond .wrongState [] s else settle (applySettings s)) s)

/-! ## FORMAT (R175, R176) -/

/-- The geometry FORMAT applies (R9): LCAP clamped to the capacity limit. -/
def State.appliedGeometry (s : State) : Geometry :=
  { s.pendGeom with lcap := min s.pendGeom.lcap (s.pendGeom.limit s.work.blankLow) }

/-- The first condition of R175 that fails, as its status. -/
def State.formatRefusal (s : State) : Option Status :=
  if s.straps.fmtEn = false then some .strapLow
  else if s.service = .recovering ∨ s.service = .formatting then some .wrongState
  else if s.tags.any Option.isSome ∨ s.intake ≠ [] then some .requestsOpen
  else if s.wprot then some .writeProtected
  else if Config.maxEpoch ≤ s.highEpoch.getD 0 then some .formatLimit
  else if s.pendGeom.limit s.work.blankLow < Config.minCapacity then some .badGeometry
  else none

/-- Whether the frame of an operation in flight is released only when its result arrives (R118, R149): the read server's
and the checkpoint writer's. -/
def Op.keepsFrame (o : Op) : Bool :=
  match o.req with
  | .read => true
  | .ckpt => true
  | .lane _ => false
  | .reclaim => false
  | .scanner => false

/-- A port at FORMAT (R102): its state is kept, its latches are cleared, and an operation in flight serves no one. -/
def Port.atFormat (p : Port) : Port :=
  { p with latches := List.replicate 10 false
           op := p.op.map (fun o => { o with live := false, releaseAtEnd := o.live && o.keepsFrame || o.releaseAtEnd }) }

/-- Whether frame `id` waits for the result of an operation in flight at FORMAT. -/
def Port.holdsFrame (p : Port) (id : Nat) : Bool :=
  match p.op with
  | some o => decide (o.frame = some id) && o.releaseAtEnd
  | none => false

/-- The frame pool at FORMAT (R65, R89, R118, R148, R149): every frame is FREE but those that a result in flight will
release, and no request waits. -/
def formatPool (s : State) (ports : Two Port) : Pool :=
  { frames := (List.range s.pool.frames.length).map (fun id =>
      if ports.a.holdsFrame id ∨ ports.b.holdsFrame id then s.frame id else Frame.free)
    waitMeta := [], waitReclaim := [], waitRead := [], waitWrite := [] }

/-- FORMAT's effect (R176). -/
def formatPart (s : State) : State :=
  let g := s.appliedGeometry
  let epoch := s.highEpoch.getD 0 + 1
  let ports : Two Port := ⟨s.ports.a.atFormat, s.ports.b.atFormat⟩
  let s := { s with
    geom := some g, pendGeom := g, epoch := some epoch, highEpoch := some epoch, seq := some 1, seqLimit := false,
    cleared := some 0, extents := [], earmarks := 0, mapPressure := false,
    bm := ⟨⟨List.replicate g.bpaA Band.blank, [], ⟨0, 0, 0, 0, []⟩⟩, ⟨List.replicate g.bpaB Band.blank, [], ⟨0, 0, 0, 0, []⟩⟩⟩,
    lanes := List.replicate 8 Lane.fresh, pool := formatPool s ports, credit := Two.both ⟨false, 0⟩, phase := none,
    ports := ports, rs := ReadServer.fresh,
    rc := { Reclaim.fresh with idleClock := s.rc.idleClock, idleExpired := s.rc.idleExpired },
    ck := { Ckpt.fresh with wanted := true, formatTries := some 0 }, recov := Recovery.off, service := .formatting }
  respond .good (leBytes 2 epoch ++ leBytes 8 g.lcap) (evalBandPressure .B (evalBandPressure .A s))

/-- FORMAT (R175, R176, R189). -/
def execFormat (w : MaintWrite) (s : State) : Host.Outcome State Fault Refusal :=
  .next (takeLen w 0 (fun s =>
    match s.formatRefusal with
    | some st => respond st [] s
    | none => settle (formatPart s)) s)

/-! ## CHECKPOINT, CLOSE_LANES, READ_EXCEPTION -/

/-- CHECKPOINT's effect (R154, R189): the command runs until the first checkpoint that starts from here on completes. -/
def runCheckpoint (s : State) : State :=
  requestCk { s with maint := { s.maint with busy := true, awaitStart := true, status := .busy, payload := [] } }

/-- CHECKPOINT (R154, R189). -/
def execCheckpoint (w : MaintWrite) (s : State) : Host.Outcome State Fault Refusal :=
  .next (takeLen w 0 (fun s => if s.service = .ready then runCheckpoint s else respond .wrongState [] s) s)

/-- CLOSE_LANES for one lane (R80). -/
def closeLane (s : State) (n : Nat) : State :=
  let current := (s.phase.map (fun p => p.lane)) = some n
  match (s.lane n).state with
  | .opened => if current then s.modLane n (fun c => { c with giveUpLater := true }) else giveUpLane n s
  | .waiting => s.modLane n (fun c => { c with giveUpLater := true })
  | .closed => s
  | .faulted => s

/-- The lanes of 0..6 that CLOSE_LANES concerns: those in OPEN or WAITING (R80). -/
def State.lanesToClose (s : State) : List Nat :=
  (List.range 7).filter (fun n => decide ((s.lane n).state = .opened) || decide ((s.lane n).state = .waiting))

/-- CLOSE_LANES (R80, R189): lanes 0..6 give up, in an order that is open. -/
def execCloseLanes (w : MaintWrite) (s : State) : Host.Outcome State Fault Refusal :=
  .next (takeLen w 0 (fun s =>
    if s.service = .ready then settle (respond .good [] (s.forAny s.lanesToClose closeLane))
    else respond .wrongState [] s) s)

/-- An exception record as READ_EXCEPTION returns it (section 13.5). -/
def Exc.bytes (e : Exc) (left : Nat) : List Byte :=
  byte1 e.kind.code ++ byte1 (actCode e.act) ++ byte1 e.occurrences ++ byte1 left ++ leBytes 6 e.firstSeen ++
  leBytes 5 e.detail1 ++ leBytes 3 e.detail2

/-- READ_EXCEPTION (R193). -/
def execReadException (w : MaintWrite) (s : State) : Host.Outcome State Fault Refusal :=
  .next (takeLen w 0 (fun s =>
    match s.exceptions with
    | e :: l => respond .good (e.bytes l.length) { s with exceptions := l }
    | [] => respond .empty [] s) s)

/-! ## Reports (R189, section 13.5) -/

/-- Whether BAND_CENSUS and BAND_REPORT are taken (R189). -/
def State.reportsBands (s : State) : Bool :=
  decide (s.service = .ready) || decide (s.service = .formatting) || (decide (s.service = .halted) && s.geom.isSome)

/-- The eight band states in the order of their codes. -/
def bandStates : List BandState := [.blank, .opened, .draining, .parked, .full, .cleaning, .evacuated, .retired]

/-- BAND_CENSUS's fields of one actuator. -/
def State.censusOf (s : State) (a : Actuator) : List Byte :=
  bandStates.flatMap (fun st => leBytes 4 (s.countIn a st)) ++ leBytes 4 (s.bm.get a).parked.length ++
  byte1 (bit (s.credit.get a).pressure) ++ leBytes 2 (s.credit.get a).q ++ byte1 ((s.ring a).fill s.mcs) ++
  byte1 (bit (s.port a).up) ++ byte1 (bit (s.port a).op.isSome)

/-- The BAND_CENSUS response. -/
def State.census (s : State) : List Byte :=
  s.censusOf .A ++ s.censusOf .B ++ leBytes 4 s.freeRecords ++ byte1 (bit s.mapPressure) ++ leBytes 4 s.ckFree ++
  byte1 (bit s.ck.run.isSome) ++ leBytes 4 s.ck.pendingBlank.length ++ byte1 s.service.code

/-- BAND_CENSUS (R189). -/
def execBandCensus (w : MaintWrite) (s : State) : Host.Outcome State Fault Refusal :=
  .next (takeLen w 0 (fun s => if s.reportsBands then respond .good s.census s else respond .wrongState [] s) s)

/-- Milliseconds since a time, saturating at 2^32 − 1; 0 when absent. -/
def State.since (s : State) (t : Option Nat) : Nat :=
  match t with
  | some t => min (s.now - t) Config.max32
  | none => 0

/-- The hold fields of LANE_REPORT: for the lane of the current data phase. -/
def State.holdBytes (s : State) (n : Nat) : List Byte :=
  match s.phase with
  | some p =>
    match p.hold with
    | some c => if p.lane = n then byte1 c.code ++ leBytes 4 (s.since p.holdTimer) else byte1 0 ++ leBytes 4 0
    | none => byte1 0 ++ leBytes 4 0
  | none => byte1 0 ++ leBytes 4 0

/-- The job fields of LANE_REPORT for lane 7 (R131); a job paused for both reports PORT (log 6), and a cache job that has
begun no pass reports 0 for its first pass segment and its pass number (log 48). -/
def State.jobBytes (s : State) : List Byte :=
  match s.rc.job with
  | none => byte1 0 ++ byte1 0 ++ byte1 0xFF ++ List.replicate 29 0
  | some j =>
    byte1 (if j.victim.isSome then 1 else 2) ++ byte1 j.trigger.code ++ byte1 (actCode j.act) ++
    leBytes 8 (match j.victim with
      | some v => v
      | none => ((j.segs.head?).map (fun x => x.1)).getD 0) ++
    byte1 (if j.pausePort then 1 else if j.pauseProtect then 2 else 0) ++ leBytes 4 j.pass ++
    leBytes 4 j.committed ++ leBytes 4 j.dead ++ leBytes 4 j.lost ++ leBytes 4 j.returned

/-- The LANE_REPORT response. -/
def State.laneBytes (s : State) (n : Nat) : List Byte :=
  let c := s.lane n
  let frame := c.openFrame.map s.frame
  byte1 c.state.code ++ byte1 ((c.act.map actCode).getD 0xFF) ++ leBytes 2 (c.band.getD 0xFFFF) ++
  byte1 ((frame.map (fun f => f.fill)).getD 0xFF) ++ byte1 ((frame.map (fun f => f.runs.length)).getD 0) ++
  leBytes 5 (c.nextLba.getD 0) ++ leBytes 4 (s.since c.lastAccept) ++
  byte1 (bit c.idleTimer.isSome + 2 * bit c.releaseTimer.isSome) ++ leBytes 4 c.rebind.length ++
  leBytes 4 c.queues.a.length ++ leBytes 4 c.queues.b.length ++ s.holdBytes n ++
  (if n = 7 then s.jobBytes else List.replicate 32 0)

/-- LANE_REPORT (R189). -/
def execLaneReport (w : MaintWrite) (s : State) : Host.Outcome State Fault Refusal :=
  .next (takeLen w 1 (fun s =>
    let n := leNat (w.payload.take 1)
    if s.service = .recovering then respond .wrongState [] s
    else if 7 < n then respond .badArgument [] s
    else respond .good (s.laneBytes n) s) s)

/-- The BAND_REPORT response (section 13.5); widths that the layout leaves open are those of log 13. -/
def Band.reportBytes (b : Nat) (r : Band) : List Byte :=
  leBytes 2 b ++
  bandRecordBytes r.state r.health r.written r.valid r.extents
    (match r.state with
     | .full => r.closeSeq.getD 0
     | .cleaning => r.closeSeq.getD 0
     | .evacuated => r.evacSeq.getD 0
     | .blank => 0
     | .opened => 0
     | .draining => 0
     | .parked => 0
     | .retired => 0) ++
  leBytes 2 r.reserved ++ leBytes 4 r.bound ++ leBytes 4 r.readPins ++ byte1 (r.owner.getD 0xFF) ++
  leBytes 4 (r.validAtSel.getD 0)

/-- BAND_REPORT (R189, R194). -/
def execBandReport (w : MaintWrite) (s : State) : Host.Outcome State Fault Refusal :=
  .next (takeLen w 3 (fun s =>
    if s.reportsBands = false then respond .wrongState [] s
    else
      match actuatorOf (leNat (w.payload.take 1)) with
      | none => respond .badArgument [] s
      | some a =>
        let b := leNat (w.payload.drop 1)
        if b < s.bpa a then respond .good ((s.bandRec a b).reportBytes b) s else respond .badArgument [] s) s)

/-! ## Transactions that take no command -/

/-- UNKNOWN_COMMAND: a command byte of no known command (R187). -/
def execUnknownCommand (w : MaintWrite) (_code : Byte) (s : State) : Host.Outcome State Fault Refusal :=
  .next (take w.addr (respond .unknownCommand []) s)

/-- MALFORMED: a write that ended early or whose length byte was above 32 (R187). -/
def execMalformed (addr : BitVec 7) (_how : BadWrite) (s : State) : Host.Outcome State Fault Refusal :=
  .next (take addr (respond .malformed []) s)

/-- PORT_BUSY_NACK: a write while a command is running is NACKed and changes nothing (R187). -/
def execPortBusyNack (_addr : BitVec 7) (s : State) : Host.Outcome State Fault Refusal := .next s

end Sys2Proof.Machine
end

