-- ==== Sys2Proof/Machine/Resets.lean ====
section
/-! DEFINITION. Power-on, RESET_N and RESET_DEVICE (R163). -/

namespace Sys2Proof.Machine

/-- The state right after a device reset (R163), with the commands that still wait for the part. -/
def resetPart (straps : Straps) (wprot : Bool) (s : State) : State :=
  { State.afterReset straps wprot with pending := s.pending }

/-- The state while RESET_N is asserted (R163): as after a reset, with the straps last sampled, the recovery scanner
waiting for the reset's end. -/
def holdReset (s : State) : State :=
  { resetPart s.straps s.wprot s with resetN := true, gate := false, recov := Recovery.held }

/-- The end of RESET_N (R116, R163): the straps are sampled, the gate takes the level of WPROT, the sequence limit being
off until recovery sets SEQ, and the recovery scanner starts. -/
def endReset (straps : Straps) (s : State) : State :=
  { s with resetN := false, straps := straps, gate := s.wprot, seqLimit := false, recov := Recovery.start }

/-- POWER_ON (R163). -/
def execPowerOn (straps : Straps) (wprot : Bool) (s : State) : Host.Outcome State Fault Refusal :=
  .next (resetPart straps wprot s)

/-- RESET_N: RESET_N is asserted (R163). -/
def execResetN (s : State) : Host.Outcome State Fault Refusal := .next (holdReset s)

/-- RESET_N_DEASSERTED (R163): without an assertion before it nothing happens. -/
def execResetNDeasserted (straps : Straps) (s : State) : Host.Outcome State Fault Refusal :=
  .next (if s.resetN then endReset straps s else s)

/-- RESET_DEVICE (R163, R189): the reset leaves the response buffer holding NONE; the strap levels are those found at the
end of the reset. -/
def execResetDevice (w : MaintWrite) (straps : Straps) (s : State) : Host.Outcome State Fault Refusal :=
  .next (takeLen w 0 (fun s => if s.resetN then holdReset s else resetPart straps s.wprot s) s)

end Sys2Proof.Machine
end

