-- ==== Sys2Proof/Machine/Dispatch.lean ====
section
/-! DEFINITION. The meaning of every command: one direct call of its definition each. -/

namespace Sys2Proof.Machine

/-- A command's effect on everything but the queue. -/
def exec (i : Instr) (s : State) : Host.Outcome State Fault Refusal :=
  match i with
  | .powerOn straps wprot => Sys2Proof.Machine.execPowerOn straps wprot s
  | .resetN => Sys2Proof.Machine.execResetN s
  | .wprotAsserted => Sys2Proof.Machine.execWprotAsserted s
  | .wprotDeasserted => Sys2Proof.Machine.execWprotDeasserted s
  | .frontLinkReset => Sys2Proof.Machine.execFrontLinkReset s
  | .read tag lba count => Sys2Proof.Machine.execRead tag lba count s
  | .write tag lba count flags => Sys2Proof.Machine.execWrite tag lba count flags s
  | .release tag lba count => Sys2Proof.Machine.execRelease tag lba count s
  | .flush tag => Sys2Proof.Machine.execFlush tag s
  | .unknownMessage kind => Sys2Proof.Machine.execUnknownMessage kind s
  | .writeData tag data => Sys2Proof.Machine.execWriteData tag data s
  | .dataPhaseStart => Sys2Proof.Machine.execDataPhaseStart s
  | .dataPull => Sys2Proof.Machine.execDataPull s
  | .releaseAcceptance => Sys2Proof.Machine.execReleaseAcceptance s
  | .flushAcceptance => Sys2Proof.Machine.execFlushAcceptance s
  | .frameGrant => Sys2Proof.Machine.execFrameGrant s
  | .readDataDelivery tag => Sys2Proof.Machine.execReadDataDelivery tag s
  | .arbiterRun port => Sys2Proof.Machine.execArbiterRun port s
  | .segmentWriteResult port issue result => Sys2Proof.Machine.execSegmentWriteResult port issue result s
  | .segmentReadResult port issue result => Sys2Proof.Machine.execSegmentReadResult port issue result s
  | .stampScanResult port issue result => Sys2Proof.Machine.execStampScanResult port issue result s
  | .checkpointStart => Sys2Proof.Machine.execCheckpointStart s
  | .reclaimTriggerTest => Sys2Proof.Machine.execReclaimTriggerTest s
  | .reclaimCommit => Sys2Proof.Machine.execReclaimCommit s
  | .portDown port => Sys2Proof.Machine.execPortDown port s
  | .portUp port => Sys2Proof.Machine.execPortUp port s
  | .responseTimerExpiry port => Sys2Proof.Machine.execResponseTimerExpiry port s
  | .idleTimerExpiry lane => Sys2Proof.Machine.execIdleTimerExpiry lane s
  | .releaseTimerExpiry lane => Sys2Proof.Machine.execReleaseTimerExpiry lane s
  | .holdTimerExpiry => Sys2Proof.Machine.execHoldTimerExpiry s
  | .portWaitExpiry tag => Sys2Proof.Machine.execPortWaitExpiry tag s
  | .idleClockExpiry => Sys2Proof.Machine.execIdleClockExpiry s
  | .identify w => Sys2Proof.Machine.execIdentify w s
  | .getSetting w => Sys2Proof.Machine.execGetSetting w s
  | .setSetting w => Sys2Proof.Machine.execSetSetting w s
  | .apply w => Sys2Proof.Machine.execApply w s
  | .format w => Sys2Proof.Machine.execFormat w s
  | .checkpoint w => Sys2Proof.Machine.execCheckpoint w s
  | .closeLanes w => Sys2Proof.Machine.execCloseLanes w s
  | .readException w => Sys2Proof.Machine.execReadException w s
  | .bandCensus w => Sys2Proof.Machine.execBandCensus w s
  | .laneReport w => Sys2Proof.Machine.execLaneReport w s
  | .bandReport w => Sys2Proof.Machine.execBandReport w s
  | .resetDevice w straps => Sys2Proof.Machine.execResetDevice w straps s
  | .unknownCommand w code => Sys2Proof.Machine.execUnknownCommand w code s
  | .malformed addr how => Sys2Proof.Machine.execMalformed addr how s
  | .portBusyNack addr => Sys2Proof.Machine.execPortBusyNack addr s
  | .resetNDeasserted straps => Sys2Proof.Machine.execResetNDeasserted straps s

end Sys2Proof.Machine
end

