-- ==== Sys2Proof/Safety.lean ====
section
/-! DEFINITION. What holds of a sound state of the SP420: the invariants that the rules of spec/ give its tables, and
the notions that claims about whole commands are stated in. -/

namespace Sys2Proof.Machine

/-! ## Invariants -/

/-- The exception list (R192): one record for each kind and actuator, each with 1 to 255 occurrences. -/
def ExceptionsOk (l : List Exc) : Prop :=
  (l.map (fun e => (e.kind, e.act))).Nodup ∧ ∀ e ∈ l, 1 ≤ e.occurrences ∧ e.occurrences ≤ 255

/-- The tables have the sizes the part has: 8 lanes (R64), 64 tags (R177), 256 frames (R88). -/
def SizesOk (s : State) : Prop :=
  s.lanes.length = 8 ∧ s.tags.length = 64 ∧ s.pool.frames.length = 256

/-- No class of frames is above its cap (R90), and every request waits in the queue of its class (R91). -/
def PoolOk (p : Pool) : Prop :=
  (∀ c : FrameClass, p.held c ≤ c.cap) ∧ ∀ c : FrameClass, ∀ r ∈ p.queue c, r.cls = c

/-- A port's record: an issue number of 16 bits (R103) and ten latches (R111). -/
def PortOk (p : Port) : Prop := p.issue < 65536 ∧ p.latches.length = 10

/-- The pull window (R93) and the earmarks (R21): the blocks pulled are the blocks accepted and those of the pulls not
yet answered, at most 16 of them, and each of these has its earmark; without a data phase nothing is earmarked. -/
def PullsOk (s : State) : Prop :=
  match s.phase with
  | none => s.earmarks = 0
  | some p =>
    s.earmarks = p.unanswered.length ∧ p.next = p.accepted + p.unanswered.length ∧ p.next ≤ p.count ∧
    p.unanswered.length ≤ Config.pullWindow

/-- The write-protect gate has its level (R116): asserted while WPROT is asserted or the sequence limit holds. While
RESET_N is asserted the gate waits for the end of the reset. -/
def GateOk (s : State) : Prop := s.resetN = false → s.gate = (s.wprot || s.seqLimit)

/-- The extent table (R17): records of 1 to 65,536 blocks in ascending order of LBA, none overlapping another. -/
def TableOk (t : List Extent) : Prop :=
  t.Pairwise (fun e f => e.stop ≤ f.start) ∧ ∀ e ∈ t, 1 ≤ e.len ∧ e.len ≤ Config.maxExtent

/-- The extent table's records with those that its earmarks keep back stay within its capacity (R17, R21). -/
def RecordsOk (s : State) : Prop := s.extents.length + 2 * s.earmarks ≤ Config.mapCapacity

/-- Both ports' records. -/
def PortsOk (s : State) : Prop := PortOk s.ports.a ∧ PortOk s.ports.b

/-- The cache rings (R57): free_head ≤ free target ≤ migrate_head ≤ tail, and no more than MCS segments from free_head
to tail; a running checkpoint captured a migrate_head no higher than the present one (R63). -/
def RingsOk (s : State) : Prop :=
  ∀ a : Actuator,
    (s.ring a).freeHead ≤ (s.ring a).freeTarget ∧ (s.ring a).freeTarget ≤ (s.ring a).migrateHead ∧
    (s.ring a).migrateHead ≤ (s.ring a).tail ∧ (s.ring a).tail - (s.ring a).freeHead ≤ s.mcs ∧
    ∀ r, s.ck.run = some r → (r.captured.get a).migrateHead ≤ (s.ring a).migrateHead

/-- Nothing is at work in the part but its recovery: no request, no frame, no lane, no READ, no job, no checkpoint and no
operation (R163). -/
def State.idle (s : State) : Prop :=
  s.service = .recovering ∧ s.phase = none ∧ s.intake = [] ∧ s.tags = List.replicate 64 none ∧
  s.lanes = List.replicate 8 Lane.fresh ∧ s.pool = Pool.fresh ∧ s.rs.reads = [] ∧ s.rs.entries = [] ∧ s.rc.job = none ∧
  s.rc.sources = [] ∧ s.rc.commitQ = [] ∧ s.ck = Ckpt.fresh ∧ ∀ a, (s.port a).op = none

/-- While RESET_N is asserted (R163, log 26): the scanner waits for the reset's end, the tables are empty, and nothing is
at work. -/
def HeldOk (s : State) : Prop := s.resetN = true → s.recov = Recovery.held ∧ s.extents = [] ∧ s.idle

/-- The counters a close captured are those of two rings of its geometry (R57, R63): no more than MCS segments from
migrate_head to tail. -/
def CloseInfo.Sound (c : CloseInfo) : Prop :=
  ∀ a, (c.captured.get a).migrateHead ≤ (c.captured.get a).tail ∧
    (c.captured.get a).tail - (c.captured.get a).migrateHead ≤ c.geom.mcs

/-- The scanner while a recovery runs (R163, R166, R169): the part is RECOVERING and no checkpoint runs; the geometry in
force is that of the chosen close; and once the scans have begun, each derived tail, and each collection stretch still to
be scanned, lies between the captured migrate_head and MCS segments past it. -/
def ScansOk (s : State) : Prop :=
  s.recov ≠ Recovery.off → s.service = .recovering ∧ s.ck.run = none ∧
    ∀ c, s.recov.chosen = some c → s.geom = some c.geom ∧
      (c.Sound → (s.recov.phase = .scans ∨ s.recov.phase = .round) → ∀ a,
        let head := (c.captured.get a).migrateHead
        (head ≤ s.recov.derivedTail.get a ∧ s.recov.derivedTail.get a ≤ head + c.geom.mcs) ∧
        ∀ w ∈ s.recov.work.get a, ∀ ctr left, w.task = .collect ctr left →
          head ≤ ctr ∧ ctr + left ≤ head + c.geom.mcs)

/-! ## Notions of claims -/

/-- Nothing but the port waits follows a command at this state: the gate has its level, no lane is in WAITING or
FAULTED, and no reclaim job stands. -/
def State.calm (s : State) : Prop := s.gate = s.gateLevel ∧ s.stuckLanes = [] ∧ s.rc.job = none

/-- Nothing at all follows a command at this state: it is calm, and no READ is active. -/
def State.quiet (s : State) : Prop := s.calm ∧ s.rs.reads = []

/-- No lane is FAULTED: no rebind list waits, so nothing that follows a command changes the extent map. -/
def State.unfaulted (s : State) : Prop := ∀ n < 8, (s.lane n).state ≠ .faulted

/-- The commands that reset the part (R163). -/
def Resets (c : Instr) : Prop :=
  (∃ straps wprot, c = .powerOn straps wprot) ∨ c = .resetN ∨ (∃ straps, c = .resetNDeasserted straps) ∨
  ∃ w straps, c = .resetDevice w straps

/-- What R163 and the reset rules of the chapters give the part after a reset: R8, R14, R16, R20, R42, R65, R89, R96,
R97, R102, R118, R131, R149, R177, R188, R190 and R192. -/
def State.freshlyReset (s : State) (straps : Straps) (wprot : Bool) : Prop :=
  (s.service = .recovering ∧ s.straps = straps ∧ s.wprot = wprot ∧ s.gate = wprot ∧ s.resetN = false) ∧
  (s.geom = none ∧ s.pendGeom = ⟨4096, 40960, 40960, 16384, 1024, 2 ^ 40⟩ ∧ s.seq = none ∧ s.seqLimit = false ∧
    s.epoch = none ∧ s.highEpoch = none ∧ s.cleared = none) ∧
  (s.extents = [] ∧ s.earmarks = 0 ∧ s.mapPressure = false ∧ s.bm.a.bands = [] ∧ s.bm.b.bands = [] ∧
    s.bm.a.parked = [] ∧ s.bm.b.parked = []) ∧
  (s.lanes.length = 8 ∧ (∀ c ∈ s.lanes, c.state = .closed ∧ c.act = none ∧ c.band = none ∧ c.openFrame = none ∧
    c.nextLba = none ∧ c.idleTimer = none ∧ c.releaseTimer = none ∧ c.rebind = [] ∧ c.queues = ⟨[], []⟩)) ∧
  (s.pool.frames.length = 256 ∧ (∀ f ∈ s.pool.frames, f.state = .free ∧ f.pins = 0) ∧ s.pool.waitMeta = [] ∧
    s.pool.waitReclaim = [] ∧ s.pool.waitRead = [] ∧ s.pool.waitWrite = [] ∧ s.credit = ⟨⟨false, 0⟩, ⟨false, 0⟩⟩ ∧
    s.phase = none) ∧
  (∀ a, (s.port a).up = false ∧ (s.port a).op = none ∧ (s.port a).issue = 0 ∧ (s.port a).timer = none ∧
    (s.port a).latches = List.replicate 10 false) ∧
  (s.rs.reads = [] ∧ s.rs.entries = [] ∧ s.rc.job = none ∧ s.rc.sources = [] ∧ s.rc.commitQ = []) ∧
  (s.ck.batch = [] ∧ s.ck.notice = none ∧ s.ck.queue = [] ∧ s.ck.run = none ∧ s.ck.wanted = false ∧
    s.ck.pendingBlank = []) ∧
  (s.tags = List.replicate 64 none ∧ s.intake = [] ∧ s.exceptions = [] ∧ s.maint.busy = false ∧
    s.maint.status = .none ∧ s.maint.payload = [] ∧ s.maint.pend = s.maint.work ∧
    s.maint.work = ⟨64, 200, 30, 5000, 16, 4, 75, 40, 32768, 5, .continuous, List.replicate 8 ⟨0, 0, 0, false⟩⟩)

/-- The front requests: the tag and what an arriving command asks (section 11.1). A FLUSH's LBA and count are ignored
(R195), and bit 0 of a WRITE's flags is DURABLE (section 13.4). -/
inductive Requests : Instr → Nat → Arrival → Prop where
  | read (tag : Byte) (lba : BitVec 40) (count : BitVec 24) :
      Requests (.read tag lba count) tag.toNat ⟨.read, lba.toNat, count.toNat, false⟩
  | write (tag : Byte) (lba : BitVec 40) (count : BitVec 24) (flags : Byte) :
      Requests (.write tag lba count flags) tag.toNat ⟨.write, lba.toNat, count.toNat, flags.getLsbD 0⟩
  | release (tag : Byte) (lba : BitVec 40) (count : BitVec 24) :
      Requests (.release tag lba count) tag.toNat ⟨.release, lba.toNat, count.toNat, false⟩
  | flush (tag : Byte) : Requests (.flush tag) tag.toNat ⟨.flush, 0, 0, false⟩

/-- The count and range check of R178: a READ or WRITE has 1 to 256 blocks, a RELEASE 1 to 65,536, and the range ends
at or below LCAP. -/
def State.fits (s : State) (r : Arrival) : Prop :=
  r.kind = .flush ∨
  (1 ≤ r.count ∧ r.count ≤ (if r.kind = .release then 65536 else 256) ∧ ∃ g, s.geom = some g ∧ r.lba + r.count ≤ g.lcap)

/-- The arrival checks of R178 and R195 all pass. -/
def State.admits (s : State) (tag : Nat) (r : Arrival) : Prop :=
  tag ≤ 63 ∧ s.tag tag = none ∧ s.service = .ready ∧ s.fits r ∧ ((r.kind = .write ∨ r.kind = .release) → s.gate = false)

/-- The state as an arriving request finds it: the idle clock has restarted (R134, R178). -/
def State.arrived (s : State) : State := { s with rc := { s.rc with idleClock := some s.now, idleExpired := false } }

/-- The maintenance transactions with the target address they are sent to (R187). -/
inductive SentTo : Instr → BitVec 7 → Prop where
  | identify (w : MaintWrite) : SentTo (.identify w) w.addr
  | getSetting (w : MaintWrite) : SentTo (.getSetting w) w.addr
  | setSetting (w : MaintWrite) : SentTo (.setSetting w) w.addr
  | apply (w : MaintWrite) : SentTo (.apply w) w.addr
  | format (w : MaintWrite) : SentTo (.format w) w.addr
  | checkpoint (w : MaintWrite) : SentTo (.checkpoint w) w.addr
  | closeLanes (w : MaintWrite) : SentTo (.closeLanes w) w.addr
  | readException (w : MaintWrite) : SentTo (.readException w) w.addr
  | bandCensus (w : MaintWrite) : SentTo (.bandCensus w) w.addr
  | laneReport (w : MaintWrite) : SentTo (.laneReport w) w.addr
  | bandReport (w : MaintWrite) : SentTo (.bandReport w) w.addr
  | resetDevice (w : MaintWrite) (straps : Straps) : SentTo (.resetDevice w straps) w.addr
  | unknownCommand (w : MaintWrite) (code : Byte) : SentTo (.unknownCommand w code) w.addr
  | malformed (addr : BitVec 7) (how : BadWrite) : SentTo (.malformed addr how) addr

/-- The commands of section 13.5 with the payload length each takes. -/
inductive Takes : Instr → MaintWrite → Nat → Prop where
  | identify (w : MaintWrite) : Takes (.identify w) w 0
  | getSetting (w : MaintWrite) : Takes (.getSetting w) w 1
  | setSetting (w : MaintWrite) : Takes (.setSetting w) w 9
  | apply (w : MaintWrite) : Takes (.apply w) w 0
  | format (w : MaintWrite) : Takes (.format w) w 0
  | checkpoint (w : MaintWrite) : Takes (.checkpoint w) w 0
  | closeLanes (w : MaintWrite) : Takes (.closeLanes w) w 0
  | readException (w : MaintWrite) : Takes (.readException w) w 0
  | bandCensus (w : MaintWrite) : Takes (.bandCensus w) w 0
  | laneReport (w : MaintWrite) : Takes (.laneReport w) w 1
  | bandReport (w : MaintWrite) : Takes (.bandReport w) w 3
  | resetDevice (w : MaintWrite) (straps : Straps) : Takes (.resetDevice w straps) w 0

/-- A write that the maintenance port receives: sent to its own address, 88 plus the value of the ADDR straps, while no
command runs (R187). -/
def State.hears (s : State) (addr : BitVec 7) : Prop :=
  addr.toNat = 88 + s.straps.addr0.toNat + 2 * s.straps.addr1.toNat ∧ s.maint.busy = false

/-- The state with a response in the buffer (R188). -/
def State.answered (s : State) (st : Status) (payload : List Byte) : State :=
  { s with maint := { s.maint with status := st, payload := payload } }

/-- The part is ready to take front work: READY, the gate deasserted. -/
def State.serves (s : State) : Prop := s.service = .ready ∧ s.gate = false

/-- The operation in flight at port a that a result with this issue number ends (R103), issued for a requester that
still stands. -/
def State.awaits (s : State) (a : Actuator) (issue : BitVec 16) (o : Op) : Prop :=
  (s.port a).op = some o ∧ o.issue = issue.toNat ∧ o.live = true

/-- What becomes of band b of actuator a when the lane that owns it gives it up (R46): it loses its owner, and is DRAINING while
frames are bound in it, or else PARKED at the tail of its actuator's list. -/
def State.bandGivenUp (s t : State) (a : Actuator) (b : Nat) : Prop :=
  let r := s.bandRec a b
  t.bandRec a b = { r with state := if r.bound = 0 then .parked else .draining, owner := none } ∧
  (t.bm.get a).parked = (s.bm.get a).parked ++ (if r.bound = 0 then [b] else [])

/-- Lane n owns band b of actuator a and appends to it (R41, R43). -/
def State.appends (s : State) (n : Nat) (a : Actuator) (b : Nat) : Prop :=
  (s.lane n).act = some a ∧ (s.lane n).band = some b ∧ b < (s.bm.get a).bands.length ∧
  (s.bandRec a b).state = .opened ∧ (s.bandRec a b).owner = some n

/-- A location that the fields of section 13.1 can carry: its indices in two bytes, its slot below 16, and band index 0 in
a ring. -/
def Loc.Fits (l : Loc) : Prop :=
  l.slot < 16 ∧ l.segment.seg < 65536 ∧ l.segment.band < 65536 ∧ (l.segment.region ≠ .band → l.segment.band = 0)

/-- A stamp as the part builds it (R10, R11): its fields in their widths; a DATA or RELOC stamp with at most eight runs of
1 to 16 blocks below LCAP that cover its filled slots from slot 0 on, a source for each run of a RELOC stamp and for no
other, and its void mask inside them; a stamp of another kind with none of these. -/
def StampOk (g : Geometry) (t : Stamp) : Prop :=
  t.epoch < 2 ^ 16 ∧ t.seq < 2 ^ 48 ∧ t.lane < 256 ∧ t.filled < 256 ∧ t.own.valid (some g) = true ∧ (t.own.at 0).Fits ∧
  if t.kind = .data ∨ t.kind = .reloc then
    t.runs.length ≤ 8 ∧ t.filled ≤ 16 ∧ t.void.toNat < 2 ^ t.filled ∧
    (∀ k r, t.runs[k]? = some r → r.first = ((t.runs.take k).map (fun x => x.len)).sum) ∧
    (t.runs.map (fun x => x.len)).sum = t.filled ∧
    ∀ r ∈ t.runs, 1 ≤ r.len ∧ r.len ≤ 16 ∧ r.start < 2 ^ 40 ∧ r.start + r.len ≤ g.lcap ∧
      (t.kind = .data → r.source = none) ∧
      (t.kind = .reloc → ∃ l, r.source = some l ∧ l.Fits ∧ l.valid (some g) = true ∧ l.segment.region ≠ .ckring ∧
        l.reaches (r.len - 1) (some g) = true)
  else t.runs = [] ∧ t.lane = 0 ∧ t.void = 0

/-- A record (R192) of an exception kind under an actuator with these details stands in the list. -/
def State.reports (s : State) (k : ExcKind) (a : Actuator) (d1 d2 : Nat) : Prop :=
  ∃ e ∈ s.exceptions, e.kind = k ∧ e.act = a ∧ e.detail1 = d1 ∧ e.detail2 = d2

/-- The records of a band counted in an extent table (R18, R33): the blocks, and the records. -/
def homeBlocks (t : List Extent) (a : Actuator) (b : Nat) : Nat :=
  ((t.filter (fun e => decide (e.home = some (a, b)))).map (fun e => e.len)).sum

@[inherit_doc homeBlocks]
def homeRecords (t : List Extent) (a : Actuator) (b : Nat) : Nat :=
  (t.filter (fun e => decide (e.home = some (a, b)))).length

/-- Every band's counters agree with the extent table (R33). -/
def CountsOk (s : State) : Prop :=
  ∀ a b, b < (s.bm.get a).bands.length →
    (s.bandRec a b).valid = homeBlocks s.extents a b ∧ (s.bandRec a b).extents = homeRecords s.extents a b

end Sys2Proof.Machine
end

