-- ==== Sys2Proof/Certificates/Slice0/Obligations.lean ====
section
/-! DEFINITION. The statements for the provers. Each formalises rules of spec/, named in its docstring; a clause that
rests on a choice of the model names the log entry. `settle` stands for what follows a command within the same event
(R43, R86, R116, R125, R138 to R147); `Obligations.WhatFollowsIsBounded` says what it leaves alone, and that at a quiet
state it does nothing, so that a statement of the form `exec c s = .next (settle t)` gives the whole next state there. -/

open Sys2Proof Sys2Proof.Machine

/-! ## The machine as a whole -/

/-- A step runs the command at the front of the queue on the state with the queue's rest; with nothing waiting a
millisecond passes (the model's choice, log 2). -/
def Obligations.StepTakesFrontCommand : Prop :=
  (∀ (c : Instr) (rest : List Instr) (s : State), s.pending = c :: rest → step s = exec c { s with pending := rest }) ∧
  (∀ s : State, s.pending = [] → step s = .next { s with now := s.now + 1 })

/-- Every command has an effect: none ends in a fault or a refusal, none touches the commands that wait, and none but a
reset touches the clock, the sampled straps, RESET_N or a message already sent. That a command takes no time is the model's
choice (log 2). -/
def Obligations.EveryCommandAnswersNext : Prop :=
  ∀ (c : Instr) (s : State), ∃ t, exec c s = .next t ∧ t.pending = s.pending ∧
    (¬ Resets c → t.now = s.now ∧ t.straps = s.straps ∧ t.resetN = s.resetN ∧ s.frontOut <+: t.frontOut)

/-- What follows a command leaves the service state, the geometry, the epochs, the cleared sequence, the data phase with
its earmarks, the ports, the maintenance port, the scanner and the checkpoint's ring, queue, batch, notice and run alone;
at a calm state it only starts and stops port waits (R125), and at a quiet one it does nothing. That no turn, pull, grant,
arbiter run, trigger test or checkpoint start is part of it, each being a command, is the model's form (logs 1 and 3). -/
def Obligations.WhatFollowsIsBounded : Prop :=
  ∀ s : State,
    ((settle s).service = s.service ∧ (settle s).geom = s.geom ∧ (settle s).pendGeom = s.pendGeom ∧
      (settle s).epoch = s.epoch ∧ (settle s).highEpoch = s.highEpoch ∧ (settle s).cleared = s.cleared) ∧
    ((settle s).phase = s.phase ∧ (settle s).earmarks = s.earmarks ∧ (settle s).ports = s.ports ∧
      (settle s).maint = s.maint ∧ (settle s).recov = s.recov ∧ (settle s).wprot = s.wprot) ∧
    ((settle s).ck.ringStart = s.ck.ringStart ∧ (settle s).ck.ringTail = s.ck.ringTail ∧
      (settle s).ck.queue = s.ck.queue ∧ (settle s).ck.batch = s.ck.batch ∧ (settle s).ck.notice = s.ck.notice ∧
      (settle s).ck.run = s.ck.run) ∧
    (s.unfaulted → (settle s).extents = s.extents) ∧
    (s.calm → settle s = refreshWaits s) ∧ (s.quiet → settle s = s)

/-- The write-protect gate follows its level at every step: asserted while WPROT is asserted or the sequence limit holds
(R15, R116). -/
def Obligations.GateFollowsLevelAlways : Prop := ∀ s t : State, GateOk s → step s = .next t → GateOk t

/-- The pull window and the earmarks stay sound at every step (R21, R35, R93). -/
def Obligations.PullWindowAlways : Prop := ∀ s t : State, PullsOk s → step s = .next t → PullsOk t

/-- The exception list stays sound at every step, and so never holds more than 24 records (R192). -/
def Obligations.ExceptionListAlways : Prop :=
  (∀ s t : State, ExceptionsOk s.exceptions → step s = .next t → ExceptionsOk t.exceptions) ∧
  (∀ l : List Exc, ExceptionsOk l → l.length ≤ 24)

/-- The tables keep their sizes and the ports their records at every step (R64, R88, R103, R111, R177). -/
def Obligations.TableSizesAlways : Prop :=
  ∀ s t : State, SizesOk s → PortsOk s → step s = .next t → SizesOk t ∧ PortsOk t

/-- No class of frames rises above its cap, and each request waits in its class's queue, at every step (R90, R91). -/
def Obligations.PoolCapsAlways : Prop := ∀ s t : State, PoolOk s.pool → step s = .next t → PoolOk t.pool

/-- Outside recovery the extent table stays in order, without overlap and with lengths of 1 to 65,536, at every step; a
step that begins a recovery leaves it empty (R17, R20); and its records, with two for each earmark, stay within 262,144
(R17, R21). With it stands, as premise and conclusion, that while RESET_N is asserted the scanner is held, the table empty
and nothing at work (R163), which is the model's reading of that time (log 26). -/
def Obligations.ExtentTableOrderAlways : Prop :=
  ∀ s t : State, HeldOk s → step s = .next t →
    HeldOk t ∧ (s.recov = Recovery.off → TableOk s.extents →
      TableOk t.extents ∧ (t.recov = Recovery.off ∨ t.extents = []) ∧
      (s.extents.length + 2 * s.earmarks ≤ 262144 → RecordsOk t ∧ t.extents.length + 2 * t.earmarks ≤ 262144))

/-- Outside recovery the counters of both cache rings stay in order, and no ring holds more than MCS segments, at every
step (R57); with them stands that a running checkpoint captured no more than migrate_head (R63). -/
def Obligations.RingCountersAlways : Prop :=
  ∀ s t : State, s.recov = Recovery.off → RingsOk s → step s = .next t → RingsOk t

/-- Outside recovery SEQ never falls but at FORMAT and at a reset, so no sequence is assigned twice in one epoch (R14). -/
def Obligations.SequencesNeverFall : Prop :=
  ∀ (c : Instr) (s t : State), s.recov = Recovery.off → ¬ Resets c → (∀ w, c ≠ .format w) → exec c s = .next t →
    s.seq.getD 0 ≤ t.seq.getD 0

/-- Every invariant holds right after a reset, and at the state the machine is started in; those of recovery hold also
from the assertion of RESET_N on. The values the spec leaves open there are the model's (logs 5 and 26). -/
def Obligations.SoundAtReset : Prop :=
  (∀ (straps : Straps) (wprot : Bool),
    let s := State.afterReset straps wprot
    GateOk s ∧ PullsOk s ∧ ExceptionsOk s.exceptions ∧ SizesOk s ∧ PortsOk s ∧ PoolOk s.pool ∧ TableOk s.extents ∧
    RecordsOk s ∧ RingsOk s ∧ CountsOk s ∧ HeldOk s ∧ ScansOk s) ∧
  (∀ s t : State, exec .resetN s = .next t → HeldOk t ∧ ScansOk t) ∧
  State.reset.pending = [] ∧ GateOk State.reset ∧ RingsOk State.reset ∧ PoolOk State.reset.pool

/-! ## Resets and pins -/

/-- POWER_ON, RESET_DEVICE taken, and RESET_N through its deassertion leave the part as R163 and the reset rules of the
chapters say, with the straps found at the reset's end, the level of WPROT and the commands that wait; while RESET_N is
asserted the part is RECOVERING and has no scan to issue (R116, R163). What the part does between the two edges of
RESET_N, and the values the spec leaves open, are the model's (logs 5 and 26). -/
def Obligations.ResetsLeaveThePartFresh : Prop :=
  (∀ (straps : Straps) (wprot : Bool) (s : State),
    exec (.powerOn straps wprot) s = .next { State.afterReset straps wprot with pending := s.pending }) ∧
  (∀ (w : MaintWrite) (straps : Straps) (s : State), s.hears w.addr → w.payload = [] → s.resetN = false →
    exec (.resetDevice w straps) s = .next { State.afterReset straps s.wprot with pending := s.pending }) ∧
  (∀ (s : State) (straps : Straps), ∃ t, exec .resetN s = .next t ∧
    t = { State.afterReset s.straps s.wprot with
            pending := s.pending, resetN := true, gate := false, recov := Recovery.held } ∧
    t.recov.work = ⟨[], []⟩ ∧
    exec (.resetNDeasserted straps) t = .next { State.afterReset straps s.wprot with pending := s.pending }) ∧
  (∀ (straps : Straps) (s : State), s.resetN = false → exec (.resetNDeasserted straps) s = .next s) ∧
  (∀ (straps : Straps) (wprot : Bool), (State.afterReset straps wprot).freshlyReset straps wprot)

/-- WPROT asserted asserts the gate, and its assertion closes the open frame of every lane of 0 to 6; WPROT deasserted
ends it unless the sequence limit holds (R15, R82, R116). The reclaim job under the gate (R147): while a source read is in
flight or read data waits to be handed nothing is done; then lane 7 closes its open frame, waits for its frames to be
written, and the job's pause becomes PROTECT, a step that the job never leaves untaken; the end of the gate ends that pause.
That the gate stays as it was while RESET_N is asserted is the model's reading (logs 5 and 26), and so are the pause of a job
paused for PORT that holds read data, and that lane 7's frame stays open while a source read is in flight (log 41), and the
close of an open frame that waits on a rebind list (log 39). -/
def Obligations.WprotMovesTheGate : Prop :=
  (∀ s : State, ∃ t, exec .wprotAsserted s = .next t ∧ t.wprot = true ∧
    (s.resetN = false → t.gate = true) ∧ (s.resetN = true → t.gate = s.gate) ∧
    (s.resetN = false → s.gate = false → s.lanes.length = 8 → ∀ n < 7, (t.lane n).openFrame = none)) ∧
  (∀ s : State, ∃ t, exec .wprotDeasserted s = .next t ∧ t.wprot = false ∧
    (s.resetN = false → t.gate = t.seqLimit) ∧ (s.seqLimit = true → t.seqLimit = true) ∧
    (s.resetN = true → t.gate = s.gate) ∧
    (s.resetN = false → s.gate = true → t.gate = false → ∀ j, t.rc.job = some j → j.pauseProtect = false)) ∧
  (∀ (s : State) (j : Job), s.rc.job = some j →
    let data := ∃ e ∈ s.rc.sources, e.live = true ∧ (e.state = .ready ∨ e.state = .inFlight)
    let unwritten := ∃ m ∈ j.moves, m.state = .inLane ∧ m.dst = none
    ((s.gate = false ∨ j.pauseProtect = true ∨ data) → pauseForProtect s = none) ∧
    (s.gate = true → j.pauseProtect = false → ¬ data →
      (∀ id, (s.lane 7).openFrame = some id → ∃ t, pauseForProtect s = some t ∧ t = closeFrame 7 id s ∧
        (s.lanes.length = 8 → (t.lane 7).openFrame = none) ∧ t.rc = s.rc) ∧
      ((s.lane 7).openFrame = none → unwritten → pauseForProtect s = none) ∧
      ((s.lane 7).openFrame = none → ¬ unwritten →
        pauseForProtect s = some { s with rc := { s.rc with job := some { j with pauseProtect := true } } })) ∧
    (pumpStep s = none → pauseForProtect s = none))

/-! ## The front link (chapter 11) -/

/-- An arriving request that fails a check of R178 or R195 is answered at once with the outcome of the first check it
fails and detail 0, and a WRITE, RELEASE or FLUSH that passes them takes its tag and joins the tail of the write intake
queue; nothing else changes but the idle clock, which restarts (R134, R177). That the clock restarts also at a refused
arrival is the model's reading (log 19), and that a turn begins by a later command its form (log 1). -/
def Obligations.ArrivingRequestsAreChecked : Prop :=
  ∀ (c : Instr) (tag : Nat) (r : Arrival) (s : State), Requests c tag r →
    ((63 < tag ∨ (s.tag tag).isSome) → exec c s = .next (s.arrived.send (.completion tag .tagInUse 0))) ∧
    (tag ≤ 63 → s.tag tag = none → s.service ≠ .ready →
      exec c s = .next (s.arrived.send (.completion tag .notReady 0))) ∧
    (tag ≤ 63 → s.tag tag = none → s.service = .ready → ¬ s.fits r →
      exec c s = .next (s.arrived.send (.completion tag .outOfRange 0))) ∧
    (tag ≤ 63 → s.tag tag = none → s.service = .ready → s.fits r → (r.kind = .write ∨ r.kind = .release) →
      s.gate = true → exec c s = .next (s.arrived.send (.completion tag .writeProtected 0))) ∧
    (r.kind ≠ .read → s.admits tag r → exec c s = .next (settle { s.arrived with
      tags := s.tags.set tag (some ⟨r.kind, r.lba, r.count, r.durable, .queued, 0, none, [], false⟩)
      intake := s.intake ++ [tag] }))

/-- An accepted READ is resolved against the extent map as it stands (R119, R124): each block below the first LOST one
has its source, zeros for an unmapped block, the frame that holds its segment, or the media; a READ whose first block is
LOST completes at once with LOST and frees its tag. It pins each frame once (R92), and each band and cache counter value
once for each segment it reads there (R55, R61). For each such segment it joins the DEMAND entry, takes over the AHEAD entry,
or creates one (R120, R129): the new entries ask for READ-class frames in order, the first of them, as many as the queue, the
cap and the floors let pass (R90, R91), are QUEUED with one and the others wait. The read-ahead record of the port whose band
holds the last block is renewed (R127), and a sequential READ, or under CONTINUOUS a takeover, fetches the segments of the
stream band behind the stream and the AHEAD entries there, one under ONE, under CONTINUOUS until a stop condition or a
refusal (R128); nothing else joins the table. The test of stalled entries (R122) recycles the one created last while a
request of the read server waits, and does nothing otherwise; where such a request waits an accepted READ may bring it about.
That a frame freed in the event is offered later, what brings a test, that an entry without an interested READ is not stalled,
which AHEAD entries count for the target, that a written lane 7 frame serves no READ, and that a no-wait request passes no
waiting one, are the model's (logs 6, 12, 23, 34, 35, 45). -/
def Obligations.ReadResolvesEachBlock : Prop :=
  (∀ (tag : Byte) (lba : BitVec 40) (count : BitVec 24) (s : State),
    s.admits tag.toNat ⟨.read, lba.toNat, count.toNat, false⟩ → (∀ r ∈ s.rs.reads, r.tag ≠ tag.toNat) →
    ∃ t, exec (.read tag lba count) s = .next t ∧ s.frontOut <+: t.frontOut ∧
      (lookup s.extents lba.toNat = .lost →
        s.frontOut ++ [.completion tag.toNat .lost lba.toNat] <+: t.frontOut ∧ t.tag tag.toNat = none ∧
        t.readRec tag.toNat = none) ∧
      (∀ k ≤ count.toNat, 0 < k → (∀ i < k, lookup s.extents (lba.toNat + i) ≠ .lost) →
        (k < count.toNat → lookup s.extents (lba.toNat + k) = .lost) →
        (∃ r, t.readRec tag.toNat = some r ∧ r.lba = lba.toNat ∧ r.count = count.toNat ∧ r.next = 0 ∧
          r.failing = (if k < count.toNat then some (k, .lost, .A) else none) ∧
          r.sources.take k = (List.range k).map (fun i =>
            match lookup s.extents (lba.toNat + i) with
            | .unmapped => .zero
            | .lost => .absent
            | .media l =>
              match s.holder l.segment with
              | some id => .frame id l
              | none => .media l)) ∧
        (s.calm → (s.rs.entries.map (fun e => e.loc)).Nodup →
          (∀ e ∈ s.rs.entries, ∀ id, e.frame = some id → (s.frame id).state = .inUse) →
          let places : List Loc := (List.range k).filterMap (fun i =>
            match lookup s.extents (lba.toNat + i) with
            | .media l => some l
            | .unmapped => none
            | .lost => none)
          let held : List Nat := places.filterMap (fun l => s.holder l.segment)
          let needed : List SegLoc :=
            ((places.map (fun l => l.segment)).filter (fun x => (s.holder x).isNone)).eraseDups
          let pinsAt := fun (u : State) (a : Actuator) (c : Nat) =>
            (((u.ring a).pins.filter (fun p => decide (p.1 = c))).map (fun p => p.2)).sum
          let new := needed.filter (fun x => (s.entry x).isNone)
          let room := if s.pool.waitRead = [] then
            min (64 - s.pool.held .read)
              (s.pool.freeCount - ((16 - s.pool.held .reclaim) + (4 - s.pool.held .metadata))) else 0
          let tested := s.pool.waitRead ≠ [] ∨ room < new.length
          let kept := fun (e e' : ReadEntry) =>
            e' = e ∨ (tested ∧ e.state = .ready ∧ e.interested ≠ [] ∧ e' = { e with state := .waitingFrame, frame := none })
          let last : Option SegLoc := (((List.range k).getLast?).bind (fun i =>
            match lookup s.extents (lba.toNat + i) with
            | .media l => some l.segment
            | .unmapped => none
            | .lost => none)).filter (fun x => decide (x.region = .band))
          let sequential := fun a : Actuator => (s.rs.ahead.get a).endLba = some lba.toNat ∧ k = count.toNat ∧
            places.length = k ∧ ∀ l ∈ places, l.segment.region = .band ∧ l.segment.act = a
          let takes := fun a : Actuator => ∃ x ∈ needed, x.act = a ∧ ∃ e, s.entry x = some e ∧ e.ahead = true
          let leads := fun a : Actuator => (s.work.readAhead ≠ .off ∧ sequential a) ∨
            (s.work.readAhead = .continuous ∧ takes a)
          let fetched := fun a : Actuator =>
            t.rs.entries.filter (fun e => e.ahead && decide (e.loc.act = a) && (s.entry e.loc).isNone)
          (∀ id, (s.frame id).state = .inUse → (t.frame id).pins = (s.frame id).pins + if id ∈ held then 1 else 0) ∧
          (∀ a b, b < (s.bm.get a).bands.length → (t.bandRec a b).readPins = (s.bandRec a b).readPins +
            needed.countP (fun x => decide (x.region = .band) && decide (x.act = a) && decide (x.band = b))) ∧
          (∀ a c, (s.ring a).freeHead ≤ c → c < (s.ring a).freeHead + s.mcs → pinsAt t a c = pinsAt s a c +
            needed.countP (fun x => decide (x.region = .cache) && decide (x.act = a) &&
              decide (x.seg % s.mcs = c % s.mcs))) ∧
          (∀ x ∈ needed, ∀ e, s.entry x = some e → ∃ e', t.entry x = some e' ∧
            kept (if e.ahead then { e with ahead := false, dropped := false, interested := [tag.toNat] }
              else { e with interested := e.interested ++ [tag.toNat] }) e') ∧
          (∀ i x, new[i]? = some x → ∃ e', t.entry x = some e' ∧ e'.ahead = false ∧ e'.attempts = 0 ∧
            e'.interested = [tag.toNat] ∧
            (i < room → e'.state = .queued ∧ x ∈ t.rs.queues.get x.act ∧ ∃ id, e'.frame = some id ∧
              (t.frame id).state = .inUse ∧ (t.frame id).cls = some .read ∧ (t.frame id).owner = some .readServer) ∧
            (room ≤ i → e'.state = .waitingFrame ∧ e'.frame = none ∧ .readEntry x ∈ t.pool.waitRead)) ∧
          (∀ e ∈ s.rs.entries, e.loc ∉ needed → ∃ e' ∈ t.rs.entries, kept e e') ∧
          (∀ e ∈ t.rs.entries, s.entry e.loc = none → e.loc ∈ needed ∨ e ∈ fetched e.loc.act) ∧
          (∀ a, ((∀ x, last = some x → x.act ≠ a) → t.rs.ahead.get a = s.rs.ahead.get a) ∧
            ∀ x, last = some x → x.act = a →
              t.rs.ahead.get a = ⟨some (lba.toNat + count.toNat), some x.band, some x.seg⟩) ∧
          ∀ a, (¬ leads a → fetched a = []) ∧
            (∀ b g, (t.rs.ahead.get a).band = some b → (t.rs.ahead.get a).seg = some g →
              let stays := s.rs.entries.filter (fun e => e.ahead && decide (e.loc.act = a) && decide (e.loc ∉ needed))
              let top := ((stays.filter (fun e => decide (e.loc.region = .band) && decide (e.loc.band = b))).map
                (fun e => e.loc.seg)).foldl max g
              let count2 := fun u : State => u.rs.entries.countP (fun e => e.ahead && !e.dropped && decide (e.loc.act = a))
              let open_ := fun seg : Nat => seg < (s.bandRec a b).written ∧
                ((s.bandRec a b).state = .full ∨ (s.bandRec a b).state = .draining ∨ (s.bandRec a b).state = .opened ∨
                  (s.bandRec a b).state = .parked)
              (fetched a).map (fun e => e.loc) =
                (List.range (fetched a).length).map (fun i => (⟨a, .band, b, top + 1 + i⟩ : SegLoc)) ∧
              (∀ e ∈ fetched a, e.state = .queued ∧ e.frame.isSome ∧ e.interested = [] ∧ e.attempts = 0 ∧
                open_ e.loc.seg ∧ e.loc ∈ t.rs.queues.get a) ∧
              (fetched a ≠ [] → count2 t ≤ 2) ∧ (s.work.readAhead = .one → (fetched a).length ≤ 1) ∧
              (leads a → (s.work.readAhead = .continuous ∨ fetched a = []) →
                let next := top + 1 + (fetched a).length
                ¬ (count2 t < 2 ∧ open_ next ∧ t.entry ⟨a, .band, b, next⟩ = none ∧ t.pool.waitRead = [] ∧
                  t.pool.passes .read = true))) ∧
            ((t.rs.ahead.get a).band = none → fetched a = [])))) ∧
  (∀ s : State,
    let asks := ∃ l, .readEntry l ∈ s.pool.waitRead
    let stalled := fun e : ReadEntry => e ∈ s.rs.entries ∧ e.state = .ready ∧ e.interested ≠ [] ∧
      ∀ tag ∈ e.interested, ∃ r l e', s.readRec tag = some r ∧ (∀ i, r.failing.map (fun f => f.1) = some i → r.next < i) ∧
        r.next < r.count ∧ r.sources[r.next]? = some (.media l) ∧ l.segment ≠ e.loc ∧ s.entry l.segment = some e' ∧
        e'.state = .waitingFrame
    ((¬ asks ∨ ∀ e, ¬ stalled e) → (∀ r ∈ s.rs.reads, r.sources.length = r.count) → recycleStalled s = s) ∧
    (asks → ∀ e, stalled e → (∀ e', stalled e' → e' = e ∨ e'.order < e.order) →
      (∀ r ∈ s.rs.reads, r.sources.length = r.count) →
      let t := recycleStalled s
      t = { s with pool := t.pool, rs := { s.rs with entries := t.rs.entries } } ∧
      t.rs.entries = s.rs.entries.map (fun x =>
        if x.loc = e.loc then { x with state := .waitingFrame, frame := none } else x) ∧
      t.pool.waitRead = s.pool.waitRead ++ [.readEntry e.loc] ∧
      (∀ id, e.frame ≠ some id → t.frame id = s.frame id) ∧
      (∀ id, e.frame = some id → id < s.pool.frames.length → (s.frame id).state = .inUse →
        ((s.frame id).pins = 0 → (t.frame id).state = .free) ∧
        ((s.frame id).pins ≠ 0 → (t.frame id).state = .awaitingUnpin))))

/-- Events that find nothing to act on change nothing: messages of no known kind (R177), among them, as the model has it,
those of a kind that the part itself sends (log 52); results that end no operation in flight (R103), data that answers no pull
(R180), timers that have not run their limit, 60,000 ms for the response timer of a STAMP SCAN and HOLD_LIMIT for a port wait
(R78, R79, R99, R103, R125, R134, log 2), the idle clock never at IDLE_MIGRATE 0 (log 19), and ports already in the state
reported (R107). That DATA_PHASE_START, RELEASE_ACCEPTANCE, FLUSH_ACCEPTANCE and DATA_PULL change nothing when they are not due
is the model's choice (log 1). -/
def Obligations.EventsNotDueChangeNothing : Prop :=
  ∀ s : State,
    (∀ kind, exec (.unknownMessage kind) s = .next s) ∧
    (∀ (a : Actuator) (issue : BitVec 16), (∀ o, (s.port a).op = some o → o.issue ≠ issue.toNat) →
      (∀ r, exec (.segmentWriteResult a issue r) s = .next s) ∧ (∀ r, exec (.segmentReadResult a issue r) s = .next s) ∧
      (∀ r, exec (.stampScanResult a issue r) s = .next s)) ∧
    (∀ (tag : Byte) (data : Block), (∀ p, s.phase = some p → p.tag = tag.toNat → p.unanswered = []) →
      exec (.writeData tag data) s = .next s) ∧
    ((∀ t e, s.intake.head? = some t → s.tag t = some e → e.kind ≠ .write ∨ s.phase ≠ none) →
      exec .dataPhaseStart s = .next s) ∧
    ((∀ t e, s.intake.head? = some t → s.tag t = some e → e.kind ≠ .release) → exec .releaseAcceptance s = .next s) ∧
    ((∀ t e, s.intake.head? = some t → s.tag t = some e → e.kind ≠ .flush) → exec .flushAcceptance s = .next s) ∧
    (s.phase = none → exec .dataPull s = .next s) ∧
    (∀ a, (s.port a).up = false → exec (.portDown a) s = .next s) ∧
    (∀ a, (s.port a).up = true → exec (.portUp a) s = .next s) ∧
    (∀ a, (∀ t o, (s.port a).timer = some t → (s.port a).op = some o →
        s.now - t < (if o.kind = .stampScan then 60000 else 20000)) → exec (.responseTimerExpiry a) s = .next s) ∧
    (∀ tag : Byte, (∀ r t, s.readRec tag.toNat = some r → r.waitTimer = some t → s.now - t < s.work.holdLimit) →
      exec (.portWaitExpiry tag) s = .next s) ∧
    (∀ lane, (∀ t, (s.lane lane).idleTimer = some t → s.now - t < s.work.idleLimit) →
      exec (.idleTimerExpiry lane) s = .next s) ∧
    (∀ lane, (∀ t, (s.lane lane).releaseTimer = some t → s.now - t < s.work.laneRelease * 1000) →
      exec (.releaseTimerExpiry lane) s = .next s) ∧
    ((∀ p t, s.phase = some p → p.holdTimer = some t → s.now - t < s.work.holdLimit) →
      exec .holdTimerExpiry s = .next s) ∧
    ((s.work.idleMigrate = 0 ∨ ∀ t, s.rc.idleClock = some t → s.now - t < s.work.idleMigrate * 1000) →
      exec .idleClockExpiry s = .next s)

/-- WRITE_DATA answers the oldest unanswered pull (R74, R180): its block's LBA is mapped to the promised slot and no
other LBA changes, the earmark is returned, and the WRITE counts one more block accepted, its data phase ending with its
last. While nothing else works on frames, the data stands in the slot. -/
def Obligations.WriteDataPlacesBlock : Prop :=
  ∀ (tag : Byte) (data : Block) (s : State) (p : DataPhase) (u : Pull) (us : List Pull) (l : SegLoc),
    s.phase = some p → p.tag = tag.toNat → p.unanswered = u :: us → (s.frame u.frame).bound = some l →
    u.slot < 16 → 1 ≤ s.earmarks → s.extents.length + 2 * s.earmarks ≤ 262144 → TableOk s.extents → s.unfaulted →
    ∃ t, exec (.writeData tag data) s = .next t ∧
      lookup t.extents u.lba = .media ⟨l, u.slot⟩ ∧
      (∀ x, x ≠ u.lba → lookup t.extents x = lookup s.extents x) ∧
      t.earmarks = s.earmarks - 1 ∧
      t.phase = (if p.accepted + 1 = p.count ∨ (p.stopped = true ∧ us = []) then none
        else some { p with accepted := p.accepted + 1, unanswered := us }) ∧
      (t.phase ≠ none → s.rc.job = none → s.rs.entries = [] → SizesOk s → u.frame < 256 →
        (s.frame u.frame).payload.length = 16 → u.slot < (s.frame u.frame).fill →
        (t.frame u.frame).payload.getD u.slot 0 = data)

/-- READ_DATA_DELIVERY sends the next block of a READ once its source is ready (R123): zeros, the slot of a held frame, or
the slot of a segment read back. A READ without a recorded failing LBA completes GOOD after its last block (R184). One that has a
failing LBA goes on with the blocks below it, the failing LBA kept, and after the last of these completes with its outcome, LOST
or MEDIA_ERROR, and the failing LBA (R124); READ_FAILED, with the blocks not delivered, is posted for MEDIA_ERROR alone. The tag
is then free. A block whose segment is not ready yet is not sent. -/
def Obligations.ReadDeliversNextBlock : Prop :=
  ∀ (tag : Byte) (s : State) (r : ReadRec) (src : Source), s.readRec tag.toNat = some r →
    let stop := match r.failing with
      | some f => f.1
      | none => r.count
    r.next < stop → r.sources[r.next]? = some src →
    (∀ data : Block,
      (src = .zero ∧ data = 0) ∨
      (∃ id l, src = .frame id l ∧ data = (s.frame id).payload.getD l.slot 0) ∨
      (∃ l e id, src = .media l ∧ s.entry l.segment = some e ∧ e.state = .ready ∧ e.frame = some id ∧
        data = (s.frame id).payload.getD l.slot 0) →
      ∃ t, exec (.readDataDelivery tag) s = .next t ∧
        s.frontOut ++ [.readData tag.toNat (r.lba + r.next) data] <+: t.frontOut ∧
        (r.next + 1 < stop → ∃ r', t.readRec tag.toNat = some r' ∧ r'.next = r.next + 1 ∧ r'.sources = r.sources ∧
          r'.failing = r.failing) ∧
        (r.next + 1 = stop →
          let ends := fun (o : Outcome) (detail : Nat) =>
            s.frontOut ++ [.readData tag.toNat (r.lba + r.next) data, .completion tag.toNat o detail] <+: t.frontOut
          t.readRec tag.toNat = none ∧ t.tag tag.toNat = none ∧
          (r.failing = none → ends .good r.count) ∧
          (∀ i a, r.failing = some (i, .lost, a) → ends .lost (r.lba + i)) ∧
          (∀ i a, r.failing = some (i, .mediaError, a) → ends .mediaError (r.lba + i) ∧
            t.reports .readFailed a (r.lba + i) (r.count - i))) ∧
        ((r.next + 1 < stop ∨ ∀ i a, r.failing ≠ some (i, .mediaError, a)) →
          ∀ x, x.kind = .readFailed → (x ∈ t.exceptions ↔ x ∈ s.exceptions))) ∧
    (∀ l, src = .media l → (∀ e, s.entry l.segment = some e → e.state ≠ .ready) →
      exec (.readDataDelivery tag) s = .next (settle s))

/-- PORT_WAIT_EXPIRY, once the timer has run HOLD_LIMIT, records MEDIA_ERROR at the READ's lowest undelivered block that a
DOWN port keeps back (R124, R125): where that block is the next, READ_FAILED is posted and the READ completes; otherwise
the blocks below it are still delivered. -/
def Obligations.PortWaitExpiryFailsRead : Prop :=
  ∀ (tag : Byte) (s : State) (r : ReadRec) (i : Nat) (a : Actuator) (t0 : Nat), s.readRec tag.toNat = some r →
    r.waitTimer = some t0 → s.work.holdLimit ≤ s.now - t0 → s.blockedAt r = some (i, a) →
    ∃ t, exec (.portWaitExpiry tag) s = .next t ∧
      (i = r.next → s.frontOut ++ [.completion tag.toNat .mediaError (r.lba + i)] <+: t.frontOut ∧
        t.readRec tag.toNat = none ∧ t.tag tag.toNat = none ∧ t.reports .readFailed a (r.lba + i) (r.count - i)) ∧
      (i ≠ r.next → ∃ r', t.readRec tag.toNat = some r' ∧ r'.failing = some (i, .mediaError, a) ∧ r'.next = r.next)

/-- FRONT_LINK_RESET drops every outstanding request without a completion (R186): tags, intake, data phase, READs and
waiters are gone, the earmarks of the unanswered pulls are returned, and release records and the notice keep no tag. -/
def Obligations.FrontLinkResetDropsRequests : Prop :=
  ∀ s : State, ∃ t, exec .frontLinkReset s = .next t ∧ t.tags = List.replicate 64 none ∧ t.intake = [] ∧
    t.phase = none ∧ t.rs.reads = [] ∧ (∀ f ∈ t.pool.frames, f.waiters = []) ∧ t.frontOut = s.frontOut ∧
    (PullsOk s → t.earmarks = 0) ∧ (∀ r ∈ t.ck.batch, r.tag = none) ∧ t.ck.batch.length = s.ck.batch.length ∧
    (∀ n, t.ck.notice = some n → ∀ r ∈ n.records, r.tag = none)

/-! ## Classification and turns (chapters 4 and 11) -/

/-- DATA_PHASE_START gives the WRITE at the head its turn in the lane R67 chooses: the lowest stream lane that expects its
LBA, else the lane of the first matching window, else for STREAM_MIN blocks or more a stream lane in CLOSED that no window
binds, or the one idle longest when it has been idle for IDLE_LIMIT (R69), else lane 6. A lane in CLOSED becomes OPEN. -/
def Obligations.WriteStartsPhaseInItsLane : Prop :=
  ∀ (s : State) (tag : Nat) (e : TagEntry), SizesOk s → s.intake.head? = some tag → s.tag tag = some e →
    e.kind = .write → s.phase = none → s.gate = false →
    let expects := fun n : Nat =>
      n < 6 ∧ ((s.lane n).state = .opened ∨ (s.lane n).state = .waiting) ∧ (s.lane n).nextLba = some e.lba
    let unbound := fun n : Nat => n < 6 ∧ s.work.windowBound n = false
    let free := fun n : Nat => unbound n ∧ (s.lane n).state = .closed
    let old := fun n : Nat => unbound n ∧ (s.lane n).state = .opened
    let last := fun n : Nat => (s.lane n).lastAccept.getD 0
    let oldest := fun n : Nat => old n ∧ ∀ m, old m → last n < last m ∨ (last n = last m ∧ n ≤ m)
    ∃ t p, exec .dataPhaseStart s = .next t ∧ t.phase = some p ∧
      p = ⟨tag, e.lba, e.count, p.lane, false, 0, 0, [], none, none, false⟩ ∧
      (∀ n, expects n → (∀ m < n, ¬ expects m) → p.lane = n) ∧
      ((∀ n, ¬ expects n) →
        (∀ w, s.work.windows.find? (fun w => w.enabled && decide (e.lba &&& w.mask = w.base &&& w.mask)) = some w →
          p.lane = w.lane) ∧
        (s.work.windows.find? (fun w => w.enabled && decide (e.lba &&& w.mask = w.base &&& w.mask)) = none →
          (e.count < s.work.streamMin → p.lane = 6) ∧
          (s.work.streamMin ≤ e.count →
            (∀ n, free n → (∀ m < n, ¬ free m) → p.lane = n) ∧
            ((∀ n, ¬ free n) → (∀ n, ¬ old n) → p.lane = 6) ∧
            ((∀ n, ¬ free n) → ∀ n, oldest n →
              (s.work.idleLimit ≤ s.now - last n → p.lane = n) ∧ (s.now - last n < s.work.idleLimit → p.lane = 6))))) ∧
      (p.lane < 7 → (s.lane p.lane).state = .closed → (t.lane p.lane).state = .opened)

/-- While the gate is asserted the WRITE or RELEASE whose turn comes is refused with WRITE_PROTECTED and frees its tag (R185). -/
def Obligations.ProtectedTurnRefused : Prop :=
  ∀ (s : State) (tag : Nat) (rest : List Nat) (e : TagEntry), s.intake = tag :: rest → s.tag tag = some e →
    s.phase = none → s.gate = true →
    ∀ c, (c = Instr.dataPhaseStart ∧ e.kind = .write) ∨ (c = Instr.releaseAcceptance ∧ e.kind = .release) →
      ∃ t, exec c s = .next t ∧ s.frontOut ++ [.completion tag .writeProtected 0] <+: t.frontOut ∧ t.tag tag = none ∧
        t.intake.length < s.intake.length ∧ t.phase = none ∧ t.earmarks = s.earmarks

/-- DATA_PULL with a slot in the lane's open frame, credit and 66 free records sends the pull (R35, R73, R93, R94): the
slot is promised and joins the frame's runs, two records are earmarked, the hold and the lane's idle timer stop, and map
pressure is tested (R40). At a quiet state this is the whole effect. Where an OPEN lane has no open frame and the part is
neither write-protected nor under the distance hold, it first opens one (R72): the frame granted to it, or the first FREE one
(log 6). A stream lane binds it to the next segment of its band, its reserved pointer and bound frames one higher, DRAINING and
owned by none at SPB (R45); without a band it owns it obtains one (R43, R71), on its actuator, chosen by room, streams and then A where
it has none, and else on the other: the head of the parked list, continued at its pointers, or the lowest BLANK band while more
than RESERVE are blank, from 0, and band pressure is tested (R96). Lane 6 binds it to the segment at the tail of the UP ring with
more free segments, A on a tie, and that tail rises (R58). Both data segment counts rise by one, and at CK_SEGMENTS a checkpoint
is requested (R154); that a request only sets the wanted flag is the model's reading (log 3). A block of a stream lane that is
FAULTED or whose port is DOWN goes to lane 6, and a block of lane 6 that finds no segment on either ring to the lowest CLOSED
stream lane not window-bound, or to the least recently used OPEN one after IDLE_LIMIT, which gives up its band, both for the
rest of the WRITE (R69, R70). What a redirection releases and restarts of the lane it leaves, and the last acceptance of a lane
it evicts, are the model's reading (log 21). After the opening or the redirection the block is tested again as it then stands. -/
def Obligations.PullPromisesSlot : Prop :=
  ∀ (s : State) (p : DataPhase), s.phase = some p → p.stopped = false → p.next < p.count → p.unanswered.length < 16 →
    let n := p.lane
    let lane := s.lane n
    -- the frame a lane has or is granted (R72, R90), and a lane that may open it
    let obtains := fun (id : Nat) (f : Frame) => id < s.pool.frames.length ∧ f.fill = 0 ∧ f.runs = [] ∧
      ((lane.granted = some id ∧ f = s.frame id) ∨
        (lane.granted = none ∧ s.pool.queue .write = [] ∧ s.pool.passes .write = true ∧ (s.frame id).state = .free ∧
          (∀ j < id, (s.frame j).state ≠ .free) ∧ f = Frame.granted .write (.lane n)))
    let opens := s.lanes.length = 8 ∧ lane.openFrame = none ∧ lane.state = .opened ∧ s.gate = false ∧ s.seqLimit = false ∧
      s.ck.dComplete < 2 * s.work.ckSegments
    let bound := fun (v : State) (id : Nat) (f : Frame) (act : Option Actuator) (band : Option Nat) =>
      v.lane n = { lane with act := act, band := band, openFrame := some id, granted := none, idleTimer := some s.now } ∧
      (∀ m, m ≠ n → v.lane m = s.lane m) ∧ v.frame id = f ∧ (∀ j, j ≠ id → v.frame j = s.frame j) ∧
      v.ck = { s.ck with
        dStart := s.ck.dStart + 1, dComplete := s.ck.dComplete + 1
        wanted := s.ck.wanted || decide (s.work.ckSegments ≤ s.ck.dStart + 1) } ∧
      v.phase = s.phase ∧ v.extents = s.extents ∧ v.earmarks = s.earmarks ∧ v.frontOut = s.frontOut ∧ v.seq = s.seq
    let space := fun a : Actuator => s.mcs - ((s.ring a).tail - (s.ring a).freeHead)
    -- a slot in the open frame
    (∀ id, s.laneLost n = false → lane.openFrame = some id → (s.frame id).fill < 16 →
      needsNinthRun (s.frame id).runs (p.lba + p.next) none = false → s.creditPasses p id = true → 66 ≤ s.freeRecords →
      exec .dataPull s = .next (settle (evalMapPressure { s with
        frontOut := s.frontOut ++ [.dataPull p.tag]
        pool := { s.pool with frames := s.pool.frames.modify id (fun f =>
          { f with fill := f.fill + 1, promises := f.promises + 1
                   runs := extendRuns f.runs (p.lba + p.next) f.fill none }) }
        lanes := s.lanes.modify n (fun c => { c with idleTimer := none })
        phase := some { p with next := p.next + 1, hold := none, holdTimer := none
                               unanswered := p.unanswered ++ [⟨p.lba + p.next, id, (s.frame id).fill, n⟩] }
        earmarks := s.earmarks + 1 }))) ∧
    -- a frame opened in a band (R43, R45, R71, R72)
    (n ≤ 5 → s.laneLost n = false → opens → ∀ id f, obtains id f →
      let up := fun a : Actuator => (s.port a).up = true
      let room := fun a : Actuator => s.blankCount a + s.countIn a .parked
      let streams := fun a : Actuator =>
        (s.lanes.take 6).countP (fun c => decide (c.state = .opened) && decide (c.act = some a) && c.band.isSome)
      let first := fun a : Actuator => lane.act = some a ∨ (lane.act = none ∧ up a ∧ (up (other a) →
        room (other a) < room a ∨ (room (other a) = room a ∧
          (streams a < streams (other a) ∨ (streams a = streams (other a) ∧ a = .A)))))
      let parkedAt := fun (a : Actuator) (b : Nat) (r : Band) => (s.bm.get a).parked.head? = some b ∧
        r = { s.bandRec a b with state := .opened, owner := some n }
      let blankAt := fun (a : Actuator) (b : Nat) (r : Band) => (s.bm.get a).parked = [] ∧ b < (s.bm.get a).bands.length ∧
        (s.bandRec a b).state = .blank ∧ (∀ c < b, (s.bandRec a c).state ≠ .blank) ∧ s.work.reserve < s.blankCount a ∧
        r = { s.bandRec a b with state := .opened, owner := some n, reserved := 0, written := 0 }
      let answers := fun (a : Actuator) (b : Nat) (r : Band) =>
        s.service = .ready ∧ up a ∧ (parkedAt a b r ∨ blankAt a b r)
      let asked := fun a : Actuator => first a ∨ (first (other a) ∧ ∀ b r, ¬ answers (other a) b r)
      let held := fun (a : Actuator) (b : Nat) => s.appends n a b ∧ (s.bandRec a b).reserved < s.spb
      let opened := fun (v : State) (a : Actuator) (b : Nat) (r : Band) =>
        exec .dataPull s = exec .dataPull v ∧
        bound v id { f with bound := some ⟨a, .band, b, r.reserved⟩, ringCtr := 0 } (some a)
          (if r.reserved + 1 = s.spb then none else some b) ∧
        v.bandRec a b = { r with
          reserved := r.reserved + 1, bound := r.bound + 1
          state := if r.reserved + 1 = s.spb then .draining else .opened
          owner := if r.reserved + 1 = s.spb then none else some n } ∧
        (∀ a' b', a' ≠ a ∨ b' ≠ b → v.bandRec a' b' = s.bandRec a' b') ∧
        (∀ a', v.ring a' = s.ring a' ∧ (a' ≠ a → (v.bm.get a').parked = (s.bm.get a').parked))
      (∀ a b, held a b →
        ∃ v, opened v a b (s.bandRec a b) ∧ (v.bm.get a).parked = (s.bm.get a).parked ∧ v.credit = s.credit) ∧
      ((∀ a b, ¬ held a b) → ∀ a b r, asked a → answers a b r →
        b < (s.bm.get a).bands.length → r.reserved < s.spb →
        ∃ v, opened v a b r ∧ (v.bm.get a).parked = (s.bm.get a).parked.tail ∧
          (parkedAt a b r → v.credit = s.credit) ∧
          (blankAt a b r → v.blankCount a + 1 = s.blankCount a ∧
            (v.credit.get a).pressure = decide (v.blankCount a ≤ s.work.blankLow)))) ∧
    -- a frame opened in a cache ring (R58, R72)
    (n = 6 → opens → ∀ id f, obtains id f → ∀ a : Actuator, s.service = .ready → (s.port a).up = true → 1 ≤ space a →
      ((s.port (other a)).up = true → space (other a) < space a ∨ (space (other a) = space a ∧ a = .A)) →
      ∃ v, exec .dataPull s = exec .dataPull v ∧
        bound v id { f with bound := some ⟨a, .cache, 0, (s.ring a).tail % s.mcs⟩, ringCtr := (s.ring a).tail } lane.act lane.band ∧
        v.ring a = { s.ring a with tail := (s.ring a).tail + 1 } ∧ v.ring (other a) = s.ring (other a) ∧
        ∀ a' b', v.bandRec a' b' = s.bandRec a' b') ∧
    -- redirected to lane 6 (R70)
    (s.laneLost n = true → s.lanes.length = 8 →
      ∃ v, exec .dataPull s = exec .dataPull v ∧ v.phase = some { p with lane := 6, redirected := true } ∧
        v.lane n = { lane with
          granted := none, state := if lane.state = .waiting then .opened else lane.state
          releaseTimer := if lane.state = .waiting ∨ lane.state = .opened then some s.now else lane.releaseTimer } ∧
        .lane n ∉ v.pool.waitWrite ∧ (v.lane 6).releaseTimer = none ∧
        ((s.lane 6).state = .closed → (v.lane 6).state = .opened ∧ (v.lane 6).lastAccept = some s.now) ∧
        ((s.lane 6).state ≠ .closed → (v.lane 6).state = (s.lane 6).state) ∧
        (∀ id, lane.granted = some id → id < s.pool.frames.length → (s.frame id).state = .inUse → (s.frame id).pins = 0 →
          (v.frame id).state = .free) ∧
        v.bm = s.bm ∧ v.extents = s.extents ∧ v.earmarks = s.earmarks ∧ v.frontOut = s.frontOut) ∧
    -- lane 6 without a cache segment (R69, R70)
    (n = 6 → opens → ∀ id f, obtains id f → (∀ a, (s.port a).up = true → space a = 0) → f.state = .inUse → f.pins = 0 →
      let free := fun m : Nat => s.work.windows.all (fun w => !(w.enabled && decide (w.lane = m))) = true
      let closed := fun m : Nat => m < 6 ∧ (s.lane m).state = .closed ∧ free m
      let idle := fun m : Nat => m < 6 ∧ (s.lane m).state = .opened ∧ free m
      let last := fun m : Nat => (s.lane m).lastAccept.getD 0
      let redirected := fun (v : State) (m : Nat) =>
        exec .dataPull s = exec .dataPull v ∧ v.phase = some { p with lane := m, redirected := true } ∧
        (v.lane m).state = .opened ∧ (v.lane m).lastAccept = some s.now ∧ (v.lane m).releaseTimer = none ∧
        (v.lane m).act = none ∧ (v.lane m).openFrame = none ∧
        (v.lane 6).state = .opened ∧ (v.lane 6).granted = none ∧ (v.lane 6).releaseTimer = some s.now ∧
        .lane 6 ∉ v.pool.waitWrite ∧ (v.frame id).state = .free ∧
        (∀ a, v.ring a = s.ring a) ∧ v.extents = s.extents ∧ v.earmarks = s.earmarks ∧ v.frontOut = s.frontOut
      (∀ m, closed m → (∀ k < m, ¬ closed k) → (s.lane m).act = none → (s.lane m).openFrame = none →
        ∃ v, redirected v m ∧ v.bm = s.bm) ∧
      (∀ m, (∀ k, ¬ closed k) → idle m → (∀ k, idle k → last m < last k ∨ (last m = last k ∧ m ≤ k)) →
        s.work.idleLimit ≤ s.now - last m →
        ∃ v, redirected v m ∧ (v.lane m).band = none ∧ (v.lane m).nextLba = none ∧
          ∀ a b, s.appends m a b → s.bandGivenUp v a b))

/-- DATA_PULL holds the block at the gate with the cause of the first step of R94 that it cannot pass, and the hold timer
starts when it is first held (R94, R99): PROTECT, PLACE and FRAME when no slot can be had, CREDIT and then RECORDS when one
stands ready. An OPEN lane with a frame to be had enters WAITING, gives the frame back and holds the block with PLACE when
its attempt at a location fails: while the distance holds (R161), when neither actuator has a band for it (R43, R71), and for
lane 6 when no ring has a segment and no stream lane can be taken (R70, R72). -/
def Obligations.HeldBlockNamesCause : Prop :=
  ∀ (s : State) (p : DataPhase), s.phase = some p → p.stopped = false → p.next < p.count → p.unanswered.length < 16 →
    s.laneLost p.lane = false →
    let held := fun cause : HoldCause => ∃ t, exec .dataPull s = .next t ∧
      t.phase = some { p with hold := some cause, holdTimer := some (p.holdTimer.getD s.now) } ∧
      t.frontOut = s.frontOut ∧ t.earmarks = s.earmarks
    ((s.lane p.lane).openFrame = none → s.rc.job = none → s.unfaulted →
      (s.gate = true → s.gateLevel = true → held .protect) ∧
      (s.gate = false → s.gateLevel = false → (s.lane p.lane).state = .waiting → held .place) ∧
      (s.gate = false → s.gateLevel = false → (s.lane p.lane).state ≠ .waiting → (s.lane p.lane).granted = none →
        s.pool.passes .write = false → p.lane ≤ 6 → held .frame) ∧
      (s.gate = false → s.gateLevel = false → (s.lane p.lane).state = .opened → p.lane ≤ 6 → s.lanes.length = 8 →
        ((s.lane p.lane).granted.isSome ∨ (s.pool.queue .write = [] ∧ s.pool.passes .write = true)) →
        ((2 * s.work.ckSegments ≤ s.ck.dComplete) ∨
          (p.lane ≤ 5 ∧ (s.lane p.lane).band = none ∧
            ∀ a, (s.port a).up = true → (s.bm.get a).parked = [] ∧ s.blankCount a ≤ s.work.reserve) ∨
          (p.lane = 6 ∧ (∀ a, (s.port a).up = true → s.ringFree a = 0) ∧
            ∀ n < 6, s.work.windowBound n = false → (s.lane n).state ≠ .closed ∧
              ((s.lane n).state = .opened → s.now - (s.lane n).lastAccept.getD 0 < s.work.idleLimit))) →
        held .place ∧ ∀ t, exec .dataPull s = .next t →
          (t.lane p.lane).state = .waiting ∧ (t.lane p.lane).granted = none ∧
          ∀ id, (s.lane p.lane).granted = some id → id < s.pool.frames.length → (s.frame id).state = .inUse →
            (s.frame id).pins = 0 → (t.frame id).state = .free)) ∧
    (∀ id, (s.lane p.lane).openFrame = some id → (s.frame id).fill < 16 →
      needsNinthRun (s.frame id).runs (p.lba + p.next) none = false → s.rc.job = none → s.unfaulted →
      s.gate = s.gateLevel →
      (s.creditPasses p id = false → held .credit) ∧
      (s.creditPasses p id = true → s.freeRecords < 66 → held .records))

/-- RELEASE_ACCEPTANCE, with 66 free records and room in the ring and the batch, unmaps every block of the range and no
other, and its record, with the sequence then assigned and its tag, joins the batch or the notice just closed (R28, R36,
R151, R152, R182); otherwise the RELEASE stays held in its turn (R177, R179), and nothing else happens. -/
def Obligations.ReleaseUnmapsAndJoinsBatch : Prop :=
  ∀ (s : State) (tag : Nat) (e : TagEntry), s.intake.head? = some tag → s.tag tag = some e → e.kind = .release →
    s.gate = false →
    (66 ≤ s.freeRecords → (s.port .A).up = true → 98 ≤ s.ckFree → s.ck.batch.length < 4096 → TableOk s.extents →
      s.unfaulted →
      ∃ t, exec .releaseAcceptance s = .next t ∧
        (∀ x, e.lba ≤ x → x < e.lba + e.count → lookup t.extents x = .unmapped) ∧
        (∀ x, (x < e.lba ∨ e.lba + e.count ≤ x) → lookup t.extents x = lookup s.extents x) ∧
        ∃ seq, s.seq.getD 0 ≤ seq ∧ seq < t.seq.getD 0 ∧
          (⟨e.lba, e.count, seq, some tag⟩ ∈ t.ck.batch ∨
            ∃ n, t.ck.notice = some n ∧ ⟨e.lba, e.count, seq, some tag⟩ ∈ n.records)) ∧
    ((s.freeRecords < 66 ∨ (s.port .A).up = false ∨ s.ckFree < 98 ∨ 4096 ≤ s.ck.batch.length) →
      exec .releaseAcceptance s = .next (settle { s with
        tags := s.tags.modify tag (Option.map (fun e => { e with stand := .inTurn })) }))

/-- FLUSH_ACCEPTANCE closes the open frame of every lane of 0 to 6 and completes the FLUSH at once when no DATA frame is
unwritten and no RELEASE is open; otherwise the FLUSH joins every unwritten DATA frame, the ones just closed among them, records
the open RELEASEs, and waits for both (R80, R81, R183), under the asserted gate too, where the WRITEs and RELEASEs whose
turns then come are refused (R185). A FLUSH that waits completes with the last of them (R183): a frame whose write returns
DONE, or a RELEASE whose notice is written or fails its fourth attempt. Its outcome is LOST when a frame told it so, else
MEDIA_ERROR when a RELEASE it recorded completed so, else GOOD; while a frame still counts it or a RELEASE it recorded is
open it waits on. The last frame that is abandoned is in ReboundFrameTakesItsBlocks.
That the next turn begins by a later command, and that an open frame on a rebind list closes too, is the model's (logs 1, 39). -/
def Obligations.FlushClosesAndCompletes : Prop :=
  (∀ (s : State) (tag : Nat) (rest : List Nat) (e : TagEntry), s.intake = tag :: rest → s.tag tag = some e →
    e.kind = .flush →
    let counts := fun f : Frame => f.state = .inUse ∧ (∃ n ≤ 6, f.owner = some (.lane n)) ∧ f.bound.isSome ∧
      f.written = false
    (s.lanes.length = 8 → ∃ t, exec .flushAcceptance s = .next t ∧ ∀ n < 7, (t.lane n).openFrame = none) ∧
    ((∀ n < 7, (s.lane n).openFrame = none) → (∀ f ∈ s.pool.frames, ¬ counts f ∧ tag ∉ f.waiters) →
      s.openReleases = [] → e.lostLba = none → e.releaseFailed = false →
      ∃ t, exec .flushAcceptance s = .next t ∧ s.frontOut ++ [.completion tag .good 0] <+: t.frontOut ∧
        t.tag tag = none) ∧
    ((∀ n < 7, (s.lane n).openFrame = none) → ((∃ f ∈ s.pool.frames, counts f) ∨ s.openReleases ≠ []) →
      let joined : State := { s with
        intake := rest
        tags := s.tags.modify tag (Option.map (fun e => { e with stand := .accepted, releases := s.openReleases }))
        pool := { s.pool with frames := s.pool.frames.map (fun f =>
          match f.owner with
          | some (.lane n) =>
            if f.state = .inUse ∧ n ≤ 6 ∧ f.bound.isSome ∧ f.written = false then
              { f with waiters := f.waiters ++ [tag] }
            else f
          | _ => f) } }
      (s.gate = false → exec .flushAcceptance s = .next (settle joined) ∧
        (s.quiet → exec .flushAcceptance s = .next joined)) ∧
      (s.gate = true → exec .flushAcceptance s = .next (settle (refuseTurns joined)) ∧
        (s.quiet → rest = [] → exec .flushAcceptance s = .next joined))) ∧
    -- the open frames close, and the FLUSH joins them with the others
    (((∃ f ∈ s.pool.frames, counts f) ∨ s.openReleases ≠ []) → s.lanes.length = 8 →
      ∃ u, exec .flushAcceptance s = .next (settle (refuseTurns u)) ∧ (s.gate = false → refuseTurns u = u) ∧
        u.intake = rest ∧ u.frontOut = s.frontOut ∧ u.extents = s.extents ∧
        u.tag tag = some { e with stand := .accepted, releases := s.openReleases } ∧
        (∀ n < 7, (u.lane n).openFrame = none ∧ (u.lane n).state = (s.lane n).state ∧ (u.lane n).band = (s.lane n).band) ∧
        ∀ i < s.pool.frames.length,
          (counts (s.frame i) → (u.frame i).waiters = (s.frame i).waiters ++ [tag] ∧
            (u.frame i).bound = (s.frame i).bound) ∧
          (¬ counts (s.frame i) → (u.frame i).waiters = (s.frame i).waiters))) ∧
  -- the end of the wait (R183)
  (∀ (s : State) (tag : Nat) (e : TagEntry), s.tag tag = some e → e.kind = .flush → e.stand = .accepted →
    (∀ (a : Actuator) (issue : BitVec 16) (o : Op) (n id : Nat), s.awaits a issue o → o.kind = .segmentWrite →
      o.req = .lane n → n ≠ 7 → o.frame = some id → tag ∈ (s.frame id).waiters →
      let outcome : Outcome := if e.lostLba.isSome then .lost else if e.releaseFailed then .mediaError else .good
      ∃ u, exec (.segmentWriteResult a issue .done) s = .next (settle u) ∧
        ((∀ j, j ≠ id → tag ∉ (s.frame j).waiters) → e.releases = [] →
          .completion tag outcome 0 ∈ (settle u).frontOut ∧ (settle u).tag tag = none) ∧
        ((e.releases ≠ [] ∨ ∃ j, j ≠ id ∧ tag ∈ (s.frame j).waiters) → u.tag tag = some e)) ∧
    (∀ (issue : BitVec 16) (o : Op) (q : RingSeg) (n : Notice) (r : WriteResult), s.awaits .A issue o →
      o.kind = .segmentWrite → o.req = .ckpt → o.frame = some q.frame →
      s.ck.queue.find? (fun x => decide (x.frame = q.frame)) = some q → q.kind = .notice → s.ck.notice = some n →
      (r = .done ∨ ((r = .writeFault ∨ r = .supplyLate) ∧ 4 ≤ n.attempts + 1)) →
      (∀ x ∈ n.records, x.tag ≠ some tag ∧ ∀ y, x.tag = some y → (s.tag y).isSome) →
      let ended := fun y : Nat => ∃ x ∈ n.records, x.tag = some y
      let failed := e.releaseFailed = true ∨ (r ≠ .done ∧ ∃ y ∈ e.releases, ended y)
      let counted := ∃ i, n.frame ≠ some i ∧ tag ∈ (s.frame i).waiters
      ∃ u, exec (.segmentWriteResult .A issue r) s = .next (settle u) ∧
        ((∀ i, tag ∉ (s.frame i).waiters) → e.releases ≠ [] → (∀ y ∈ e.releases, ended y) →
          (settle u).tag tag = none ∧ ∃ outcome, .completion tag outcome 0 ∈ (settle u).frontOut ∧
            (e.lostLba.isSome → outcome = .lost) ∧ (e.lostLba = none → failed → outcome = .mediaError) ∧
            (e.lostLba = none → ¬ failed → outcome = .good)) ∧
        ((counted ∨ ∃ y ∈ e.releases, ¬ ended y) → ∃ e', u.tag tag = some e' ∧ e'.kind = .flush ∧
          e'.stand = .accepted ∧ e'.lostLba = e.lostLba ∧ (∀ y, y ∈ e'.releases ↔ y ∈ e.releases ∧ ¬ ended y) ∧
          (e'.releaseFailed = true ↔ failed))))

/-- HOLD_TIMER_EXPIRY, once the block at the gate has been held for HOLD_LIMIT, stops the WRITE's pulling (R100, R101,
R181): WRITE_HELD_EXPIRED is posted with the first block not pulled and their number; with pulls unanswered the phase
goes on for them, and without any it ends, a WRITE without DURABLE completing GOOD or PARTLY by its accepted count. The
actuator of the exception is the model's reading (log 20). -/
def Obligations.HoldExpiryEndsWrite : Prop :=
  ∀ (s : State) (p : DataPhase) (t0 : Nat), s.phase = some p → p.holdTimer = some t0 →
    s.work.holdLimit ≤ s.now - t0 →
    ∃ t, exec .holdTimerExpiry s = .next t ∧ t.reports .writeHeldExpired .A (p.lba + p.next) (p.count - p.next) ∧
      (p.unanswered ≠ [] → p.accepted ≠ p.count →
        t.phase = some { p with stopped := true, hold := none, holdTimer := none }) ∧
      (p.unanswered = [] → t.phase = none ∧
        ∀ e, s.tag p.tag = some e → e.kind = .write → e.durable = false → e.count = p.count →
          (if p.accepted = p.count then s.frontOut ++ [FrontMsg.completion p.tag .good p.count]
            else s.frontOut ++ [FrontMsg.completion p.tag .partly p.accepted]) <+: t.frontOut ∧ t.tag p.tag = none)

/-- The timers of lanes 0 to 6 and the idle clock, once they have run: IDLE_LIMIT closes the lane's open frame, which takes
the next sequence when no promise is outstanding (R75, R76), and the lane keeps its band (R78); LANE_RELEASE makes the lane give
up its band and enter CLOSED (R79), and the band, owned by none, is DRAINING while frames are bound in it, the open frame just
closed among them, and else PARKED at the tail of its actuator's list (R46); IDLE_MIGRATE seconds expire the idle clock (R134).
That an open frame which waits on a rebind list closes in place is the model's choice (log 39). -/
def Obligations.TimersThatRunOutAct : Prop :=
  (∀ (s : State) (n t0 : Nat), n ≤ 6 → s.lanes.length = 8 → (s.lane n).idleTimer = some t0 →
    s.work.idleLimit ≤ s.now - t0 → ∃ t, exec (.idleTimerExpiry n) s = .next t ∧ (t.lane n).openFrame = none ∧
      (s.calm → t.bm = s.bm ∧ (t.lane n).state = (s.lane n).state ∧ (t.lane n).act = (s.lane n).act ∧
        (t.lane n).band = (s.lane n).band ∧ (t.lane n).nextLba = (s.lane n).nextLba) ∧
      (∀ id, (s.lane n).openFrame = some id → id < s.pool.frames.length → (s.frame id).promises = 0 →
        (s.frame id).bound.isSome → s.quiet → s.seq.getD 0 + 1 < 2 ^ 48 - 65536 →
        (t.frame id).closed = true ∧ (t.frame id).seq = some (s.seq.getD 0) ∧ t.seq = some (s.seq.getD 0 + 1))) ∧
  (∀ (s : State) (n t0 : Nat), n ≤ 6 → s.lanes.length = 8 → (s.lane n).state = .opened →
    (s.lane n).releaseTimer = some t0 → s.work.laneRelease * 1000 ≤ s.now - t0 →
    ∃ u, exec (.releaseTimerExpiry n) s = .next (settle u) ∧
      let t := settle u
      (t.lane n).state = .closed ∧ (t.lane n).act = none ∧ (t.lane n).band = none ∧ (t.lane n).nextLba = none ∧
      (t.lane n).openFrame = none ∧
      (∀ a b, s.appends n a b → s.bandGivenUp u a b) ∧
      (∀ a b, ¬ s.appends n a b → u.bandRec a b = s.bandRec a b) ∧
      (∀ a, (∀ b, ¬ s.appends n a b) → (u.bm.get a).parked = (s.bm.get a).parked) ∧ (s.calm → t.bm = u.bm)) ∧
  (∀ (s : State) (t0 : Nat), s.work.idleMigrate ≠ 0 → s.rc.idleClock = some t0 →
    s.work.idleMigrate * 1000 ≤ s.now - t0 →
    exec .idleClockExpiry s = .next { s with rc := { s.rc with idleExpired := true } })

/-! ## Frames (chapter 5) -/

/-- FRAME_GRANT offers the FREE frames to the heads in the order META, RECLAIM, READ, WRITE (R91); a head passes below its
class's cap of 8, 48, 64 or 220 frames when what is left covers the unmet floors of the three other classes (R90). The first
that passes is granted the lowest-numbered FREE frame (log 6) and leaves its queue; with no head that passes nothing changes.
What the head then does: a lane holds the frame for its block (R72); a segment read entry and a source read entry enter QUEUED
at the tail of their port's queue (R120, R139); the scanner's task has its frame (R166); the closed notice binds at ring_tail
while 98 segments are free, and keeps the frame otherwise (R152); the close binds once every page has returned DONE (R158);
a page captures the records from the band page cursor on, or after the last band the extent records from the extent cursor
on, the first of them trimmed to it, at most 4,096, is bound at ring_tail, and the frame of the next page, or of the close,
is asked for (R155 to R157); the 64th extent page that leaves records behind abandons the checkpoint with CHECKPOINT_FAILED.
The page's clauses are those of a grant after which the next request waits. The test of stalled entries (R122), which
ReadResolvesEachBlock states, is made once at the end of a grant, the model's reading (log 27). Which page is the last is judged
when a page is bound, the model's choice (log 3). -/
def Obligations.FrameGrantServesFirstHead : Prop :=
  (∀ p : Pool,
    (p.passes .write = true ↔ p.held .write < 220 ∧
      (16 - p.held .read) + (16 - p.held .reclaim) + (4 - p.held .metadata) + 1 ≤ p.freeCount) ∧
    (p.passes .read = true ↔ p.held .read < 64 ∧ (16 - p.held .reclaim) + (4 - p.held .metadata) + 1 ≤ p.freeCount) ∧
    (p.passes .reclaim = true ↔ p.held .reclaim < 48 ∧ (16 - p.held .read) + (4 - p.held .metadata) + 1 ≤ p.freeCount) ∧
    (p.passes .metadata = true ↔ p.held .metadata < 8 ∧ (16 - p.held .read) + (16 - p.held .reclaim) + 1 ≤ p.freeCount)) ∧
  (∀ s : State, s.quiet →
    ((∀ c : FrameClass, s.pool.queue c = [] ∨ s.pool.passes c = false) → exec .frameGrant s = .next s) ∧
    (∀ (n id : Nat) (q : List Requester),
      let c : FrameClass := if n = 7 then .reclaim else .write
      s.pool.queue c = .lane n :: q → s.pool.passes c = true →
      (s.pool.queue .metadata = [] ∨ s.pool.passes .metadata = false) →
      (n = 7 ∨ s.pool.queue .reclaim = [] ∨ s.pool.passes .reclaim = false) →
      (n = 7 ∨ s.pool.queue .read = [] ∨ s.pool.passes .read = false) →
      id < s.pool.frames.length → (s.frame id).state = .free → (∀ j < id, (s.frame j).state ≠ .free) →
      exec .frameGrant s = .next { s with
        pool := ({ s.pool with frames := s.pool.frames.modify id (fun _ =>
          { Frame.free with state := .inUse, cls := some c, owner := some (.lane n) }) } : Pool).setQueue c q
        lanes := s.lanes.modify n (fun x => { x with granted := some id }) })) ∧
  (∀ (s : State) (c : FrameClass) (r : Requester) (q : List Requester) (id : Nat),
    let passed := fun d : FrameClass => s.pool.queue d = [] ∨ s.pool.passes d = false
    s.pool.queue c = r :: q → r.cls = c → s.pool.passes c = true → (c = .metadata ∨ passed .metadata) →
    (c = .metadata ∨ c = .reclaim ∨ passed .reclaim) → (c = .write → passed .read) →
    id < s.pool.frames.length → (s.frame id).state = .free → (∀ j < id, (s.frame j).state ≠ .free) →
    let frame : Frame := { Frame.free with state := .inUse, cls := some c, owner := some r.owner }
    let pool := ({ s.pool with frames := s.pool.frames.modify id (fun _ => frame) } : Pool).setQueue c q
    let served : State := { s with pool := pool }
    let grants := fun v : State => exec .frameGrant s = .next (settle (recycleStalled v)) ∧
      ((∀ l, .readEntry l ∉ v.pool.waitRead) → recycleStalled v = v)
    let ringed := fun (v : State) (kind : RingKind) (seg : SegKind) (payload : List Block) (filled : Nat) =>
      let own : SegLoc := ⟨.A, .ckring, 0, s.ck.ringTail % s.cks⟩
      let seq := s.seq.getD 0
      v.ck.queue = s.ck.queue ++ [⟨kind, id, s.ck.ringTail⟩] ∧ v.ck.ringTail = s.ck.ringTail + 1 ∧
      v.seq = some (seq + 1) ∧ v.frame id = { frame with
        bound := some own, payload := payload, fill := filled, seq := some seq, closed := true
        stamp := some ⟨seg, s.epoch.getD 0, seq, own, 0, [], 0, filled, checkWord (payloadFold payload) seq⟩ }
    (∀ n, r = .lane n → grants { served with lanes := s.lanes.modify n (fun x => { x with granted := some id }) }) ∧
    (∀ l, r = .readEntry l → ∃ v, grants v ∧ v.pool = pool ∧
      (∀ e, s.entry l = some e → v.entry l = some { e with frame := some id, state := .queued }) ∧
      (∀ m, m ≠ l → v.entry m = s.entry m) ∧ v.rs.queues.get l.act = s.rs.queues.get l.act ++ [l]) ∧
    (∀ l, r = .source l → ∃ v, grants v ∧ v.pool = pool ∧
      (∀ e, s.source l = some e → v.source l = some { e with frame := some id, state := .queued }) ∧
      (∀ m, m ≠ l → v.source m = s.source m) ∧ v.rc.srcQueue.get l.act = s.rc.srcQueue.get l.act ++ [l]) ∧
    (∀ a w rest, r = .scanner a → s.recov.work.get a = w :: rest → ∃ v, grants v ∧ v.pool = pool ∧
      v.recov.work.get a = { w with frame := some id } :: rest ∧ v.recov.work.get (other a) = s.recov.work.get (other a)) ∧
    -- the closed notice (R152)
    (∀ n, r = .notice → s.ck.notice = some n → n.bound = false → ∃ v, grants v ∧
      (98 ≤ s.ckFree → ringed v .notice .notice (recordSlots (n.records.map ReleaseRec.bytes)) ((n.records.length + 255) / 256) ∧
        v.ck.notice = some { n with frame := some id, bound := true }) ∧
      (s.ckFree < 98 → v.ck.notice = some { n with frame := some id } ∧ v.ck.queue = s.ck.queue ∧ v.pool = pool)) ∧
    -- the close (R158)
    (∀ g k, r = .close → s.geom = some g → s.ck.run = some k → k.closeBound = false → ∃ v, grants v ∧
      (k.pagesDone = k.pages.length → 1 ≤ s.ckFree →
        ringed v .close .close (closeBlock k.sStart (s.epoch.getD 0) k.startPos k.pagesA k.pagesB k.pagesExt g k.captured
          s.work k.pages :: List.replicate 15 0) 1 ∧
        v.ck.run = some { k with closeFrame := some id, ask := .nothing, closeBound := true }) ∧
      (k.pagesDone ≠ k.pages.length → v.ck.run = some { k with closeFrame := some id, ask := .nothing } ∧
        v.ck.queue = s.ck.queue ∧ v.pool = pool)) ∧
    -- a page (R155 to R157)
    (∀ k, r = .page → s.ck.run = some k → 1 ≤ s.ckFree → (q ≠ [] ∨ pool.passes .metadata = false) →
      let pages := k.pages ++ [s.ck.ringTail]
      let extents := extentsFrom s.extents k.extCursor
      let asks := fun (v : State) (more : Prop) (k' : CkRun) =>
        (more → v.ck.run = some { k' with ask := .page } ∧ v.pool.waitMeta = q ++ [.page]) ∧
        (¬ more → v.ck.run = some { k' with ask := .close } ∧ v.pool.waitMeta = q ++ [.close])
      (∀ a b, k.bandCursor = some (a, b) → ∃ v, grants v ∧
        let records := ((s.bm.get a).bands.drop b).take 4096
        let next := if b + 4096 < s.bpa a then some (a, b + 4096) else if a = .A then some (.B, 0) else none
        ringed v .page .bandpage (recordSlots (records.map (fun x => x.pageBytes k.sStart))) ((records.length + 255) / 256) ∧
        asks v (next ≠ none ∨ extents ≠ []) { k with
          bandCursor := next, pages := pages, pagesA := k.pagesA + (if a = .A then 1 else 0)
          pagesB := k.pagesB + (if a = .B then 1 else 0) }) ∧
      (k.bandCursor = none → extents ≠ [] → (k.pagesExt + 1 < 64 ∨ extents.length ≤ 4096) → TableOk s.extents → ∃ v, grants v ∧
        let records := extents.take 4096
        ringed v .page .extpage (recordSlots (records.map Extent.bytes)) ((records.length + 255) / 256) ∧
        ∀ e, records.getLast? = some e → asks v (4096 < extents.length) { k with
          extCursor := e.stop, pages := pages, pagesExt := k.pagesExt + 1 }) ∧
      (k.bandCursor = none → 64 ≤ k.pagesExt + 1 → 4096 < extents.length → TableOk s.extents → ∃ v, grants v ∧
        v.ck.run = none ∧ v.reports .checkpointFailed .A (extents.length - 4096) 0))) ∧
  ∀ (t : List Extent) (cursor : Nat), TableOk t →
    (∀ e ∈ extentsFrom t cursor, cursor ≤ e.start) ∧
    ∀ x, lookup (extentsFrom t cursor) x = if x < cursor then .unmapped else lookup t x

/-! ## The media ports (chapter 6) -/

/-- ARBITER_RUN at port A issues the head of the checkpoint writer's ring queue before any other requester (R110, R150):
the operation record carries the next issue number, the frame's location and its stamp, the counter advances and the
response timer starts; the latches stand (R103, R113). What it issues for a lane is at its band's written pointer, the band
OPEN or DRAINING (R47, R109), and no RECLAIM READ is issued under the asserted gate (R117). -/
def Obligations.ArbiterServesCheckpointFirst : Prop :=
  (∀ (s : State) (q : RingSeg) (rest : List RingSeg) (l : SegLoc), (s.port .A).up = true → (s.port .A).op = none →
    s.ck.queue = q :: rest → (s.frame q.frame).bound = some l →
    exec (.arbiterRun .A) s = .next (settle { s with ports := { s.ports with a := { s.ports.a with
      op := some ⟨.segmentWrite, s.ports.a.issue, .ckpt, l, 1, .through, 0, some q.frame,
        (s.frame q.frame).stamp.map Stamp.bytes, false, true, false⟩
      issue := (s.ports.a.issue + 1) % 65536
      timer := some s.now } } })) ∧
  (∀ (a : Actuator) (s : State), (s.port a).op = none → ∃ t, exec (.arbiterRun a) s = .next t ∧
    ∀ o, (t.port a).op = some o →
      (∀ n, o.req = .lane n → o.loc.region = .band →
        o.loc.seg = (s.bandRec o.loc.act o.loc.band).written ∧
        ((s.bandRec o.loc.act o.loc.band).state = .opened ∨ (s.bandRec o.loc.act o.loc.band).state = .draining)) ∧
      (s.gate = true → o.req ≠ .reclaim))

/-- ARBITER_RUN otherwise serves a round of READ, lane 0 to lane 7 and RECLAIM READ in that order (R111): the first
that waits with its latch clear, lane 7 and RECLAIM READ also with it set while the actuator is urgent (R112), is
issued and its latch set; with none the latches clear and the first that waits is served. A DOWN or busy port issues
nothing. That a run which finds nobody clears the latches is the model's reading (log 25). -/
def Obligations.ArbiterServesFixedOrder : Prop :=
  ∀ (s : State) (a : Actuator),
    let waits := fun k : Nat => ((s.requests a).getD k none).isSome
    let chosen := fun k : Nat => waits k ∧ ((s.port a).latches.getD k false = false ∨
      (8 ≤ k ∧ s.blankCount a ≤ s.work.reserve))
    let served := fun (k : Nat) (r : Request) (latches : List Bool) => ∃ t, exec (.arbiterRun a) s = .next t ∧
      (t.port a).latches = latches.set k true ∧ (t.port a).issue = ((s.port a).issue + 1) % 65536 ∧
      (t.port a).timer = some s.now ∧ ∃ o, (t.port a).op = some o ∧ o.issue = (s.port a).issue ∧ o.kind = r.kind ∧
        o.req = r.req ∧ o.loc = r.loc ∧ o.frame = r.frame ∧ o.live = true
    (((s.port a).up = false ∨ (s.port a).op.isSome) → exec (.arbiterRun a) s = .next (settle s)) ∧
    ((s.port a).up = true → (s.port a).op = none → (a = .B ∨ s.ck.queue = []) →
      (∀ k r, k < 10 → (s.requests a).getD k none = some r → chosen k → (∀ j < k, ¬ chosen j) →
        served k r (s.port a).latches) ∧
      (∀ k r, k < 10 → (s.requests a).getD k none = some r → (∀ j, ¬ chosen j) → (∀ j < k, ¬ waits j) →
        served k r (List.replicate 10 false)) ∧
      ((∀ k, ¬ waits k) → ∃ t, exec (.arbiterRun a) s = .next t ∧ (t.port a).op = none ∧
        (t.port a).latches = List.replicate 10 false))

/-- SEGMENT_WRITE_RESULT DONE for a lane's frame (R48, R81, R103, R114): the port is idle, the band's written pointer rises
by one, and a DRAINING band becomes FULL at SPB or joins the tail of the parked list when no frame is bound in it; a lane 7
frame joins the commit queue; the last frame of a durable WRITE brings its completion; and a frame without pins is FREE
again. DONE for a notice completes each of its RELEASEs GOOD with its count and frees its tag, and the batch, when it is not
empty, is the next closed notice (R152, R182). -/
def Obligations.SegmentWriteDoneAdvancesBand : Prop :=
  (∀ (s : State) (a : Actuator) (issue : BitVec 16) (o : Op) (n id : Nat), s.awaits a issue o → o.kind = .segmentWrite →
    o.req = .lane n → o.frame = some id →
    let act := o.loc.act
    let b := o.loc.band
    let r := s.bandRec act b
    ∃ t, exec (.segmentWriteResult a issue .done) s = .next t ∧ (t.port a).op = none ∧ (t.port a).timer = none ∧
      (o.loc.region = .band → b < (s.bm.get act).bands.length → b ∉ (s.bm.get act).parked →
        (r.state = .opened ∨ r.state = .draining) →
        (t.bandRec act b).written = r.written + 1 ∧
        (r.state = .draining → r.written + 1 = s.spb →
          (t.bandRec act b).state = .full ∧ (t.bandRec act b).closeSeq = s.seq) ∧
        (r.state = .draining → r.written + 1 ≠ s.spb → r.bound ≤ 1 → s.quiet →
          (t.bandRec act b).state = .parked ∧ (t.bm.get act).parked = (s.bm.get act).parked ++ [b])) ∧
      (n = 7 → t.rc.commitQ = s.rc.commitQ ++ [id]) ∧
      (n ≠ 7 → ∀ w e, (s.frame id).waiters = [w] → (∀ j, j ≠ id → w ∉ (s.frame j).waiters) → s.tag w = some e →
        e.kind = .write → e.stand = .accepted → e.durable = true → e.lostLba = none → e.accepted = e.count →
        s.frontOut ++ [.completion w .good e.count] <+: t.frontOut ∧ t.tag w = none) ∧
      (n ≠ 7 → s.quiet → (s.frame id).waiters = [] → (s.frame id).state = .inUse → (s.frame id).pins = 0 →
        (t.frame id).state = .free)) ∧
  (∀ (s : State) (issue : BitVec 16) (o : Op) (q : RingSeg) (n : Notice), s.awaits .A issue o → o.kind = .segmentWrite →
    o.req = .ckpt → o.frame = some q.frame → s.ck.queue.find? (fun x => decide (x.frame = q.frame)) = some q →
    q.kind = .notice → s.ck.notice = some n →
    ∃ t, exec (.segmentWriteResult .A issue .done) s = .next t ∧ (t.port .A).op = none ∧
      (∀ r ∈ n.records, ∀ tag e, r.tag = some tag → s.tag tag = some e → e.kind = .release →
        .completion tag .good e.count ∈ t.frontOut ∧ t.tag tag = none) ∧
      (s.ck.batch = [] → t.ck.notice = none) ∧
      (s.ck.batch ≠ [] → t.ck.batch = [] ∧ ∃ m, t.ck.notice = some m ∧ m.records = s.ck.batch ∧ m.attempts = 0))

/-- SEGMENT_WRITE_RESULT WRITE_FAULT or SUPPLY_LATE for a lane's frame in a band truncates the band at its written pointer:
FULL, without an owner, reserved down to written, closed at SEQ, its health one worse after a WRITE_FAULT, up to 3; and the
exception is posted (R49, R51). For a cache segment the exception alone is posted (R59). For a notice CHECKPOINT_FAILED is
posted with its ring index and it binds again at ring_tail while free allows it; after the fourth failed attempt its
RELEASEs complete MEDIA_ERROR and a checkpoint is requested (R153, R182). For a page or a close CHECKPOINT_FAILED is posted,
no checkpoint runs any longer, ring_tail goes back to the rewind point, and a checkpoint starts again, the wanted flag as it
was, where one can start, and is wanted elsewhere; after the fourth failure since FORMAT the part is HALTED (R160, R176).
That the start itself is a later command is the model's (log 3). The page of a checkpoint that was abandoned during its
write keeps its frame until the result, which frees it (R104, R113); that such a failure is posted too, and changes nothing
else of the writer, is the model's choice (log 40). -/
def Obligations.FailedWriteTruncatesBand : Prop :=
  (∀ (s : State) (a : Actuator) (issue : BitVec 16) (o : Op) (n id : Nat) (r : WriteResult), s.awaits a issue o →
    o.kind = .segmentWrite → o.req = .lane n → o.frame = some id → (r = .writeFault ∨ r = .supplyLate) →
    let kind : ExcKind := if r = .writeFault then .writeFault else .supplyLate
    let old := s.bandRec o.loc.act o.loc.band
    ∃ t, exec (.segmentWriteResult a issue r) s = .next t ∧ (t.port a).op = none ∧
      (o.loc.region = .band → o.loc.band < (s.bm.get o.loc.act).bands.length →
        o.loc.band ∉ (s.bm.get o.loc.act).parked →
        let new := t.bandRec o.loc.act o.loc.band
        new.state = .full ∧ new.written = old.written ∧ new.reserved = old.written ∧ new.owner = none ∧
        new.closeSeq = s.seq ∧ new.health = (if r = .writeFault then min (old.health + 1) 3 else old.health) ∧
        t.reports kind o.loc.act o.loc.band old.written) ∧
      (o.loc.region ≠ .band → t.reports kind o.loc.act o.loc.seg 0)) ∧
  (∀ (s : State) (issue : BitVec 16) (o : Op) (q : RingSeg) (r : WriteResult), s.awaits .A issue o →
    o.kind = .segmentWrite → o.req = .ckpt → o.frame = some q.frame →
    s.ck.queue.find? (fun x => decide (x.frame = q.frame)) = some q → (r = .writeFault ∨ r = .supplyLate) →
    (∀ n, q.kind = .notice → s.ck.notice = some n → n.frame = some q.frame →
      ∃ t, exec (.segmentWriteResult .A issue r) s = .next t ∧ (t.port .A).op = none ∧
        t.reports .checkpointFailed .A (q.ctr % s.cks) 0 ∧
        (n.attempts + 1 < 4 → ∃ m, t.ck.notice = some m ∧ m.records = n.records ∧ m.attempts = n.attempts + 1 ∧
          (98 ≤ s.ckFree → m.bound = true ∧ t.ck.ringTail = s.ck.ringTail + 1 ∧
            ⟨.notice, q.frame, s.ck.ringTail⟩ ∈ t.ck.queue) ∧
          (s.ckFree < 98 → m.bound = false ∧ t.ck.ringTail = s.ck.ringTail)) ∧
        (4 ≤ n.attempts + 1 → t.ck.wanted = true ∧
          ∀ x ∈ n.records, ∀ tag e, x.tag = some tag → s.tag tag = some e → e.kind = .release →
            .completion tag .mediaError e.lba ∈ t.frontOut ∧ t.tag tag = none)) ∧
    (∀ run, q.kind ≠ .notice → s.ck.run = some run → (∀ n, s.ck.notice = some n → n.bound = true ∨ n.frame = none) →
      let possible := (s.service = .ready ∨ s.service = .formatting) ∧ (s.port .A).up = true ∧ s.gate = false
      let last := ∃ k, s.ck.formatTries = some k ∧ 4 ≤ k + 1
      ∃ u, exec (.segmentWriteResult .A issue r) s = .next (settle u) ∧
        u.reports .checkpointFailed .A (q.ctr % s.cks) 0 ∧ u.ck.run = none ∧
        u.ck.ringTail = max run.startPos run.noticeEnd ∧ u.ck.queue = s.ck.queue.filter (fun x => x.kind = .notice) ∧
        (run.answers = true → u.maint.awaitStart = true) ∧
        (¬ last → possible → u.ck.restart = true ∧ u.ck.wanted = s.ck.wanted) ∧
        (¬ last → ¬ possible → u.ck.wanted = true) ∧
        (last → u.service = .halted ∧ u.ck.wanted = false))) ∧
  ∀ (s : State) (issue : BitVec 16) (o : Op) (id : Nat) (r : WriteResult), s.awaits .A issue o → o.kind = .segmentWrite →
    o.req = .ckpt → o.frame = some id → (∀ x ∈ s.ck.queue, x.frame ≠ id) → r ≠ .notReady →
    ∃ u, exec (.segmentWriteResult .A issue r) s = .next (settle u) ∧ u.ck = s.ck ∧
      (r = .done → u.exceptions = s.exceptions) ∧ (r ≠ .done → u.reports .checkpointFailed .A o.loc.seg 0) ∧
      (id < s.pool.frames.length → (s.frame id).state = .inUse → (s.frame id).pins = 0 → (u.frame id).state = .free)

/-- A lane's frame whose write failed joins the rebind list with its attempt count raised, after it, for a failure in a band,
the lane's other frames bound above it there, the queued ones in queue order and the open one last (R84); the list is worked
from its head. A frame at attempt count 4 is abandoned (R85): the blocks still at its slots are LOST and no others, DATA_LOST
is posted with the lowest and their number when there are any, a WRITE or FLUSH that waited for it last completes, LOST where
it was told so (R81), the band's bound frames fall by one and the frame is released; the moves of a lane 7 frame are RETURNED
(R143). A frame below 4 is bound to a fresh location, or the lane is FAULTED (R86): with records free, each block of a frame
of lane 0 to 6 that the map still keeps at its slot moves to the same slot of the new location and no other LBA changes, and a
lane 7 frame changes nothing in the map; a frame that had closed takes a new sequence and a stamp with its new own location,
and joins its lane's queue for the port. There a frame rebound or just closed stands by R77 directly after the last frame of
its band or ring at a lower position, else directly ahead of the first at a higher one, else at the head or the tail. Where
frames with a close pending stand on the list is the model's choice (log 39); a frame in flight stays at the head of the queue
(R113, R114), and that a frame which R77 would put ahead of it stands behind it is the model's resolution (log 46). -/
def Obligations.ReboundFrameTakesItsBlocks : Prop :=
  (∀ (s : State) (n id : Nat) (l loc : SegLoc) (ctr : Nat), n ≠ 7 → id < s.pool.frames.length →
    (s.frame id).bound = some l → loc ≠ l → (s.frame id).fill ≤ 16 → TableOk s.extents → 34 ≤ s.freeRecords →
    let t := moveFrame n id loc ctr s
    let moved := fun lba k : Nat =>
      k < (s.frame id).fill ∧ runsLba (s.frame id).runs k = some lba ∧ lookup s.extents lba = .media ⟨l, k⟩
    (t.frame id).bound = some loc ∧
    (∀ lba k, moved lba k → lookup t.extents lba = .media ⟨loc, k⟩) ∧
    (∀ lba, (∀ k, ¬ moved lba k) → lookup t.extents lba = lookup s.extents lba) ∧
    ((s.frame id).closed = true → ∃ seq st, s.seq.getD 0 ≤ seq ∧ (t.frame id).seq = some seq ∧
      (t.frame id).stamp = some st ∧ st.own = loc ∧ st.seq = seq) ∧
    ∀ h rest, h ≠ id → (s.lane n).queues.get loc.act = h :: rest → s.writing loc.act h = true →
      ∃ rest', (t.lane n).queues.get loc.act = h :: rest' ∧ ((s.frame id).closed = true → id ∈ rest')) ∧
  -- the place in the queue (R77)
  (∀ (s : State) (n id : Nat) (loc : SegLoc) (ctr : Nat), n < 8 → s.lanes.length = 8 → id < s.pool.frames.length →
    let q := (s.lane n).queues.get loc.act
    let placed := fun (rebound : Prop) (t : State) =>
      let near := fun i : Nat => ∃ m, (t.frame i).bound = some m ∧ m.act = loc.act ∧ m.region = loc.region ∧ m.band = loc.band
      let pos : Nat → Nat := fun i => match (t.frame i).bound with
        | some m => if m.region = Region.cache then (t.frame i).ringCtr else m.seg
        | none => 0
      let lower := fun i => near i ∧ pos i < pos id
      let higher := fun i => near i ∧ pos id < pos i
      let q' := (t.lane n).queues.get loc.act
      id ∈ q' ∧
      (∀ before x rest, q = before ++ x :: rest → lower x → (∀ y ∈ rest, ¬ lower y) → q' = before ++ x :: id :: rest) ∧
      ((∀ x ∈ q, ¬ lower x) →
        (∀ before x rest, q = before ++ x :: rest → higher x → (∀ y ∈ before, ¬ higher y) →
          q' = if before = [] ∧ s.writing loc.act x = true then x :: id :: rest else before ++ id :: x :: rest) ∧
        ((∀ x ∈ q, ¬ higher x) →
          (¬ rebound → q' = q ++ [id]) ∧ (rebound → q = [] → q' = [id]) ∧
          (rebound → ∀ x rest, q = x :: rest →
            q' = if s.writing loc.act x = true then x :: id :: rest else id :: x :: rest)))
    id ∉ q →
    ((s.frame id).bound.isSome → (s.frame id).closed = true → placed True (moveFrame n id loc ctr s)) ∧
    ((s.frame id).bound = some loc → id ∉ (s.lane n).rebind → placed False (sealFrame n id s)) ∧
    ((s.frame id).bound = some loc → id ∈ (s.lane n).rebind → (sealFrame n id s).lane n = s.lane n) ∧
    (n = 7 → (s.frame id).bound.isSome → (moveFrame n id loc ctr s).extents = s.extents)) ∧
  -- the rebind list (R84)
  (∀ (s : State) (a : Actuator) (issue : BitVec 16) (o : Op) (n id : Nat) (r : WriteResult), s.awaits a issue o →
    o.kind = .segmentWrite → o.req = .lane n → o.frame = some id → (r = .writeFault ∨ r = .supplyLate) →
    ∃ u, exec (.segmentWriteResult a issue r) s = .next (settle (failFrame n id u)) ∧ u.pool = s.pool ∧
      u.extents = s.extents ∧ u.tags = s.tags ∧ u.frontOut = s.frontOut ∧ ∀ k, (u.lane k).rebind = (s.lane k).rebind ∧
        (u.lane k).queues = (s.lane k).queues ∧ (u.lane k).openFrame = (s.lane k).openFrame) ∧
  (∀ (s : State) (n id : Nat) (l : SegLoc), n < 8 → s.lanes.length = 8 → id < s.pool.frames.length →
    (s.frame id).bound = some l →
    let c := s.lane n
    let above : Nat → Bool := fun i => match (s.frame i).bound with
      | some m => decide (l.region = .band ∧ m.act = l.act ∧ m.region = .band ∧ m.band = l.band ∧ l.seg < m.seg)
      | none => false
    ∃ u pending,
      let later := (c.queues.get l.act).filter above ++ pending ++ c.openFrame.toList.filter above
      failFrame n id s = workRebindList n u ∧
      u = { s with pool := u.pool, lanes := u.lanes } ∧ u.pool = { s.pool with frames := u.pool.frames } ∧
      (∀ i, u.frame i = if i = id then { s.frame id with attempts := (s.frame id).attempts + 1 } else s.frame i) ∧
      (u.lane n).rebind = c.rebind ++ id :: later.filter (fun i => decide (i ∉ c.rebind)) ∧
      (∀ b, (u.lane n).queues.get b = (c.queues.get b).filter (fun i => decide (i ≠ id ∧ i ∉ later))) ∧
      (u.lane n).openFrame = c.openFrame ∧ (u.lane n).state = c.state ∧ (∀ k, k ≠ n → u.lane k = s.lane k) ∧
      (∀ i, i ∈ pending ↔ i < s.pool.frames.length ∧ (s.frame i).state = .inUse ∧ (s.frame i).owner = some (.lane n) ∧
        (s.frame i).closePending = true ∧ above i = true)) ∧
  (∀ (s : State) (n id : Nat) (rest : List Nat) (l : SegLoc), n < 8 → s.lanes.length = 8 →
    (s.lane n).rebind = id :: rest → id ∉ rest → (s.frame id).bound = some l →
    (4 ≤ (s.frame id).attempts → workRebindList n s = workRebindList n (abandonFrame n id s)) ∧
    ((s.frame id).attempts < 4 →
      (∀ loc ctr u, laneLocation n s = (some (loc, ctr), u) → workRebindList n s = workRebindList n (moveFrame n id loc ctr u)) ∧
      (∀ u, laneLocation n s = (none, u) → ((workRebindList n s).lane n).state = .faulted ∧
        ((workRebindList n s).lane n).rebind = id :: rest ∧ (workRebindList n s).frame id = s.frame id ∧
        (workRebindList n s).extents = s.extents))) ∧
  -- abandonment (R85)
  (∀ (s : State) (n id : Nat) (l : SegLoc), n < 8 → id < s.pool.frames.length → (s.frame id).bound = some l →
    let f := s.frame id
    let t := abandonFrame n id s
    let blocks := f.runs.flatMap (fun r => (List.range r.len).map (fun k => (r.start + k, r.first + k)))
    let gone := fun x => ∃ k, (x, k) ∈ blocks ∧ lookup s.extents x = .media ⟨l, k⟩
    (t.lane n).rebind = (s.lane n).rebind.filter (fun i => i ≠ id) ∧
    (f.state = .inUse → f.pins = 0 → (t.frame id).state = .free) ∧
    (l.region = .band → l.band < (s.bm.get l.act).bands.length →
      (t.bandRec l.act l.band).bound = (s.bandRec l.act l.band).bound - 1) ∧
    (n = 7 → t.extents = s.extents ∧ t.exceptions = s.exceptions ∧ ∀ j, s.rc.job = some j →
      let back : Move → Bool := fun m => decide (m.state = .inLane ∧ ∃ k < f.fill, runsLba f.runs k = some m.lba ∧
        runsSource f.runs k = some m.src)
      t.rc.job = some { j with
        moves := j.moves.map (fun m => if back m then { m with state := .returned } else m)
        returned := min (j.returned + j.moves.countP back) (2 ^ 32 - 1) }) ∧
    (n ≠ 7 → TableOk s.extents → (∀ b ∈ blocks, b.2 < 16) → (blocks.map (fun b => b.2)).Nodup →
      2 * blocks.length ≤ s.freeRecords →
      (∀ x, (gone x → lookup t.extents x = .lost) ∧ (¬ gone x → lookup t.extents x = lookup s.extents x)) ∧
      ((∀ x, ¬ gone x) → ∀ x : Exc, x.kind = .dataLost → (x ∈ t.exceptions ↔ x ∈ s.exceptions)) ∧
      (∀ lo, gone lo → (∀ x, gone x → lo ≤ x) → t.reports .dataLost l.act lo
        (blocks.countP (fun b => decide (lookup s.extents b.1 = .media ⟨l, b.2⟩)))) ∧
      ∀ w e, w ∈ f.waiters → s.tag w = some e → e.stand = .accepted → (∀ i, i ≠ id → w ∉ (s.frame i).waiters) →
        (∀ lo, gone lo → (∀ x, gone x → lo ≤ x) → e.lba ≤ lo → lo < e.lba + e.count → e.kind = .write → e.durable = true →
          e.lostLba = none → .completion w .lost lo ∈ t.frontOut ∧ t.tag w = none) ∧
        (e.kind = .flush → e.releases = [] → t.tag w = none ∧
          (((∃ x, gone x) ∨ e.lostLba.isSome) → .completion w .lost 0 ∈ t.frontOut) ∧
          ((∀ x, ¬ gone x) → e.lostLba = none → e.releaseFailed = false → .completion w .good 0 ∈ t.frontOut))))

/-- SEGMENT_READ_RESULT for a segment read entry that READs wait for (R105, R121, R124): a GOOD segment whose stamp agrees with
every interested block makes the entry READY with the payload in its frame; NOT_READY leaves it queued with its attempts and
takes an UP port DOWN; UNREADABLE, another verdict, or a stamp that disagrees counts an attempt, and the third fails the entry,
so that a READ whose next block lies there completes MEDIA_ERROR at that block with READ_FAILED posted; for an entry that was
recycled after it had delivered blocks of the READ, that the failing LBA is the lowest not yet delivered is the model's choice
(log 35). For a source read of the reclaim engine, of a job whose entries have each their own LBA (R139, R140): a GOOD segment
whose stamp agrees with the current blocks makes these HELD and the others DEAD; NOT_READY leaves it queued; any other result
makes the others DEAD and counts an attempt, the source being tried again while current blocks are left, and the third makes
these LOST in the map and in the job, with MOVE_FAILED posted. For an AHEAD entry (R128, R130): GOOD makes it READY with the
payload in its frame, NOT_READY leaves it queued with its frame, and any other result drops it, its frame released and no
exception posted; that GOOD needs no agreement with a block here is the model's reading (log 23), as is the detail of PORT_DOWN,
counted before lanes give up (log 20). An entry dropped in flight, or
without an interested READ since a front-link reset, is deleted at its result whatever that is (R123, R126, R130): its frame and
the pins of the dropped READs are released, and an EVACUATED band whose last pin goes returns to BLANK when a checkpoint has
passed it (R54, R55, R61). -/
def Obligations.SegmentReadResultsReachEntry : Prop :=
  (∀ (s : State) (a : Actuator) (issue : BitVec 16) (o : Op) (e : ReadEntry), s.awaits a issue o →
    o.kind = .segmentRead → o.req = .read → s.entry o.loc = some e → (s.rs.entries.map (fun x => x.loc)).Nodup →
    let l := o.loc
    let released := fun u : State => u.entry l = none ∧ l ∉ u.rs.queues.get l.act ∧ .readEntry l ∉ u.pool.waitRead ∧
      ∀ id, e.frame = some id → id < s.pool.frames.length → (s.frame id).state = .inUse → (s.frame id).pins = 0 →
        (u.frame id).state = .free
    let goesDown := fun (res : ReadResult) (u : State) => res = .notReady → (s.port a).up = true → o.beforeUp = false →
      (u.port a).up = false ∧ u.reports .portDown a (s.queuedFor a) 0
    (e.ahead = true → e.dropped = false → e.droppedPins = 0 → e.interested = [] →
      (∀ header trailer payload,
        (judge s.geom s.epoch l header trailer (payloadFold payload)).verdict = .good →
        ∃ u, exec (.segmentReadResult a issue (.done header trailer payload)) s = .next (settle u) ∧
          u.entry l = some { e with state := .ready } ∧ l ∉ u.rs.queues.get l.act ∧ (u.port a).op = none ∧
          u.rs.reads = s.rs.reads ∧ u.frontOut = s.frontOut ∧ u.exceptions = s.exceptions ∧
          ∀ id, o.frame = some id → id < s.pool.frames.length → u.frame id = { s.frame id with payload := payload }) ∧
      (∃ u, exec (.segmentReadResult a issue .notReady) s = .next (settle u) ∧
        u.entry l = some { e with state := .queued } ∧ u.rs.queues = s.rs.queues ∧ goesDown .notReady u) ∧
      (∀ res, (res = .unreadable ∨ ∃ header trailer payload, res = .done header trailer payload ∧
          (judge s.geom s.epoch l header trailer (payloadFold payload)).verdict ≠ .good) →
        ∃ u, exec (.segmentReadResult a issue res) s = .next (settle u) ∧ released u ∧
          u.rs.reads = s.rs.reads ∧ u.frontOut = s.frontOut ∧ u.exceptions = s.exceptions)) ∧
    ((e.dropped = true ∨ (e.ahead = false ∧ e.interested = [])) → ∀ res : ReadResult,
      ∃ u, exec (.segmentReadResult a issue res) s = .next (settle u) ∧ released u ∧ goesDown res u ∧
        u.rs.reads = s.rs.reads ∧ u.frontOut = s.frontOut ∧
        (l.region = .band → l.band < (s.bm.get l.act).bands.length →
          let r := s.bandRec l.act l.band
          (u.bandRec l.act l.band).readPins = r.readPins - e.droppedPins ∧
          (r.state = .evacuated → 0 < e.droppedPins → r.readPins = e.droppedPins →
            r.evacSeq.getD 0 < s.cleared.getD 0 → r.health < 3 → (u.bandRec l.act l.band).state = .blank)) ∧
        (l.region = .cache → u.ring l.act = ((unpinCache l.act l.seg)^[e.droppedPins] s).ring l.act))) ∧
  (∀ (s : State) (a : Actuator) (issue : BitVec 16) (o : Op) (e : ReadEntry), s.awaits a issue o →
    o.kind = .segmentRead → o.req = .read → s.entry o.loc = some e → e.ahead = false → e.dropped = false →
    e.droppedPins = 0 → e.interested ≠ [] →
    let failed := fun r : ReadResult => r = .unreadable ∨ ∃ header trailer payload, r = .done header trailer payload ∧
      let j := judge s.geom s.epoch o.loc header trailer (payloadFold payload)
      (j.verdict ≠ .good ∨ ∃ st, j.stamp = some st ∧ s.agreesAll e st = false)
    (∀ header trailer payload st,
      (judge s.geom s.epoch o.loc header trailer (payloadFold payload)).verdict = .good →
      (judge s.geom s.epoch o.loc header trailer (payloadFold payload)).stamp = some st → s.agreesAll e st = true →
      s.pool.waitRead = [] → s.calm →
      ∃ t e', exec (.segmentReadResult a issue (.done header trailer payload)) s = .next t ∧ (t.port a).op = none ∧
        t.entry o.loc = some e' ∧ e'.state = .ready ∧
        ∀ id, o.frame = some id → id < s.pool.frames.length → (t.frame id).payload = payload) ∧
    (s.unfaulted → ∃ t e', exec (.segmentReadResult a issue .notReady) s = .next t ∧ t.entry o.loc = some e' ∧
      e'.state = .queued ∧ e'.attempts = e.attempts ∧
      ((s.port a).up = true → o.beforeUp = false → (t.port a).up = false ∧ t.reports .portDown a (s.queuedFor a) 0)) ∧
    (s.unfaulted → e.attempts + 1 < 3 → ∀ res, failed res →
      ∃ t e', exec (.segmentReadResult a issue res) s = .next t ∧
        t.entry o.loc = some e' ∧ e'.attempts = e.attempts + 1 ∧ e'.state ≠ .ready) ∧
    (e.attempts + 1 = 3 → ∀ res, failed res → ∀ tag r slot, e.interested = [tag] → s.readRec tag = some r →
      (r.needs o.loc).head? = some (r.next, slot) →
      ∃ t, exec (.segmentReadResult a issue res) s = .next t ∧ t.entry o.loc = none ∧
        s.frontOut ++ [.completion tag .mediaError (r.lba + r.next)] <+: t.frontOut ∧
        t.reports .readFailed o.loc.act (r.lba + r.next) (r.count - r.next))) ∧
  (∀ (s : State) (a : Actuator) (issue : BitVec 16) (o : Op) (e : SourceRead) (job : Job), s.awaits a issue o →
    o.kind = .segmentRead → o.req = .reclaim → s.source o.loc = some e → s.flying o.loc = some e → s.rc.job = some job →
    (job.moves.map (fun m => m.lba)).Nodup →
    let mine := fun m : Move => m.state = .pending ∧ m.src.segment = o.loc
    let current := fun m : Move => lookup s.extents m.lba = .media m.src
    let after := fun (st : MoveState) (u : State) => u.moves = job.moves.map (fun m =>
      if mine m then { m with state := if current m then st else .dead } else m)
    let failed := fun r : ReadResult => r = .unreadable ∨ ∃ header trailer payload, r = .done header trailer payload ∧
      let j := judge s.geom s.epoch o.loc header trailer (payloadFold payload)
      (j.verdict ≠ .good ∨ ∃ st, j.stamp = some st ∧ ∃ m ∈ job.moves, mine m ∧ current m ∧ st.agrees m.lba m.src.slot = false)
    (∀ header trailer payload st,
      (judge s.geom s.epoch o.loc header trailer (payloadFold payload)).verdict = .good →
      (judge s.geom s.epoch o.loc header trailer (payloadFold payload)).stamp = some st →
      (∀ m ∈ job.moves, mine m → current m → st.agrees m.lba m.src.slot = true) →
      ∃ u, exec (.segmentReadResult a issue (.done header trailer payload)) s = .next (settle u) ∧ after .held u) ∧
    (∃ u, exec (.segmentReadResult a issue .notReady) s = .next (settle u) ∧ u.moves = job.moves ∧
      u.source o.loc = some { e with state := .queued }) ∧
    (e.attempts + 1 < 3 → ∀ res, failed res →
      ∃ u, exec (.segmentReadResult a issue res) s = .next (settle u) ∧ after .pending u ∧
        ((∃ m ∈ job.moves, mine m ∧ current m) →
          u.source o.loc = some { e with attempts := e.attempts + 1, state := .queued }) ∧
        ((∀ m ∈ job.moves, mine m → ¬ current m) → u.source o.loc = none)) ∧
    (3 ≤ e.attempts + 1 → ∀ res, failed res → (∃ m ∈ job.moves, mine m ∧ current m) → TableOk s.extents →
      2 * job.moves.length ≤ s.freeRecords →
      ∃ u, exec (.segmentReadResult a issue res) s = .next (settle u) ∧ u.source o.loc = none ∧
        (u.rc.job ≠ none → after .lost u) ∧
        (∀ x, lookup u.extents x =
          if ∃ m ∈ job.moves, m.lba = x ∧ mine m ∧ current m then .lost else lookup s.extents x) ∧
        ∃ x ∈ u.exceptions, x.kind = .moveFailed ∧ x.act = job.act ∧
          x.detail2 = job.moves.countP (fun m => decide (mine m) && decide (current m)) ∧
          (∃ m ∈ job.moves, m.lba = x.detail1 ∧ mine m ∧ current m) ∧
          ∀ m ∈ job.moves, mine m → current m → x.detail1 ≤ m.lba))

/-- PORT_DOWN at an UP port posts PORT_DOWN with the closed frames queued for it, takes it DOWN, and no stream lane
holds a band on its actuator any longer (R80, R107, R108); PORT_UP takes it UP, an operation in flight having been
issued before this entry to UP, and a job paused for the port goes on (R107, R146). RESPONSE_TIMER_EXPIRY, after 20
seconds for a read or write and 60 for a scan, ends the operation as though NOT_READY: the port is idle and DOWN,
PORT_DOWN posted, unless the operation was issued before the port's latest entry to UP (R103, R107). A job of the actuator
that still stands after PORT_DOWN is paused (R146); no step of a paused job makes a source read entry, hands a block, opens
a frame of lane 7 or begins a pass. That the count is taken before lanes give up their bands is the model's reading (log 20),
and when a cache job's pass that ends in a pause ends the job too (log 37). -/
def Obligations.PortsGoDownAndUp : Prop :=
  (∀ (s : State) (a : Actuator),
    ((s.port a).up = true → ∃ t, exec (.portDown a) s = .next t ∧ (t.port a).up = false ∧
      (t.port a).op = (s.port a).op ∧ t.reports .portDown a (s.queuedFor a) 0 ∧
      (s.lanes.length = 8 → ∀ n < 6, ¬ ((t.lane n).band.isSome ∧ (t.lane n).act = some a)) ∧
      (∀ j, s.rc.job = some j → j.act = a → ∀ j', t.rc.job = some j' → j'.act = a ∧ j'.pausePort = true)) ∧
    ((s.port a).up = false → exec (.portUp a) s = .next (settle { s with
      ports := s.ports.modify a (fun p => { p with up := true, op := p.op.map (fun o => { o with beforeUp := true }) })
      rc := { s.rc with job := s.rc.job.map (fun j => if j.act = a then { j with pausePort := false } else j) } }))) ∧
  (∀ (s : State) (a : Actuator) (o : Op) (t0 : Nat), (s.port a).op = some o → (s.port a).timer = some t0 →
    (if o.kind = .stampScan then 60000 else 20000) ≤ s.now - t0 →
    ∃ t, exec (.responseTimerExpiry a) s = .next t ∧ (t.port a).op = none ∧ (t.port a).timer = none ∧
      (o.beforeUp = true → (t.port a).up = (s.port a).up) ∧
      (o.beforeUp = false → (s.port a).up = true → (t.port a).up = false ∧ t.reports .portDown a (s.queuedFor a) 0)) ∧
  (∀ (s t : State) (j : Job), s.rc.job = some j → (j.pausePort = true ∨ j.pauseProtect = true) → pumpStep s = some t →
    t.extents = s.extents ∧ (∀ e ∈ t.rc.sources, ∃ e' ∈ s.rc.sources, e.loc = e'.loc) ∧
    ((t.lane 7).openFrame = none ∨ (t.lane 7).openFrame = (s.lane 7).openFrame) ∧
    ∀ j', t.rc.job = some j' → j'.moves = j.moves ∨ (j'.moves = [] ∧ j'.running = false))

/-! ## Checkpoints (chapter 9) and cache rings (chapter 3) -/

/-- CHECKPOINT_START, with a checkpoint wanted, none running, READY or FORMATTING, port A UP and the gate deasserted,
starts one: S_start is SEQ as it stands, the start position is ring_tail, and the counters of both cache rings are
captured (R63, R154, R155); the wanted flag is clear, whether the first page's frame is granted at once or waits, but for
the start that follows an abandonment, which leaves it as it stands (R160); a running CHECKPOINT command that waits for a
start is the one it answers (R189). A META frame granted at once captures the first band page of A at the start position
(R155). Otherwise nothing starts. That a start is a command of its own, and so the flag for the start after an abandonment,
is the model's (log 3). -/
def Obligations.CheckpointStartCaptures : Prop :=
  ∀ s : State,
    let can := s.ck.run = none ∧ (s.ck.wanted = true ∨ s.ck.restart = true) ∧ (s.service = .ready ∨ s.service = .formatting) ∧
      (s.port .A).up = true ∧ s.gate = false
    (can → ∃ t r, exec .checkpointStart s = .next t ∧ t.ck.run = some r ∧ r.sStart = s.seq.getD 0 ∧
      r.startPos = s.ck.ringTail ∧
      r.captured = ⟨⟨(s.ring .A).freeHead, (s.ring .A).migrateHead, (s.ring .A).tail⟩,
        ⟨(s.ring .B).freeHead, (s.ring .B).migrateHead, (s.ring .B).tail⟩⟩ ∧
      r.answers = (s.maint.busy && s.maint.awaitStart) ∧ t.maint.awaitStart = false ∧ t.cleared = s.cleared ∧
      t.ck.restart = false ∧
      (s.quiet → s.seq.getD 0 + 8 < 2 ^ 48 - 65536 → t.ck.wanted = (s.ck.wanted && s.ck.restart)) ∧
      (s.pool.queue .metadata = [] → s.pool.passes .metadata = true → 1 ≤ s.ckFree →
        r.pages.head? = some s.ck.ringTail ∧ 1 ≤ r.pagesA)) ∧
    (¬ can → exec .checkpointStart s = .next (settle s))

/-- SEGMENT_WRITE_RESULT DONE for a page of the running checkpoint (R150, R158): the page leaves the ring queue and its frame
is released, and with the last of the pages the close that holds its frame closes at ring_tail, its slot 0 as section 13.3
gives it and its other slots zero, behind what the queue holds; before that nothing is bound. DONE for the close completes the checkpoint
(R54, R62, R159, R176, R189): the cleared sequence is S_start, ring_start the start position, no checkpoint runs; EVACUATED
bands below the cleared sequence and without pins become BLANK, or RETIRED with BAND_RETIRED at health 3; each ring's free
target rises to the captured migrate_head; the CHECKPOINT command is answered; and a part FORMATTING becomes READY. That no
checkpoint runs after the completion also where the wanted flag stands and a start is possible, the next one starting at a
CHECKPOINT_START, is the model's reading of R159 step 8 (log 3). -/
def Obligations.CheckpointCompletionClears : Prop :=
  (∀ (s : State) (issue : BitVec 16) (o : Op) (q : RingSeg) (r : CkRun), s.awaits .A issue o → o.kind = .segmentWrite →
    o.req = .ckpt → o.frame = some q.frame → s.ck.queue.find? (fun x => decide (x.frame = q.frame)) = some q →
    q.kind = .page → s.ck.run = some r →
    let rest := s.ck.queue.filter (fun x => decide (x.frame ≠ q.frame))
    let r' : CkRun := { r with pagesDone := r.pagesDone + 1 }
    ∃ u, exec (.segmentWriteResult .A issue .done) s = .next (settle u) ∧ (u.port .A).op = none ∧
      (r.closeFrame ≠ some q.frame → (s.frame q.frame).state = .inUse → (s.frame q.frame).pins = 0 →
        (u.frame q.frame).state = .free) ∧
      (∀ g id, s.geom = some g → r.closeFrame = some id → r.closeBound = false → r.pagesDone + 1 = r.pages.length →
        1 ≤ s.ckFree → id ≠ q.frame → id < s.pool.frames.length →
        let own : SegLoc := ⟨.A, .ckring, 0, s.ck.ringTail % s.cks⟩
        let payload := closeBlock r.sStart (s.epoch.getD 0) r.startPos r.pagesA r.pagesB r.pagesExt g r.captured s.work r.pages ::
          List.replicate 15 0
        let seq := s.seq.getD 0
        u.ck.run = some { r' with closeBound := true } ∧ u.ck.queue = rest ++ [⟨.close, id, s.ck.ringTail⟩] ∧
        u.ck.ringTail = s.ck.ringTail + 1 ∧ u.seq = some (seq + 1) ∧ u.frame id = { s.frame id with
          bound := some own, payload := payload, fill := 1, seq := some seq, closed := true
          stamp := some ⟨.close, s.epoch.getD 0, seq, own, 0, [], 0, 1, checkWord (payloadFold payload) seq⟩ }) ∧
      ((r.closeFrame = none ∨ r.pagesDone + 1 ≠ r.pages.length) →
        u.ck.run = some r' ∧ u.ck.queue = rest ∧ u.ck.ringTail = s.ck.ringTail ∧ u.seq = s.seq)) ∧
  ∀ (s : State) (issue : BitVec 16) (o : Op) (q : RingSeg) (r : CkRun), s.awaits .A issue o → o.kind = .segmentWrite →
    o.req = .ckpt → o.frame = some q.frame → s.ck.queue.find? (fun x => decide (x.frame = q.frame)) = some q →
    q.kind = .close → s.ck.run = some r → s.stuckLanes = [] → s.rc.job = none →
    ∃ t, exec (.segmentWriteResult .A issue .done) s = .next t ∧ t.cleared = some r.sStart ∧
      t.ck.ringStart = r.startPos ∧ t.ck.run = none ∧ t.ck.dComplete = s.ck.dStart ∧
      (∀ a b, (s.bandRec a b).state = .evacuated → (s.bandRec a b).readPins = 0 →
        (s.bandRec a b).evacSeq.getD 0 < r.sStart →
        ((s.bandRec a b).health < 3 → (t.bandRec a b).state = .blank ∧ (t.bandRec a b).written = 0) ∧
        (3 ≤ (s.bandRec a b).health → (t.bandRec a b).state = .retired ∧
          ∃ x ∈ t.exceptions, x.kind = .bandRetired ∧ x.act = a)) ∧
      (∀ a b, (s.bandRec a b).state ≠ .evacuated → t.bandRec a b = s.bandRec a b) ∧
      (∀ a, (t.ring a).freeTarget = max (s.ring a).freeTarget (r.captured.get a).migrateHead) ∧
      (r.answers = true → t.maint.status = .good ∧ t.maint.payload = leBytes 6 r.sStart ∧ t.maint.busy = false) ∧
      (s.service = .formatting → t.service = .ready)

/-- free_head moves toward the free target and stops at the lowest pinned counter value at or above it (R61, R62); nothing
else of the ring changes, and the other ring is left alone. -/
def Obligations.FreeHeadStopsAtPin : Prop :=
  ∀ (s : State) (a : Actuator),
    let r := s.ring a
    let r' := (advanceFree a s).ring a
    (r.freeHead ≤ r'.freeHead ∧ r'.freeHead ≤ max r.freeHead r.freeTarget) ∧
    (∀ p ∈ r.pins, r.freeHead ≤ p.1 → r'.freeHead ≤ p.1) ∧
    (r'.freeHead = max r.freeHead r.freeTarget ∨ ∃ p ∈ r.pins, r'.freeHead = p.1) ∧
    (r' = { r with freeHead := r'.freeHead }) ∧ (advanceFree a s).ring (other a) = s.ring (other a)

/-! ## The reclaim engine (chapter 8) -/

/-- RECLAIM_TRIGGER_TEST, in READY with no job and the gate deasserted, starts the job of the first trigger that yields one
(R133, R134): the triggers are tried in their order, 1 and 4 on the actuator of fewer BLANK bands first, 3 and 5 on the ring of
higher fill or live; a trigger that holds without a candidate posts NO_VICTIM, once while its mark stands, and the next is
tried (R135). Triggers 1 and 4 on an actuator: the candidate of highest score, the lower band index of two (R136, R137).
Trigger 2: the candidate of most extents on either actuator, then of higher score, lower index, actuator A. The victim enters
CLEANING with its valid count at selection, or EVACUATED at once when nothing in it is valid, its job ended and a checkpoint
requested (R52, R53, R144). Triggers 3 and 5: a cache job whose first pass takes the segments from migrate_head up to the
first still bound to a frame, at most 16, each swept (R145). Lane 7 is told the job's actuator (R71, R137): one that outlived the
job before has it from then on and asks there first, whatever actuator it had, save for a band it holds; in CLOSED it has none
(R65). While a job stands or outside READY nothing is tested, and under the asserted gate no job starts. That a requested
checkpoint leaves the wanted flag set at that moment, that a test of the triggers under the gate still posts and clears
marks, and that a band lane 7 still holds keeps its actuator, is the model's reading (logs 3, 8 and 19). -/
def Obligations.TriggerTestStartsDueJob : Prop :=
  ∀ s : State,
    let C := s.cap
    let candidate : Actuator → Nat → Bool := fun a b => (s.port a).up && decide ((s.bandRec a b).state = .full) &&
      decide ((s.bandRec a b).bound = 0) && decide (C / 16 ≤ C - (s.bandRec a b).valid)
    let bands := fun a : Actuator => (s.bm.get a).bands.length
    let dry : Actuator → Bool := fun a => (List.range (bands a)).all (fun b => !candidate a b)
    let score := fun (a : Actuator) (b : Nat) =>
      let v := (s.bandRec a b).valid
      let age := min ((s.seq.getD 0 - (s.bandRec a b).closeSeq.getD 0) / 256) 4095 + 1
      if v = 0 then 16777215 else min ((C - v) * age * 256 / (v + C / 16)) 16777215
    let best := fun (a : Actuator) (b : Nat) => b < bands a ∧ candidate a b ∧
      ∀ c < bands a, candidate a c → score a c < score a b ∨ (score a c = score a b ∧ b ≤ c)
    let most := fun (a : Actuator) (b : Nat) => b < bands a ∧ candidate a b ∧ ∀ a', ∀ c < bands a', candidate a' c →
      (s.bandRec a' c).extents < (s.bandRec a b).extents ∨ ((s.bandRec a' c).extents = (s.bandRec a b).extents ∧
        (score a' c < score a b ∨ (score a' c = score a b ∧ (b < c ∨ (b = c ∧ (a = .A ∨ a' = .B))))))
    let live := fun a : Actuator => (s.ring a).tail - (s.ring a).migrateHead
    let fill := fun a : Actuator => ((s.ring a).tail - (s.ring a).freeHead) * 100 / s.mcs
    -- what holds (R133)
    let urgent : Actuator → Bool := fun a => (s.port a).up && decide (s.blankCount a ≤ s.work.reserve)
    let high : Actuator → Bool := fun a =>
      (s.port a).up && s.rc.latch.get a && decide (s.work.cacheLow < live a * 100 / s.mcs)
    let pressure : Actuator → Bool := fun a => (s.port a).up && (s.credit.get a).pressure
    let idle : Actuator → Bool := fun a =>
      decide (s.work.idleMigrate ≠ 0) && s.rc.idleExpired && (s.port a).up && decide (0 < live a)
    -- what holds and has a candidate, and so yields
    let yields1 : Actuator → Bool := fun a => urgent a && !dry a
    let yields2 : Bool := s.mapPressure && !(dry .A && dry .B)
    let yields4 : Actuator → Bool := fun a => pressure a && !dry a
    let none1 : Bool := !yields1 .A && !yields1 .B
    let none2 : Bool := none1 && !yields2
    let none3 : Bool := none2 && !high .A && !high .B
    let none4 : Bool := none3 && !yields4 .A && !yields4 .B
    let none5 : Bool := none4 && !idle .A && !idle .B
    let first : Actuator := if s.blankCount .A ≤ s.blankCount .B then .A else .B
    let reached : (Actuator → Bool) → Actuator → Bool := fun yields a => decide (a = first) || !yields first
    -- what is told of triggers that hold without a candidate, up to the one that yields (R135)
    let told1 : Actuator → Bool := fun a => urgent a && dry a && reached yields1 a && !s.rc.noVictim.get a
    let told2 : Bool := none1 && s.mapPressure && dry .A && dry .B && !s.rc.noVictimMap
    let told4 : Actuator → Bool := fun a =>
      none3 && pressure a && !urgent a && dry a && reached yields4 a && !s.rc.noVictim.get a
    let ends : Actuator → Bool := fun a =>
      (yields1 a && reached yields1 a) || (none3 && yields4 a && reached yields4 a)
    let full := fun a : Actuator => s.countIn a .full
    let posts : List (Actuator × Nat) := ([first, other first].filter told1).map (fun a => (a, full a)) ++
      (if told2 then [(.A, full .A + full .B)] else []) ++ ([first, other first].filter told4).map (fun a => (a, full a))
    let mark : Actuator → Bool := fun a => (s.rc.noVictim.get a || told1 a || told4 a) && !ends a
    let told : State := { s with
      rc := { s.rc with noVictim := ⟨mark .A, mark .B⟩, noVictimMap := (s.rc.noVictimMap || told2) && !(none1 && yields2) }
      exceptions := posts.foldl (fun l x => postTo l .noVictim x.1 (s.seq.getD 0) x.2 0) s.exceptions }
    let tested := s.rc.job = none ∧ s.service = .ready
    -- lane 7 with the job's actuator (R71)
    let informed := fun (a : Actuator) (v : State) =>
      (∀ n, n ≠ 7 → v.lane n = s.lane n) ∧
      (s.lanes.length = 8 → v.lane 7 =
        if (s.lane 7).state = .closed ∨ (s.lane 7).band ≠ none then s.lane 7 else { s.lane 7 with act := some a }) ∧
      (s.lanes.length = 8 → (s.lane 7).state = .faulted → (s.lane 7).band = none → v.laneActuator 7 = some a)
    let starts := fun (t : Trigger) (a : Actuator) (b : Nat) =>
      ∃ u0, exec .reclaimTriggerTest s = .next (settle u0) ∧ u0.exceptions = told.exceptions ∧
        u0.rc.noVictim = told.rc.noVictim ∧ u0.rc.noVictimMap = told.rc.noVictimMap ∧
        ((s.bandRec a b).valid ≠ 0 → informed a u0 ∧ ∃ j, u0.rc.job = some j ∧ j.trigger = t ∧ j.act = a ∧ j.victim = some b) ∧
        (b ∉ (s.bm.get a).parked → (∀ n < 8, ¬ ((s.lane n).act = some a ∧ (s.lane n).band = some b)) → s.unfaulted →
          let u := settle u0
          ((s.bandRec a b).valid ≠ 0 → (u.bandRec a b).state = .cleaning ∧
            (u.bandRec a b).validAtSel = some (s.bandRec a b).valid ∧
            ∃ j, u.rc.job = some j ∧ j.trigger = t ∧ j.act = a ∧ j.victim = some b) ∧
          ((s.bandRec a b).valid = 0 → (u.bandRec a b).state = .evacuated ∧
            (u.bandRec a b).evacSeq = some (s.seq.getD 0) ∧ u.rc.job = none ∧
            (a, b, s.seq.getD 0) ∈ u.ck.pendingBlank ∧ u.ck.wanted = true))
    let migrates := fun (t : Trigger) (a : Actuator) => ∃ (j : Job) (segs : List Nat) (v : State),
      j.trigger = t ∧ j.act = a ∧ j.victim = none ∧ exec .reclaimTriggerTest s = .next (settle v) ∧ informed a v ∧
      v = { told with rc := { told.rc with job := some j }, lanes := v.lanes } ∧
      j.segs.map (fun x => x.1) = segs ∧ segs = (List.range segs.length).map (fun k => (s.ring a).migrateHead + k) ∧
      segs.length ≤ 16 ∧ (∀ c ∈ segs, c < (s.ring a).tail ∧ s.holder (s.cacheLoc a c) = none) ∧
      (segs.length < 16 → ¬ ((s.ring a).migrateHead + segs.length < (s.ring a).tail ∧
        s.holder (s.cacheLoc a ((s.ring a).migrateHead + segs.length)) = none)) ∧
      j.moves = segs.flatMap (fun c => (sweep s.extents (.cacheSeg a (c % s.mcs)) 0 4096).1.map
        (fun x => ⟨x.1, x.2, .pending, none⟩)) ∧
      (j.running = true ↔ segs ≠ [])
    (tested → s.gate = false →
      (∀ a b, yields1 a → reached yields1 a → best a b → starts .urgent a b) ∧
      (∀ a b, none1 → s.mapPressure = true → most a b → starts .map a b) ∧
      (∀ a, none2 → high a → (fill (other a) < fill a ∨ (fill (other a) = fill a ∧ a = .A) ∨ high (other a) = false) →
        migrates .cacheHigh a) ∧
      (∀ a b, none3 → yields4 a → reached yields4 a → best a b → starts .pressure a b) ∧
      (∀ a, none4 → idle a → (live (other a) < live a ∨ (live (other a) = live a ∧ a = .A) ∨ idle (other a) = false) →
        migrates .idle a)) ∧
    (tested → (s.gate = true ∨ none5) → exec .reclaimTriggerTest s = .next (settle told)) ∧
    (¬ tested → exec .reclaimTriggerTest s = .next (settle s))

/-- Under every geometry a band with valid data scores below one without, and for bands of one age fewer valid blocks never
score lower; an older band never scores lower either (R136). -/
def Obligations.EmptyBandOutscoresOthers : Prop :=
  (∀ spb v age age' : Nat, 1 ≤ spb → spb ≤ 4096 → 1 ≤ v → v ≤ spb * 16 → age ≤ 4096 →
    victimScore (spb * 16) v age < victimScore (spb * 16) 0 age') ∧
  (∀ cap v v' age age' : Nat, v ≤ v' → v' ≤ cap → age' ≤ age →
    victimScore cap v' age' ≤ victimScore cap v age)

/-- RECLAIM_COMMIT resolves the moves of the head frame of the commit queue in slot order (R37, R142): each slot not void
whose LBA is then still at its source maps it to the frame's location at that slot, a void slot is left alone, and no other
LBA changes; the job's entry IN LANE for a slot becomes COMMITTED where its block moved and DEAD where not. With fewer than 2
records free the commit waits at its slot, and with 34 the frame leaves the queue. What it resolves marks the segments of a
cache job's pass whose entries have all left them (R131), and the job's first step is then to advance migrate_head by one,
past a segment below tail that is so marked and is bound to no unwritten frame, and never past another (R60, R145).
The further steps of a job that is not paused. The block at hand, of the first segment with blocks not handed the HELD one of
lowest LBA, while lane 7 can take one (R83, R141, R161), becomes DEAD when it is no longer current, and else is placed with
its bytes and source in the next slot of lane 7's open frame, which closes when full; that frame closes first where the
block would need a ninth run (R73), and where none is open the frame granted is opened in lane 7's band. With every entry
handed or resolved and no source read left lane 7 is told and closes its open frame. With every entry resolved the pass ends:
a band job's next pass sweeps from after the last entry, or from 0 (R138); a cache job asks for a checkpoint where it advanced
migrate_head, and goes on while its own trigger holds and no earlier one does (R133, R145). Under the asserted gate a job that
holds no read data begins no pass and reads nothing: it only takes the pause of R147. That the clauses speak of one
step of the pump, in its order, is the model's form, and so are the bound of the pass number, that such a job makes no source
read entry before its frames are written, and that a checkpoint asked for sets the wanted flag also where R154 starts it at
once (logs 3, 28, 41 and 48). -/
def Obligations.CommitLeavesTheQueue : Prop :=
  (∀ (s : State) (id : Nat) (rest : List Nat) (l : SegLoc), s.rc.commitQ = id :: rest → (s.frame id).bound = some l →
    let f := s.frame id
    let slots := fun n : Nat => (List.range n).drop s.rc.commitAt
    let moved := fun (map : Nat → Mapped) (k : Nat) =>
      match runsLba f.runs k, runsSource f.runs k with
      | some lba, some src => fun x =>
        if x = lba ∧ f.void.getLsbD k = false ∧ map lba = .media src then .media ⟨l, k⟩ else map x
      | _, _ => map
    let upTo := fun n : Nat => (slots n).foldl moved (lookup s.extents)
    (TableOk s.extents → f.fill ≤ 16 → 34 ≤ s.freeRecords →
      ∃ t, exec .reclaimCommit s = .next t ∧ t.rc.commitQ = rest ∧ t.rc.commitAt = 0) ∧
    (TableOk s.extents → f.fill ≤ 16 →
      ∃ u, exec .reclaimCommit s = .next (settle u) ∧ (s.unfaulted → (settle u).extents = u.extents) ∧
        ∃ n ≤ f.fill, (∀ x, lookup u.extents x = upTo n x) ∧
          ((n = f.fill ∧ u.rc.commitQ = rest ∧ u.rc.commitAt = 0) ∨
            (n < f.fill ∧ u.rc.commitQ = id :: rest ∧ u.rc.commitAt = n ∧ u.freeRecords < 2)) ∧
          (34 ≤ s.freeRecords → n = f.fill) ∧
          (∀ j j', s.rc.job = some j → u.rc.job = some j' → j'.moves = j.moves.map (fun m =>
            match (slots n).find? (fun k => decide (runsLba f.runs k = some m.lba ∧ runsSource f.runs k = some m.src)) with
            | some k =>
              if m.state = .inLane then
                { m with state := if f.void.getLsbD k = false ∧ upTo k m.lba = .media m.src then .committed else .dead }
              else m
            | none => m))) ∧
    (∀ lba src, s.rc.commitAt < (s.frame id).fill → (s.frame id).void.getLsbD s.rc.commitAt = false →
      runsLba (s.frame id).runs s.rc.commitAt = some lba → runsSource (s.frame id).runs s.rc.commitAt = some src →
      s.freeRecords < 2 → exec .reclaimCommit s = .next (settle s))) ∧
  (∀ (s : State) (j : Job), s.rc.job = some j →
    let left := fun m : Move => m.state = .committed ∨ m.state = .dead ∨ m.state = .lost
    (∀ st p, ∃ j', (resolveMoves st p s).rc.job = some j' ∧
      j'.moves = j.moves.map (fun m => if p m then { m with state := st } else m) ∧
      j'.segs.map (fun x => x.1) = j.segs.map (fun x => x.1) ∧
      ∀ (k : Nat) (x : Nat × Bool), j.segs[k]? = some x → ∃ marked, j'.segs[k]? = some (x.1, marked) ∧
        (marked = true ↔ x.2 = true ∨ ∀ m ∈ j'.moves, m.src.segment = s.cacheLoc j.act x.1 → left m)) ∧
    (j.victim = none →
      let head := (s.ring j.act).migrateHead
      let passes := head < (s.ring j.act).tail ∧ s.holder (s.cacheLoc j.act head) = none ∧ (head, true) ∈ j.segs
      (passes → ∃ t, pumpStep s = some t ∧ (t.ring j.act) = { s.ring j.act with migrateHead := head + 1 } ∧
        t.ring (other j.act) = s.ring (other j.act) ∧ t.rc.job = some { j with advanced := true } ∧
        t.extents = s.extents ∧ t.pool = s.pool ∧ t.lanes = s.lanes) ∧
      (¬ passes → advanceMigrate s = none))) ∧
  (∀ (s : State) (j : Job), s.rc.job = some j → j.pausePort = false → j.pauseProtect = false → advanceMigrate s = none →
    let waits := fun m : Move => m.state = .pending ∨ m.state = .held
    let free := (s.lane 7).state ≠ .waiting ∧ (s.lane 7).state ≠ .faulted ∧
      ((∃ id, (s.lane 7).openFrame = some id ∧ (s.frame id).fill < 16) ∨
        (s.ck.dComplete < 2 * s.work.ckSegments ∧ .lane 7 ∉ s.pool.waitReclaim))
    let done := fun m : Move => m.state = .committed ∨ m.state = .dead ∨ m.state = .lost ∨ m.state = .returned
    -- handing (R83, R141)
    (¬ free → ∀ t, pumpStep s = some t → ∀ m ∈ t.moves, m.state = .inLane → m ∈ j.moves) ∧
    (free → ∀ m before next after, j.moves = before ++ next :: after → (∀ x ∈ before, ¬ waits x) → waits next →
      m ∈ j.moves → m.state = .held → m.src.segment = next.src.segment →
      (∀ x ∈ j.moves, x.state = .held → x.src.segment = next.src.segment → x = m ∨ m.lba < x.lba) →
      ∀ e d, s.source m.src.segment = some e → e.frame = some d →
      let data := (s.frame d).payload.getD m.src.slot 0
      let inLane := j.moves.map (fun x => if x = m then { x with state := .inLane } else x)
      let placed := fun (t : State) (id : Nat) (f : Frame) =>
        t.extents = s.extents ∧ t.earmarks = s.earmarks ∧ t.credit = s.credit ∧ t.frontOut = s.frontOut ∧
        t.moves = inLane ∧ (f.fill < 15 → (t.lane 7).openFrame = some id ∧ t.frame id = { f with
          payload := f.payload.set f.fill data, fill := f.fill + 1
          runs := extendRuns f.runs m.lba f.fill (some m.src) }) ∧
        (f.fill = 15 → s.lanes.length = 8 → (t.lane 7).openFrame = none ∧ (f.promises = 0 → f.bound.isSome → (t.frame id).closed = true ∧
          (t.frame id).runs = extendRuns f.runs m.lba 15 (some m.src)))
      (lookup s.extents m.lba ≠ .media m.src → ∃ t, pumpStep s = some t ∧ t.extents = s.extents ∧ t.lanes = s.lanes ∧
        t.moves = j.moves.map (fun x => if x = m then { x with state := .dead } else x)) ∧
      (lookup s.extents m.lba = .media m.src → (s.lane 7).state = .opened →
        (∀ id, (s.lane 7).openFrame = some id → id ≠ d → id < s.pool.frames.length → (s.frame id).fill < 16 →
          (needsNinthRun (s.frame id).runs m.lba (some m.src) = false → ∃ t, pumpStep s = some t ∧ placed t id (s.frame id)) ∧
          (needsNinthRun (s.frame id).runs m.lba (some m.src) = true → ∃ t, pumpStep s = some t ∧ t.extents = s.extents ∧
            t.moves = j.moves ∧ (s.lanes.length = 8 → (t.lane 7).openFrame = none))) ∧
        (∀ id b seg, (s.lane 7).openFrame = none → (s.lane 7).granted = some id → id ≠ d → id < s.pool.frames.length →
          s.lanes.length = 8 → (s.frame id).fill = 0 → (s.frame id).runs = [] → (s.lane 7).act = some j.act →
          (s.lane 7).band = some b → b < (s.bm.get j.act).bands.length → (s.bandRec j.act b).state = .opened →
          (s.bandRec j.act b).owner = some 7 → (s.bandRec j.act b).reserved = seg → seg < s.spb →
          s.ck.dComplete < 2 * s.work.ckSegments →
          ∃ t, pumpStep s = some t ∧ placed t id { s.frame id with bound := some ⟨j.act, .band, b, seg⟩, ringCtr := 0 } ∧
            (t.bandRec j.act b).reserved = seg + 1 ∧ (t.bandRec j.act b).bound = (s.bandRec j.act b).bound + 1 ∧
            t.ck.dComplete = s.ck.dComplete + 1))) ∧
    -- the end of the handing (R141)
    (j.running = true → j.told = false → (∀ m ∈ j.moves, ¬ waits m) → (∀ e ∈ s.rc.sources, e.live = false) →
      ∃ t, pumpStep s = some t ∧ t.rc.job = some { j with told := true } ∧ t.extents = s.extents ∧
        (s.lanes.length = 8 → (t.lane 7).openFrame = none ∧ (t.lane 7).granted = none) ∧
        .lane 7 ∉ t.pool.waitReclaim) ∧
    -- under the asserted gate, once no read data is held (R147)
    (s.gate = true → (∀ e ∈ s.rc.sources, e.live = true → e.state ≠ .ready ∧ e.state ≠ .inFlight) →
      (∀ m ∈ j.moves, m.state ≠ .held) → (j.running = false ∨ j.told = true ∨ ∃ m ∈ j.moves, waits m) →
      pumpStep s = pauseForProtect s) ∧
    -- the end of the pass (R133, R138, R145)
    (s.gate = false → j.running = true → j.told = true → (∀ m ∈ j.moves, done m) →
      (∀ v, j.victim = some v →
        let pos := if j.more then (j.moves.getLast?.map (fun m => m.src.segment.seg * 16 + m.src.slot + 1)).getD 0 else 0
        let found := sweep s.extents (.band j.act v) pos 4096
        pumpStep s = some { s with rc := { s.rc with job := some { j with
          pass := min (j.pass + 1) (2 ^ 32 - 1), sweepPos := pos, more := found.2, running := true, told := false
          moves := found.1.map (fun x => ⟨x.1, x.2, .pending, none⟩) } } }) ∧
      (j.victim = none →
        let up := fun a : Actuator => (s.port a).up
        let live := fun a : Actuator => (s.ring a).tail - (s.ring a).migrateHead
        let urgent := fun a : Actuator => up a = true ∧ s.blankCount a ≤ s.work.reserve
        let high := fun a : Actuator =>
          up a = true ∧ s.rc.latch.get a = true ∧ s.work.cacheLow < live a * 100 / s.mcs
        let pressure := fun a : Actuator => up a = true ∧ (s.credit.get a).pressure = true
        let own := (j.trigger = .cacheHigh ∧ high j.act) ∨
          (j.trigger = .idle ∧ s.work.idleMigrate ≠ 0 ∧ s.rc.idleExpired = true ∧ up j.act = true)
        let earlier := (∃ a, urgent a) ∨ s.mapPressure = true ∨ (j.trigger = .idle ∧ ((∃ a, high a) ∨ ∃ a, pressure a))
        ∃ t, pumpStep s = some t ∧ (∀ a, t.ring a = s.ring a) ∧ t.extents = s.extents ∧
          t.ck.wanted = (s.ck.wanted || j.advanced) ∧
          ((0 < live j.act ∧ own ∧ ¬ earlier) → ∃ j', t.rc.job = some j' ∧ j'.trigger = j.trigger ∧ j'.act = j.act ∧
            j'.victim = none ∧ j'.advanced = false ∧
            (∀ x ∈ j'.segs, (s.ring j.act).migrateHead ≤ x.1 ∧ x.1 < (s.ring j.act).tail) ∧
            (∀ m ∈ j'.moves, m.state = .pending)) ∧
          (¬ (0 < live j.act ∧ own ∧ ¬ earlier) → t.rc.job = none ∧
            (s.lanes.length = 8 → (t.lane 7).openFrame = none)))))

/-! ## The maintenance port (chapter 12) -/

/-- A write to another address, or while a command runs, changes nothing (R187); a command with the wrong payload
length is answered BAD_LENGTH, an unknown one UNKNOWN_COMMAND and a malformed write MALFORMED, and nothing else
changes. The length is tested before anything else: the model's reading (log 17). -/
def Obligations.MaintenanceWritesNotTaken : Prop :=
  (∀ (c : Instr) (addr : BitVec 7) (s : State), SentTo c addr → ¬ s.hears addr → exec c s = .next s) ∧
  (∀ (addr : BitVec 7) (s : State), exec (.portBusyNack addr) s = .next s) ∧
  (∀ (c : Instr) (w : MaintWrite) (n : Nat) (s : State), Takes c w n → s.hears w.addr → w.payload.length ≠ n →
    exec c s = .next (s.answered .badLength [])) ∧
  (∀ (w : MaintWrite) (code : Byte) (s : State), s.hears w.addr →
    exec (.unknownCommand w code) s = .next (s.answered .unknownCommand [])) ∧
  (∀ (addr : BitVec 7) (how : BadWrite) (s : State), s.hears addr →
    exec (.malformed addr how) s = .next (s.answered .malformed []))

/-- IDENTIFY answers the 23 bytes of section 13.5, and BAND_CENSUS, where it is taken, the 99 bytes: for each actuator the
band counts, the length of its parked list, its pressure and credit, its ring's fill, its port's state and busy bits; and
the free record count, map pressure, the checkpoint ring's free count, whether a checkpoint runs, the length of the
pending-blank list and the service state; neither changes anything else. BAND_CENSUS is WRONG_STATE elsewhere (R189). -/
def Obligations.IdentifyAndCensusAnswer : Prop :=
  ∀ (w : MaintWrite) (s : State), s.hears w.addr → w.payload = [] →
    (∃ p, exec (.identify w) s = .next (s.answered .good p) ∧ p.length = 23 ∧
      fieldAt (leNat p) 0 2 = 0x0420 ∧ fieldAt (leNat p) 2 1 = 1 ∧ fieldAt (leNat p) 3 1 = s.service.code ∧
      fieldAt (leNat p) 4 2 = s.epoch.getD 0 % 2 ^ 16 ∧ fieldAt (leNat p) 6 2 = s.highEpoch.getD 0 % 2 ^ 16 ∧
      fieldAt (leNat p) 8 8 = (s.geom.map (fun g => g.lcap)).getD 0 % 2 ^ 64 ∧
      fieldAt (leNat p) 16 6 = s.seq.getD 0 % 2 ^ 48 ∧
      fieldAt (leNat p) 22 1 = s.straps.addr0.toNat + 2 * s.straps.addr1.toNat + 4 * s.straps.fmtEn.toNat) ∧
    ((s.service = .ready ∨ s.service = .formatting ∨ (s.service = .halted ∧ s.geom.isSome)) →
      ∃ p, exec (.bandCensus w) s = .next (s.answered .good p) ∧ p.length = 99 ∧
        (∀ k st, bandStates[k]? = some st →
          fieldAt (leNat p) (4 * k) 4 = s.countIn .A st % 2 ^ 32 ∧
          fieldAt (leNat p) (42 + 4 * k) 4 = s.countIn .B st % 2 ^ 32) ∧
        (∀ a, let off := 42 * actCode a
          fieldAt (leNat p) (off + 32) 4 = (s.bm.get a).parked.length % 2 ^ 32 ∧
          fieldAt (leNat p) (off + 36) 1 = (s.credit.get a).pressure.toNat ∧
          fieldAt (leNat p) (off + 37) 2 = (s.credit.get a).q % 2 ^ 16 ∧
          fieldAt (leNat p) (off + 39) 1 = ((s.ring a).tail - (s.ring a).freeHead) * 100 / s.mcs % 2 ^ 8 ∧
          fieldAt (leNat p) (off + 40) 1 = (s.port a).up.toNat ∧
          fieldAt (leNat p) (off + 41) 1 = (s.port a).op.isSome.toNat) ∧
        fieldAt (leNat p) 84 4 = s.freeRecords ∧ fieldAt (leNat p) 88 1 = s.mapPressure.toNat ∧
        fieldAt (leNat p) 89 4 = s.ckFree % 2 ^ 32 ∧
        fieldAt (leNat p) 93 1 = s.ck.run.isSome.toNat ∧ fieldAt (leNat p) 94 4 = s.ck.pendingBlank.length % 2 ^ 32 ∧
        fieldAt (leNat p) 98 1 = s.service.code) ∧
    (¬ (s.service = .ready ∨ s.service = .formatting ∨ (s.service = .halted ∧ s.geom.isSome)) →
      exec (.bandCensus w) s = .next (s.answered .wrongState []))

/-- LANE_REPORT answers the 65 bytes of section 13.5 for lanes 0 to 7, the job's fields among them for lane 7, and
BAND_REPORT the whole band record for a band of the geometry in force; neither changes anything else. A lane above 7, an
actuator code above 1 or a band index not below BPA is BAD_ARGUMENT, and the wrong service state WRONG_STATE (R189). The
widths of BAND_REPORT's last fields are the model's (log 13), as are the order of the refusals (log 17), that a job paused for
both reports PORT (log 6), and the pass and first segment of a cache job that has begun no pass (log 48). -/
def Obligations.LaneAndBandReportsAnswer : Prop :=
  ∀ (w : MaintWrite) (s : State), s.hears w.addr →
    let since := fun x : Option Nat => (x.map (fun t0 => min (s.now - t0) (2 ^ 32 - 1))).getD 0
    (∀ n : Nat, w.payload = [BitVec.ofNat 8 n] → n < 256 →
      (s.service = .recovering → exec (.laneReport w) s = .next (s.answered .wrongState [])) ∧
      (s.service ≠ .recovering → 7 < n → exec (.laneReport w) s = .next (s.answered .badArgument [])) ∧
      (s.service ≠ .recovering → n ≤ 7 → ∃ p, exec (.laneReport w) s = .next (s.answered .good p) ∧ p.length = 65 ∧
        fieldAt (leNat p) 0 1 = (s.lane n).state.code ∧
        fieldAt (leNat p) 1 1 = (((s.lane n).act.map actCode).getD 0xFF) ∧
        fieldAt (leNat p) 2 2 = (s.lane n).band.getD 0xFFFF % 2 ^ 16 ∧
        ((s.lane n).openFrame = none → fieldAt (leNat p) 4 1 = 0xFF ∧ fieldAt (leNat p) 5 1 = 0) ∧
        (∀ id, (s.lane n).openFrame = some id → fieldAt (leNat p) 4 1 = (s.frame id).fill % 2 ^ 8 ∧
          fieldAt (leNat p) 5 1 = (s.frame id).runs.length % 2 ^ 8) ∧
        fieldAt (leNat p) 6 5 = (s.lane n).nextLba.getD 0 % 2 ^ 40 ∧
        fieldAt (leNat p) 11 4 = since (s.lane n).lastAccept ∧
        fieldAt (leNat p) 15 1 = (s.lane n).idleTimer.isSome.toNat + 2 * (s.lane n).releaseTimer.isSome.toNat ∧
        fieldAt (leNat p) 16 4 = (s.lane n).rebind.length % 2 ^ 32 ∧
        fieldAt (leNat p) 20 4 = (s.lane n).queues.a.length % 2 ^ 32 ∧
        fieldAt (leNat p) 24 4 = (s.lane n).queues.b.length % 2 ^ 32 ∧
        (∀ q c, s.phase = some q → q.lane = n → q.hold = some c →
          fieldAt (leNat p) 28 1 = c.code ∧ fieldAt (leNat p) 29 4 = since q.holdTimer) ∧
        ((∀ q, s.phase = some q → q.lane = n → q.hold = none) → fieldAt (leNat p) 28 5 = 0) ∧
        (n ≠ 7 → fieldAt (leNat p) 33 32 = 0) ∧
        (n = 7 → s.rc.job = none → fieldAt (leNat p) 33 2 = 0 ∧ fieldAt (leNat p) 35 1 = 0xFF ∧
          fieldAt (leNat p) 36 29 = 0) ∧
        (n = 7 → ∀ j, s.rc.job = some j → fieldAt (leNat p) 33 1 = (if j.victim.isSome then 1 else 2) ∧
          fieldAt (leNat p) 34 1 = j.trigger.code ∧ fieldAt (leNat p) 35 1 = actCode j.act ∧
          fieldAt (leNat p) 36 8 = (match j.victim with
            | some v => v % 2 ^ 64
            | none => (j.segs.head?.map (fun x => x.1)).getD 0 % 2 ^ 64) ∧
          fieldAt (leNat p) 44 1 = (if j.pausePort then 1 else if j.pauseProtect then 2 else 0) ∧
          fieldAt (leNat p) 45 4 = j.pass % 2 ^ 32 ∧ fieldAt (leNat p) 49 4 = j.committed % 2 ^ 32 ∧
          fieldAt (leNat p) 53 4 = j.dead % 2 ^ 32 ∧ fieldAt (leNat p) 57 4 = j.lost % 2 ^ 32 ∧
          fieldAt (leNat p) 61 4 = j.returned % 2 ^ 32))) ∧
    (∀ a b : Nat, w.payload = BitVec.ofNat 8 a :: leBytes 2 b → a < 256 → b < 65536 →
      let taken := s.service = .ready ∨ s.service = .formatting ∨ (s.service = .halted ∧ s.geom.isSome)
      (¬ taken → exec (.bandReport w) s = .next (s.answered .wrongState [])) ∧
      (taken → actuatorOf a = none → exec (.bandReport w) s = .next (s.answered .badArgument [])) ∧
      (taken → ∀ x, actuatorOf a = some x → s.bpa x ≤ b → exec (.bandReport w) s = .next (s.answered .badArgument [])) ∧
      (taken → ∀ x, actuatorOf a = some x → b < s.bpa x →
        ∃ p, exec (.bandReport w) s = .next (s.answered .good p) ∧ p.length = 33 ∧ fieldAt (leNat p) 0 2 = b ∧
          fieldAt (leNat p) 2 1 = (s.bandRec x b).state.code ∧ fieldAt (leNat p) 3 1 = (s.bandRec x b).health % 256 ∧
          fieldAt (leNat p) 4 2 = (s.bandRec x b).written % 2 ^ 16 ∧
          fieldAt (leNat p) 6 3 = (s.bandRec x b).valid % 2 ^ 24 ∧
          fieldAt (leNat p) 9 3 = (s.bandRec x b).extents % 2 ^ 24 ∧
          ((s.bandRec x b).state = .full → fieldAt (leNat p) 12 6 = (s.bandRec x b).closeSeq.getD 0 % 2 ^ 48) ∧
          ((s.bandRec x b).state = .cleaning → fieldAt (leNat p) 12 6 = (s.bandRec x b).closeSeq.getD 0 % 2 ^ 48) ∧
          ((s.bandRec x b).state = .evacuated → fieldAt (leNat p) 12 6 = (s.bandRec x b).evacSeq.getD 0 % 2 ^ 48) ∧
          fieldAt (leNat p) 18 2 = (s.bandRec x b).reserved % 2 ^ 16 ∧
          fieldAt (leNat p) 20 4 = (s.bandRec x b).bound % 2 ^ 32 ∧
          fieldAt (leNat p) 24 4 = (s.bandRec x b).readPins % 2 ^ 32 ∧
          fieldAt (leNat p) 28 1 = (s.bandRec x b).owner.getD 0xFF % 256 ∧
          fieldAt (leNat p) 29 4 = (s.bandRec x b).validAtSel.getD 0 % 2 ^ 32))

/-- SET_SETTING writes the pending copy alone (R8, R190): a numeric value is rounded down to a multiple of its step, then
brought to the nearest limit of its range, with CLAMPED when that changed it; the ranges are those of the tables of R8 and
R190. READ_AHEAD and a window's enable take the values of their lists, and a geometry field goes to the pending geometry.
GET_SETTING, in RECOVERING as elsewhere, answers the pending value and the working one of a setting, and the one value of a
geometry field twice: that of the geometry in force, or of the pending one while none is. A code that names no setting is
BAD_ARGUMENT, and SET_SETTING in RECOVERING WRONG_STATE. The order of the refusals and what is clamped are the model's
reading (logs 17 and 18). -/
def Obligations.SettingWrittenIsReadBack : Prop :=
  let ranges : List (Nat × Nat × Nat × Nat × Nat) :=
    [(0x01, 0x01, 1, 256, 1), (0x02, 0x02, 10, 2550, 10), (0x03, 0x03, 1, 255, 1), (0x04, 0x04, 100, 25500, 100),
      (0x05, 0x05, 4, 255, 1), (0x06, 0x06, 1, 253, 1), (0x07, 0x07, 50, 95, 1), (0x08, 0x08, 10, 85, 1),
      (0x09, 0x09, 4096, 65536, 1), (0x0A, 0x0A, 0, 60, 1), (0x10, 0x1F, 0, 2 ^ 40 - 1, 1), (0x20, 0x27, 0, 5, 1),
      (0x30, 0x30, 256, 4096, 256), (0x31, 0x32, 64, 65536, 1), (0x33, 0x33, 1024, 65536, 1), (0x34, 0x34, 256, 4096, 1),
      (0x35, 0x35, 2 ^ 20, 2 ^ 40, 1)]
  let values := fun p : Settings => [(0x01, p.streamMin), (0x02, p.idleLimit), (0x03, p.laneRelease), (0x04, p.holdLimit),
    (0x05, p.blankLow), (0x06, p.reserve), (0x07, p.cacheHigh), (0x08, p.cacheLow), (0x09, p.ckSegments),
    (0x0A, p.idleMigrate), (0x0B, if p.readAhead = .off then 0 else if p.readAhead = .one then 1 else 2)]
  let fields := fun g : Geometry =>
    [(0x30, g.spb), (0x31, g.bpaA), (0x32, g.bpaB), (0x33, g.mcs), (0x34, g.cks), (0x35, g.lcap)]
  (∀ code low high step, rangeOf code = some ⟨low, high, step⟩ ↔
    ∃ first last, (first, last, low, high, step) ∈ ranges ∧ first ≤ code ∧ code ≤ last) ∧
  (∀ code r v, rangeOf code = some r →
    let down := v - v % r.step
    (down < r.low → r.clamp v = r.low) ∧ (r.high < down → r.clamp v = r.high) ∧
    (r.low ≤ down → down ≤ r.high → r.clamp v = down) ∧
    r.low ≤ r.clamp v ∧ r.clamp v ≤ r.high ∧ r.step ∣ r.clamp v) ∧
  (∀ p : Settings, (∀ x ∈ values p, p.value x.1 = some x.2) ∧
    ∀ (k : Nat) (x : Window), k < 8 → p.windows[k]? = some x → p.value (0x10 + k) = some x.base ∧
      p.value (0x18 + k) = some x.mask ∧ p.value (0x20 + k) = some x.lane ∧ p.value (0x28 + k) = some x.enabled.toNat) ∧
  (∀ (s : State) (w : MaintWrite) (code : Nat), s.hears w.addr → w.payload = [BitVec.ofNat 8 code] → code < 256 →
    (∀ p q, s.maint.pend.value code = some p → s.maint.work.value code = some q →
      exec (.getSetting w) s = .next (s.answered .good (leBytes 8 p ++ leBytes 8 q))) ∧
    (∀ f, (∃ g, s.geom = some g ∧ (code, f) ∈ fields g) ∨ (s.geom = none ∧ (code, f) ∈ fields s.pendGeom) →
      exec (.getSetting w) s = .next (s.answered .good (leBytes 8 f ++ leBytes 8 f))) ∧
    (rangeOf code = none → code ≠ 0x0B → ¬ (0x28 ≤ code ∧ code < 0x30) →
      exec (.getSetting w) s = .next (s.answered .badArgument []))) ∧
  ∀ (s : State) (w : MaintWrite) (code v : Nat), s.hears w.addr → w.payload = BitVec.ofNat 8 code :: leBytes 8 v →
    code < 256 → v < 2 ^ 64 → s.maint.pend.windows.length = 8 →
    let get : Instr := .getSetting ⟨w.addr, [BitVec.ofNat 8 code]⟩
    (s.service = .recovering → exec (.setSetting w) s = .next (s.answered .wrongState [])) ∧
    (s.service ≠ .recovering →
      (∀ r, rangeOf code = some r → code < 0x30 →
        ∃ t, exec (.setSetting w) s = .next t ∧
          t = { s with maint := { s.maint with
            pend := t.maint.pend, status := if r.clamp v = v then .good else .clamped, payload := [] } } ∧
          t.maint.pend.value code = some (r.clamp v) ∧
          (∀ c, c ≠ code → t.maint.pend.value c = s.maint.pend.value c) ∧
          exec get t = .next (t.answered .good (leBytes 8 (r.clamp v) ++ leBytes 8 ((s.maint.work.value code).getD 0)))) ∧
      (∀ r, rangeOf code = some r → 0x30 ≤ code →
        exec (.setSetting w) s = .next ({ s with pendGeom := s.pendGeom.write code (r.clamp v) }.answered
          (if r.clamp v = v then .good else .clamped) []) ∧
        (s.pendGeom.write code (r.clamp v)).value code = some (r.clamp v) ∧
        (∀ c, c ≠ code → (s.pendGeom.write code (r.clamp v)).value c = s.pendGeom.value c)) ∧
      (code = 0x0B ∨ (0x28 ≤ code ∧ code < 0x30) →
        (v ≤ (if code = 0x0B then 2 else 1) → ∃ t, exec (.setSetting w) s = .next t ∧ t.maint.status = .good ∧
          t.maint.pend.value code = some v ∧ (∀ c, c ≠ code → t.maint.pend.value c = s.maint.pend.value c)) ∧
        ((if code = 0x0B then 2 else 1) < v → exec (.setSetting w) s = .next (s.answered .badArgument []))) ∧
      (rangeOf code = none → code ≠ 0x0B → ¬ (0x28 ≤ code ∧ code < 0x30) →
        exec (.setSetting w) s = .next (s.answered .badArgument [])))

/-- APPLY makes the pending settings the working ones, RESERVE no higher than BLANK_LOW − 2 and CACHE_LOW no higher than
CACHE_HIGH − 10, with CLAMPED when either was lowered; the pending copy keeps its values (R191), and when READ_AHEAD becomes
OFF every AHEAD entry not in flight is dropped (R130). -/
def Obligations.ApplyBringsAgreement : Prop :=
  ∀ (w : MaintWrite) (s : State), s.hears w.addr → w.payload = [] →
    let p := s.maint.pend
    let lowered := p.blankLow - 2 < p.reserve ∨ p.cacheHigh - 10 < p.cacheLow
    (s.service = .recovering → exec (.apply w) s = .next (s.answered .wrongState [])) ∧
    (s.service ≠ .recovering → ∃ t, exec (.apply w) s = .next t ∧ t.maint.pend = p ∧
      t.maint.work = { p with reserve := min p.reserve (p.blankLow - 2), cacheLow := min p.cacheLow (p.cacheHigh - 10) } ∧
      t.maint.payload = [] ∧ (lowered → t.maint.status = .clamped) ∧ (¬ lowered → t.maint.status = .good) ∧
      (p.readAhead = .off → (s.rs.entries.map (fun e => e.loc)).Nodup →
        ∀ e ∈ t.rs.entries, e.ahead = true → e.state = .inFlight))

/-- FORMAT is refused by the first condition of R175 that fails, and nothing else changes; otherwise it applies the
pending geometry with LCAP brought down to the capacity limit, begins the next epoch at sequence 1 with empty tables,
blank bands and closed lanes, wants its first checkpoint, and answers the epoch and the LCAP (R9, R16, R176). That the
checkpoint is wanted and none runs yet, also where one can start at once, is the model's reading (log 3). The frame pool is
claimed only with no operation in flight (log 22). -/
def Obligations.FormatStartsAfresh : Prop :=
  ∀ (w : MaintWrite) (s : State), s.hears w.addr → w.payload = [] →
    let pg := s.pendGeom
    let limit := (pg.bpaA + pg.bpaB - 2 * s.work.blankLow) * (pg.spb * 16) * 7 / 8
    let ok1 := s.straps.fmtEn = true
    let ok2 := s.service ≠ .recovering ∧ s.service ≠ .formatting
    let ok3 := (∀ e ∈ s.tags, e = none) ∧ s.intake = []
    let ok4 := s.wprot = false
    let ok5 := s.highEpoch.getD 0 < 65535
    let ok6 := 2 ^ 20 ≤ limit
    (¬ ok1 → exec (.format w) s = .next (s.answered .strapLow [])) ∧
    (ok1 → ¬ ok2 → exec (.format w) s = .next (s.answered .wrongState [])) ∧
    (ok1 → ok2 → ¬ ok3 → exec (.format w) s = .next (s.answered .requestsOpen [])) ∧
    (ok1 → ok2 → ok3 → ¬ ok4 → exec (.format w) s = .next (s.answered .writeProtected [])) ∧
    (ok1 → ok2 → ok3 → ok4 → ¬ ok5 → exec (.format w) s = .next (s.answered .formatLimit [])) ∧
    (ok1 → ok2 → ok3 → ok4 → ok5 → ¬ ok6 → exec (.format w) s = .next (s.answered .badGeometry [])) ∧
    (ok1 → ok2 → ok3 → ok4 → ok5 → ok6 →
      let g : Geometry := { pg with lcap := min pg.lcap limit }
      let e := s.highEpoch.getD 0 + 1
      ∃ t, exec (.format w) s = .next t ∧ t.service = .formatting ∧ t.geom = some g ∧ t.pendGeom = g ∧
        t.epoch = some e ∧ t.highEpoch = some e ∧ t.seq = some 1 ∧ t.seqLimit = false ∧ t.cleared = some 0 ∧
        t.extents = [] ∧ t.earmarks = 0 ∧ t.mapPressure = false ∧ t.phase = none ∧ t.rc.job = none ∧
        t.bm = ⟨⟨List.replicate pg.bpaA Band.blank, [], ⟨0, 0, 0, 0, []⟩⟩,
          ⟨List.replicate pg.bpaB Band.blank, [], ⟨0, 0, 0, 0, []⟩⟩⟩ ∧
        t.lanes = List.replicate 8 Lane.fresh ∧ t.rs.reads = [] ∧ t.rs.entries = [] ∧ t.ck.wanted = true ∧
        t.ck.run = none ∧ t.ck.ringTail = 0 ∧ t.maint.status = .good ∧
        t.maint.payload = leBytes 2 e ++ leBytes 8 g.lcap ∧ t.exceptions = s.exceptions ∧
        (s.ports.a.op = none → s.ports.b.op = none → s.pool.frames.length = 256 → t.pool = Pool.fresh))

/-- CHECKPOINT, in READY, runs, sets the wanted flag and waits for a start (R154, R189); that it starts nothing itself, also
where a start is possible, is the model's reading (log 3). CLOSE_LANES, in READY, makes each OPEN lane of 0 to 6 give up, at
once or, for the lane of the data phase and a lane in WAITING, at the end of its phase (R80). Each band given up at once loses
its owner, and is DRAINING while frames are bound in it and else PARKED behind the bands parked before (R46), those of one
CLOSE_LANES in an order that is open; no other band changes. Both are WRONG_STATE elsewhere. -/
def Obligations.CheckpointAndCloseLanesCommands : Prop :=
  ∀ (w : MaintWrite) (s : State), s.hears w.addr → w.payload = [] →
    (s.service ≠ .ready → exec (.checkpoint w) s = .next (s.answered .wrongState []) ∧
      exec (.closeLanes w) s = .next (s.answered .wrongState [])) ∧
    (s.service = .ready → exec (.checkpoint w) s = .next { s with
      maint := { s.maint with busy := true, awaitStart := true, status := .busy, payload := [] }
      ck := { s.ck with wanted := true } }) ∧
    (s.service = .ready → s.lanes.length = 8 → ∃ u, exec (.closeLanes w) s = .next (settle u) ∧
      let t := settle u
      let given := fun (n : Nat) (a : Actuator) (b : Nat) => n < 7 ∧ (s.lane n).state = .opened ∧
        (∀ p, s.phase = some p → p.lane ≠ n) ∧ s.appends n a b
      t.maint.status = .good ∧ t.maint.payload = [] ∧
      (∀ n < 7,
        ((s.lane n).state = .opened → (∀ p, s.phase = some p → p.lane ≠ n) →
          (t.lane n).state = .closed ∧ (t.lane n).act = none ∧ (t.lane n).band = none ∧ (t.lane n).openFrame = none) ∧
        (((s.lane n).state = .waiting ∨ ((s.lane n).state = .opened ∧ ∃ p, s.phase = some p ∧ p.lane = n)) →
          (t.lane n).giveUpLater = true)) ∧
      (∀ n a b, given n a b → u.bandRec a b = { s.bandRec a b with
        state := if (s.bandRec a b).bound = 0 then .parked else .draining, owner := none }) ∧
      (∀ a b, (∀ n, ¬ given n a b) → u.bandRec a b = s.bandRec a b) ∧
      (∀ a, ∃ l : List Nat, l.Nodup ∧ (u.bm.get a).parked = (s.bm.get a).parked ++ l ∧
        ∀ b, b ∈ l ↔ (∃ n, given n a b) ∧ (s.bandRec a b).bound = 0) ∧
      (s.calm → t.bm = u.bm))

/-- READ_EXCEPTION takes the record at the head of the list and answers its fields and the number of records left, or EMPTY;
a later post of its kind and actuator appends a new record with occurrences 1, and a post taken before it gives the record
read the new occurrence and detail; ATTN_N is asserted while the list holds a record (R193). -/
def Obligations.ReadExceptionTakesHead : Prop :=
  ∀ (w : MaintWrite) (s : State), s.hears w.addr → w.payload = [] →
    (∀ e l, s.exceptions = e :: l →
      exec (.readException w) s = .next ({ s with exceptions := l }.answered .good
        (byte1 e.kind.code ++ byte1 (actCode e.act) ++ byte1 e.occurrences ++ byte1 l.length ++ leBytes 6 e.firstSeen ++
          leBytes 5 e.detail1 ++ leBytes 3 e.detail2)) ∧
      (ExceptionsOk s.exceptions → ∀ seq d1 d2,
        postTo l e.kind e.act seq d1 d2 = l ++ [⟨e.kind, e.act, 1, seq, d1, d2⟩] ∧
        postTo s.exceptions e.kind e.act seq d1 d2 =
          { e with occurrences := min (e.occurrences + 1) 255, detail1 := d1, detail2 := d2 } :: l)) ∧
    (s.exceptions = [] → exec (.readException w) s = .next (s.answered .empty [])) ∧
    (s.attnAsserted = true ↔ s.exceptions ≠ [])

/-! ## The extent map (chapter 2) -/

/-- The extent map's operations do to each LBA what their rules say, and keep the table in order (R22, R24, R25, R27, R28,
R31): with the records they can need free, Place maps its LBA to the location and returns PLACED, Release unmaps its range
and returns the number of blocks unmapped, and Make lost makes LOST just the blocks still at their expected locations and
returns them; no other LBA changes. A Release that must split a record with none free is EXHAUSTED and makes that record
LOST (R39). A Sweep returns mapped blocks of its band or cache segment from its position on, in ascending offset, no more
than its limit, and all of them when it reports no more (R23). -/
def Obligations.ExtentMapRefinesLookup : Prop :=
  ∀ s : State, TableOk s.extents →
    (∀ lba loc, loc.slot < 16 → 2 ≤ s.freeRecords →
      (place lba loc s).1 = true ∧ TableOk (place lba loc s).2.extents ∧
      lookup (place lba loc s).2.extents lba = .media loc ∧
      ∀ x, x ≠ lba → lookup (place lba loc s).2.extents x = lookup s.extents x) ∧
    (∀ lba count, 1 ≤ s.freeRecords →
      TableOk (releaseRange lba count s).2.extents ∧
      (releaseRange lba count s).1 =
        some ((List.range count).countP (fun i => decide (lookup s.extents (lba + i) ≠ .unmapped))) ∧
      ∀ x, lookup (releaseRange lba count s).2.extents x =
        if lba ≤ x ∧ x < lba + count then .unmapped else lookup s.extents x) ∧
    (∀ lba count e, e ∈ s.extents → e.start < lba → 1 ≤ count → lba + count < e.stop → s.freeRecords = 0 →
      (releaseRange lba count s).1 = none ∧ TableOk (releaseRange lba count s).2.extents ∧
      ∀ x, lookup (releaseRange lba count s).2.extents x =
        if e.start ≤ x ∧ x < e.stop then .lost else lookup s.extents x) ∧
    (∀ blocks : List (Nat × Loc), 2 * blocks.length ≤ s.freeRecords →
      TableOk (makeLost blocks s).2.extents ∧
      ∀ x, let hit := ∃ loc, (x, loc) ∈ blocks ∧ lookup s.extents x = .media loc
        (hit → x ∈ (makeLost blocks s).1.marked ∧ lookup (makeLost blocks s).2.extents x = .lost) ∧
        (¬ hit → x ∉ (makeLost blocks s).1.marked ∧ lookup (makeLost blocks s).2.extents x = lookup s.extents x)) ∧
    (∀ (a : Actuator) (k pos limit : Nat) (band : Bool),
      let found := sweep s.extents (if band then .band a k else .cacheSeg a k) pos limit
      let inside := fun l : Loc => l.segment.act = a ∧ pos ≤ l.segment.seg * 16 + l.slot ∧
        if band then l.segment.region = .band ∧ l.segment.band = k else l.segment.region = .cache ∧ l.segment.seg = k
      found.1.length ≤ limit ∧ (found.2 = true → found.1.length = limit) ∧
      found.1.Pairwise (fun x y => x.2.segment.seg * 16 + x.2.slot ≤ y.2.segment.seg * 16 + y.2.slot) ∧
      (∀ x l, (x, l) ∈ found.1 → lookup s.extents x = .media l ∧ inside l) ∧
      ∀ x l, lookup s.extents x = .media l → inside l → (x, l) ∈ found.1 ∨
        (found.2 = true ∧ ∀ y ∈ found.1, y.2.segment.seg * 16 + y.2.slot ≤ l.segment.seg * 16 + l.slot))

/-- Conditional move is Place, and COMMITTED, when the LBA is MEDIA at the expected source in every field; otherwise it is
DEAD and changes nothing (R29). -/
def Obligations.ConditionalMoveMovesOnlyCurrent : Prop :=
  ∀ (lba : Nat) (src dst : Loc) (s : State),
    (lookup s.extents lba = .media src → (conditionalMove lba src dst s).2 = (place lba dst s).2 ∧
      (2 ≤ s.freeRecords → TableOk s.extents → dst.slot < 16 → (conditionalMove lba src dst s).1 = .committed ∧
        lookup (conditionalMove lba src dst s).2.extents lba = .media dst)) ∧
    (lookup s.extents lba ≠ .media src → conditionalMove lba src dst s = (.dead, s))

/-- Outside recovery every band's valid count and extent count agree with the extent table at every step (R33), each
change of the table bringing them along (R19). -/
def Obligations.BandCountsFollowTable : Prop :=
  (∀ s t : State, s.recov = Recovery.off → s.service ≠ .recovering → TableOk s.extents → CountsOk s →
    step s = .next t → CountsOk t) ∧
  (∀ (s : State) (t : List Extent), s.service ≠ .recovering → TableOk s.extents → TableOk t → CountsOk s →
    CountsOk (commitTable t s) ∧ (commitTable t s).extents = t)

/-- Map pressure and band pressure follow their counts (R40, R96, R97, R135): entry below 8,192 free records posts
MAP_PRESSURE once with the count; entry to band pressure at BLANK_LOW sets the credit to C / 4; leaving clears the
no-victim mark; the credit rises by what an evacuation frees, up to 65,535, and falls by one at an acceptance, only under
pressure. -/
def Obligations.PressuresFollowTheirCounts : Prop :=
  ∀ (s : State) (a : Actuator),
    (s.service ≠ .recovering →
      ((evalMapPressure s).mapPressure = true ↔ s.freeRecords < 8192) ∧
      (s.freeRecords < 8192 → s.mapPressure = false → evalMapPressure s = { s with
        mapPressure := true
        exceptions := postTo s.exceptions .mapPressure .A (s.seq.getD 0) s.freeRecords 0 }) ∧
      (s.freeRecords < 8192 → s.mapPressure = true → evalMapPressure s = s) ∧
      (8192 ≤ s.freeRecords → s.mapPressure = true →
        evalMapPressure s = { s with mapPressure := false, rc := { s.rc with noVictimMap := false } })) ∧
    (s.service = .recovering → evalMapPressure s = s) ∧
    (((evalBandPressure a s).credit.get a).pressure = true ↔ s.blankCount a ≤ s.work.blankLow) ∧
    (s.blankCount a ≤ s.work.blankLow → (s.credit.get a).pressure = false →
      ((evalBandPressure a s).credit.get a).q = s.cap / 4) ∧
    ((s.credit.get a).pressure = true → ((evalBandPressure a s).credit.get a).q = (s.credit.get a).q) ∧
    (s.work.blankLow < s.blankCount a → (s.credit.get a).pressure = true →
      ((evalBandPressure a s).rc.noVictim.get a) = false) ∧
    (evalBandPressure a s).credit.get (other a) = s.credit.get (other a) ∧
    (∀ n, ((returnCredit a n s).credit.get a).q =
      if (s.credit.get a).pressure then min ((s.credit.get a).q + n) 65535 else (s.credit.get a).q) ∧
    ((chargeCredit a s).credit.get a).q =
      (if (s.credit.get a).pressure then (s.credit.get a).q - 1 else (s.credit.get a).q)

/-! ## Stamps, verdicts and records (chapters 1 and 13) -/

/-- What the part writes to the media reads back as itself: a stamp, whatever its runs (R10, R11, section 13.2), and the
records of the checkpoint ring, each in its place: release records, extent records, and band records as pages carry them,
an EVACUATED band's being BLANK or RETIRED below S_start and EVACUATED at or above it (R42, R156, R157, R194, section 13.3);
and the close of a checkpoint of at most 96 pages, every field of it (R158, section 13.3). Two close blocks that differ only in
bytes that no field occupies, past the page count and the 96 places among them, read back alike (R194).
The pointer 0 of a band written RETIRED, and that a window whose lane byte is above 5, which the part does not write, is loaded
as not enabled, are the model's reading (log 38). -/
def Obligations.StampsAndRecordsReadBack : Prop :=
  (∀ (g : Geometry) (t : Stamp), StampOk g t → (rawStamp t.bytes).toStamp (some g) = some t) ∧
  (∀ r : ReleaseRec, r.lba < 2 ^ 40 → 1 ≤ r.count → r.count ≤ 65536 → r.seq < 2 ^ 48 →
    loadRelease (leNat r.bytes) = some { r with tag := none }) ∧
  (∀ (g : Geometry) (e : Extent), e.start < 2 ^ 40 → 1 ≤ e.len → e.len ≤ 65536 →
    (∀ l, e.kind = .media l → l.Fits ∧ l.valid (some g) = true) → loadExtent (leNat e.bytes) (some g) = some e) ∧
  (∀ (b : Band) (spb sStart : Nat), b.health < 256 → b.written < 65536 → b.written ≤ spb → b.valid < 2 ^ 24 →
    b.extents < 2 ^ 24 → b.closeSeq.getD 0 < 2 ^ 48 →
    (b.state = .opened ∨ b.state = .draining ∨ b.state = .parked ∨ b.state = .blank ∨ b.state = .retired →
      ∃ r, loadBand (leNat (b.pageBytes sStart)) spb = some r ∧ r.state = b.state ∧ r.written = b.written ∧
        r.reserved = b.written ∧ r.valid = b.valid ∧ r.extents = b.extents ∧ r.health = b.health) ∧
    (b.state = .full ∨ b.state = .cleaning →
      ∃ r, loadBand (leNat (b.pageBytes sStart)) spb = some r ∧ r.state = .full ∧ r.written = b.written ∧
        r.closeSeq = some (b.closeSeq.getD 0) ∧ r.health = b.health) ∧
    (b.state = .evacuated → b.evacSeq.getD 0 < sStart →
      ∃ r, loadBand (leNat (b.pageBytes sStart)) spb = some r ∧
        r.state = (if b.health = 3 then .retired else .blank) ∧ r.written = 0) ∧
    (b.state = .evacuated → sStart ≤ b.evacSeq.getD 0 → b.evacSeq.getD 0 < 2 ^ 48 →
      ∃ r, loadBand (leNat (b.pageBytes sStart)) spb = some r ∧ r.state = .evacuated ∧ r.written = b.written ∧
        r.evacSeq = some (b.evacSeq.getD 0) ∧ r.validAtSel = some 0 ∧ r.valid = b.valid ∧ r.health = b.health)) ∧
  (∀ (records : List (List Byte)) (k : Nat) (r : List Byte), records.length ≤ 4096 → (∀ x ∈ records, x.length = 16) →
    records[k]? = some r → recordAt (recordSlots records) k = leNat r) ∧
  (∀ (st : Stamp) (sStart epoch startPos pagesA pagesB pagesExt : Nat) (g : Geometry) (c : Two Captured) (w : Settings)
    (pages : List Nat),
    sStart < 2 ^ 48 → epoch < 2 ^ 16 → startPos < 2 ^ 64 → pages.length = pagesA + pagesB + pagesExt → pages.length ≤ 96 →
    (∀ p ∈ pages, p < 2 ^ 64) →
    (g.spb < 2 ^ 32 ∧ g.bpaA < 2 ^ 32 ∧ g.bpaB < 2 ^ 32 ∧ g.mcs < 2 ^ 32 ∧ g.cks < 2 ^ 32 ∧ g.lcap < 2 ^ 64) →
    (∀ a, (c.get a).freeHead < 2 ^ 64 ∧ (c.get a).migrateHead < 2 ^ 64 ∧ (c.get a).tail < 2 ^ 64) →
    (w.streamMin < 2 ^ 16 ∧ w.idleLimit < 2 ^ 16 ∧ w.laneRelease < 256 ∧ w.holdLimit < 2 ^ 16 ∧ w.blankLow < 256 ∧
      w.reserve < 256 ∧ w.cacheHigh < 256 ∧ w.cacheLow < 256 ∧ w.ckSegments < 2 ^ 32 ∧ w.idleMigrate < 256) →
    w.windows.length = 8 → (∀ x ∈ w.windows, x.base < 2 ^ 40 ∧ x.mask < 2 ^ 40 ∧ x.lane < 256) →
    loadClose st (closeBlock sStart epoch startPos pagesA pagesB pagesExt g c w pages) =
      ⟨st, sStart, epoch, startPos, pagesA, pagesB, pagesExt, g, c,
        { w with windows := w.windows.map (fun x => { x with enabled := x.enabled && decide (x.lane ≤ 5) }) }, pages⟩) ∧
  (∀ (st : Stamp) (b b' : Block),
    let byte := fun (x : Block) (i : Nat) => fieldAt x.toNat i 1
    let count := byte b 16 + byte b 17 + byte b 18
    (∀ i, i < 19 ∨ 20 ≤ i ∧ i < 113 ∨ 128 ≤ i ∧ i < 224 + 8 * min count 96 → byte b i = byte b' i) →
    loadClose st b = loadClose st b' ∧ (loadClose st b).pages.length = min count 96)

/-- The verdict on a segment read is the first of R13's table that holds; the check word is the exclusive-or of the payload's
32-bit words with the low 32 bits of the sequence (R12): a block with one of its 1,024 little-endian words set folds to that
word, and the folds of blocks and of payloads add by exclusive-or, so a zero payload has the sequence's own bits. -/
def Obligations.VerdictsFollowTheTable : Prop :=
  (∀ (g : Option Geometry) (epoch : Option Nat) (l : SegLoc) (header trailer : Option StampBytes) (fold : BitVec 32),
    let v := (judge g epoch l header trailer fold).verdict
    (v = .blank ↔ header = none ∧ trailer = none) ∧
    ((header = none ∧ trailer ≠ none ∨ header ≠ none ∧ trailer = none) → v = .torn) ∧
    ∀ h t, header = some h → trailer = some t →
      let r := rawStamp h
      (rawStamp t ≠ r → v = .torn) ∧
      (rawStamp t = r → r.check ≠ fold ^^^ BitVec.ofNat 32 r.seq → v = .corrupt) ∧
      (rawStamp t = r → r.check = fold ^^^ BitVec.ofNat 32 r.seq → r.toStamp g = none → v = .corrupt) ∧
      ∀ st, rawStamp t = r → r.check = fold ^^^ BitVec.ofNat 32 r.seq → r.toStamp g = some st →
        (((∃ e, epoch = some e ∧ st.epoch ≠ e) ∨ st.own ≠ l) → v = .foreign) ∧
        (¬ ((∃ e, epoch = some e ∧ st.epoch ≠ e) ∨ st.own ≠ l) →
          v = .good ∧ (judge g epoch l header trailer fold).stamp = some st)) ∧
  payloadFold (List.replicate 16 0) = 0 ∧
  (∀ p q : List Block, payloadFold (p ++ q) = payloadFold p ^^^ payloadFold q) ∧
  (∀ b : Block, payloadFold [b] = foldBlock b) ∧
  (∀ b c : Block, foldBlock (b ^^^ c) = foldBlock b ^^^ foldBlock c) ∧
  (∀ (k : Nat) (w : BitVec 32), k < 1024 → foldBlock (w.setWidth 32768 <<< (32 * k)) = w) ∧
  (∀ (fold : BitVec 32) (seq : Nat), checkWord fold seq = fold ^^^ BitVec.ofNat 32 seq)

/-! ## Recovery (chapter 10) -/

/-- STAMP_SCAN_RESULT during the first scan of the checkpoint ring (R106, R164, R165): the entries, judged, join those
found and the next scan follows; after the last, a ring without a stamp leaves the part UNFORMATTED with epoch 1 and
SEQ 1, one with stamps but none GOOD leaves it HALTED in the highest epoch seen, and otherwise the GOOD close of
highest sequence of the highest epoch of a GOOD entry is read next; with no such close the part is HALTED in that epoch.
SEGMENT_READ_RESULT for the scanner (R165, R166, R170, R194): a GOOD segment with the stamp the ring scan found succeeds. A
close that is complete is chosen with its geometry, cleared sequence and settings, and its pages are read; one that is not
leaves the part HALTED. A page joins its table, and the last one begins the scans of the bands recorded OPEN, DRAINING or
PARKED, of those recorded BLANK, and of both stretches of each ring, and the reads of the notices. A notice's records at or
above S_start are collected. Any other result counts an attempt and the read, its frame kept, is the next to be issued; the
third leaves the part HALTED, or skips a notice. NOT_READY changes nothing of the scanner. Stamps are judged without a geometry
in the ring scan, a short list is filled up, the close is read as a page is, a failed read keeps its frame and comes before the
scanner's other operations, a close that counts more pages than it has places for is not complete and one that counts none is
chosen, records of zeros at the end of a page or notice are none, the scanner's operations of one port have an order, and the
highest epoch of a GOOD entry is in force from the end of the ring scan on, as the model reads it (logs 9, 10, 11, 14, 15, 38,
42 and 50). -/
def Obligations.StampScanDrivesRecovery : Prop :=
  (∀ (s : State) (issue : BitVec 16) (o : Op) (idx : Nat) (list : List ScanRaw), s.awaits .A issue o →
    o.kind = .stampScan → o.req = .scanner → s.task .A = some ⟨.ring idx, 0, none⟩ → s.recov.phase = .ringScan →
    let ring := s.recov.ring ++ scanList 256 0 .through (judgeEntries s.geom s.epoch o.loc 0 list)
    let stamped := ring.filter (fun e => e.stamped)
    let good := ring.filter (fun e => decide (e.verdict = some .good))
    ∃ t, exec (.stampScanResult .A issue (.entries list)) s = .next t ∧ (t.port .A).op = none ∧
      (idx + 256 < 4096 → t.recov.ring = ring ∧ t.task .A = some ⟨.ring (idx + 256), 0, none⟩ ∧ t.service = s.service) ∧
      (4096 ≤ idx + 256 → stamped = [] → t.service = .unformatted ∧ t.epoch = some 1 ∧ t.highEpoch = some 0 ∧
        t.recov = Recovery.off ∧ (s.quiet → t.seq = some 1)) ∧
      (4096 ≤ idx + 256 → stamped ≠ [] → good = [] → ∀ h, (∃ e ∈ stamped, e.epoch = h) → (∀ e ∈ stamped, e.epoch ≤ h) →
        t.service = .halted ∧ t.epoch = some h ∧ t.highEpoch = some h ∧ t.geom = none ∧ t.recov = Recovery.off) ∧
      (4096 ≤ idx + 256 → ∀ h e st, (∃ x ∈ stamped, x.epoch = h) → (∀ x ∈ stamped, x.epoch ≤ h) →
        (∃ x ∈ good, x.epoch = e) → (∀ x ∈ good, x.epoch ≤ e) →
        (∃ x ∈ ring, x.stamp = some st) → st.kind = .close → st.epoch = e →
        (∀ x ∈ ring, ∀ st', x.stamp = some st' → st'.kind = .close → st'.epoch = e → st' = st ∨ st'.seq < st.seq) →
        t.highEpoch = some h ∧ t.epoch = some e ∧ t.recov.phase = .closeRead ∧
        ∃ work, t.task .A = some work ∧ work.task = .close st) ∧
      (4096 ≤ idx + 256 → ∀ h e, (∃ x ∈ stamped, x.epoch = h) → (∀ x ∈ stamped, x.epoch ≤ h) →
        (∃ x ∈ good, x.epoch = e) → (∀ x ∈ good, x.epoch ≤ e) →
        (∀ x ∈ ring, ∀ st, x.stamp = some st → st.kind = .close → st.epoch ≠ e) →
        t.service = .halted ∧ t.epoch = some e ∧ t.highEpoch = some h ∧ t.geom = none ∧ t.recov = Recovery.off)) ∧
  (∀ (s : State) (issue : BitVec 16) (o : Op) (w : RecWork) (rest : List RecWork), s.awaits .A issue o →
    o.kind = .segmentRead → o.req = .scanner → s.recov.work.a = w :: rest → s.quiet →
    let ends := fun r : ReadResult => fun u : State => exec (.segmentReadResult .A issue r) s = .next u
    let tasks := fun (u : State) (a : Actuator) => (u.recov.work.get a).map (fun x => x.task)
    let later := rest.map (fun x => x.task)
    let halts := fun (u : State) (e : Nat) => u.service = .halted ∧ u.epoch = some e ∧ u.geom = none ∧ u.extents = [] ∧
      u.maint.work = Settings.default ∧ u.maint.pend = Settings.default ∧ u.recov = Recovery.off
    let found := fun st : Stamp => w.task = .close st ∨ w.task = .notice st ∨
      ∃ k c ctr e, w.task = .page k ∧ s.recov.chosen = some c ∧ c.pages[k]? = some ctr ∧
        s.recov.ring[ctr % c.geom.cks]? = some e ∧ e.stamp = some st
    let loads := fun (payload : List Block) (st : Stamp) =>
      (∀ k c, w.task = .page k → s.recov.chosen = some c → (loadPage k st.filled payload c s).isSome) ∧
      (∀ n, w.task = .notice n → (allSome ((filledRecords releaseWidth payload n.filled).map loadRelease)).isSome)
    let good := fun (header trailer : Option StampBytes) (payload : List Block) (st : Stamp) =>
      (judge s.geom s.epoch o.loc header trailer (payloadFold payload)).verdict = .good ∧
      (judge s.geom s.epoch o.loc header trailer (payloadFold payload)).stamp = some st ∧ found st ∧ loads payload st
    let failed := fun r : ReadResult => r = .unreadable ∨ ∃ header trailer payload, r = .done header trailer payload ∧
      ∀ st, ¬ good header trailer payload st
    (∃ u, ends .notReady u ∧ u.recov = s.recov ∧ (u.port .A).op = none) ∧
    (∀ r, failed r → w.task.reads = true →
      (w.attempts + 1 < 3 → ∃ u, ends r u ∧ u.service = s.service ∧ u.recov = { s.recov with
        work := ⟨{ w with attempts := w.attempts + 1 } :: rest, s.recov.work.b⟩ }) ∧
      (3 ≤ w.attempts + 1 →
        (∀ c, w.task = .close c → ∃ u, ends r u ∧ halts u c.epoch) ∧
        (∀ k, w.task = .page k → ∃ u, ends r u ∧ halts u (s.epoch.getD 0)) ∧
        (∀ n, w.task = .notice n → (rest ≠ [] ∨ s.recov.work.b ≠ []) →
          ∃ u, ends r u ∧ tasks u .A = later ∧ u.recov.items = s.recov.items ∧ u.service = s.service))) ∧
    (∀ header trailer payload st, good header trailer payload st →
      (w.task = .close st →
        let c := loadClose st (payload.getD 0 0)
        let complete := st.own.seg < c.geom.cks ∧ c.pages.length = c.pagesA + c.pagesB + c.pagesExt ∧ ∀ k ctr, c.pages[k]? = some ctr →
          ∃ e x, s.recov.ring[ctr % c.geom.cks]? = some e ∧ e.verdict = some .good ∧ e.stamp = some x ∧
            x.kind = (if k < c.pagesA + c.pagesB then .bandpage else .extpage) ∧ x.epoch = st.epoch ∧
            x.own = ⟨.A, .ckring, 0, ctr % c.geom.cks⟩ ∧ c.sStart ≤ x.seq ∧ x.seq < st.seq
        ∃ u, ends (.done header trailer payload) u ∧ (¬ complete → halts u st.epoch) ∧
          (complete → u.service = s.service ∧ u.geom = some c.geom ∧ u.cleared = some c.sStart ∧
            u.maint.work = c.settings ∧ u.maint.pend = c.settings ∧ u.recov.chosen = some c ∧
            u.recov.floor = c.sStart ∧ u.recov.phase = .pages ∧ tasks u .A = .page 0 :: later)) ∧
      (∀ k c v, w.task = .page k → s.recov.chosen = some c → s.geom = some c.geom →
        loadPage k st.filled payload c s = some v →
        let act : Actuator := if k < c.pagesA then .A else .B
        let page := if k < c.pagesA then k else k - c.pagesA
        (k < c.pagesA + c.pagesB → v.extents = s.extents ∧
          ∃ l, bandsOfPage payload c.geom act page = some l ∧ (v.bm.get act).bands = (s.bm.get act).bands ++ l ∧
            v.bm.get (other act) = s.bm.get (other act)) ∧
        (c.pagesA + c.pagesB ≤ k → v.bm = s.bm ∧ ∃ l, v.extents = s.extents ++ l ∧
          (filledRecords extentWidth payload st.filled).map (fun x => loadExtent x s.geom) = l.map some) ∧
        ∃ u, ends (.done header trailer payload) u ∧
          (k + 1 < c.pages.length → u.bm = v.bm ∧ u.extents = v.extents ∧ tasks u .A = .page (k + 1) :: later ∧
            u.recov.phase = s.recov.phase) ∧
          (c.pages.length ≤ k + 1 →
            let cap := fun a : Actuator => c.captured.get a
            let note := fun x : RecTask => ∃ i e n, i < c.geom.cks ∧ s.recov.ring[i]? = some e ∧ e.stamp = some n ∧
              n.kind = .notice ∧ n.epoch = c.stamp.epoch ∧ c.sStart ≤ n.seq ∧ x = .notice n
            let due := fun (a : Actuator) (x : RecTask) =>
              (∃ b r, (v.bm.get a).bands[b]? = some r ∧ (r.state = .opened ∨ r.state = .draining ∨ r.state = .parked) ∧
                r.written < c.geom.spb ∧ x = .band b r.written) ∨
              (∃ b r, (v.bm.get a).bands[b]? = some r ∧ r.state = .blank ∧ x = .blank b) ∨
              ((cap a).migrateHead < (cap a).tail ∧
                x = .verify (cap a).migrateHead ((cap a).tail - (cap a).migrateHead)) ∨
              ((cap a).tail - (cap a).migrateHead < c.geom.mcs ∧
                x = .collect (cap a).tail (c.geom.mcs - ((cap a).tail - (cap a).migrateHead)))
            (∃ x, note x ∨ due .A x ∨ due .B x) → u.bm = v.bm ∧ u.extents = v.extents ∧ u.recov.phase = .scans ∧
              u.recov.derivedTail = ⟨c.captured.a.tail, c.captured.b.tail⟩ ∧
              (∀ x, x ∈ tasks u .A ↔ note x ∨ due .A x) ∧ ∀ x, x ∈ tasks u .B ↔ due .B x)) ∧
      (∀ (n : Stamp) (records : List ReleaseRec), w.task = .notice n → (filledRecords releaseWidth payload n.filled).map loadRelease = records.map some →
        s.recov.items.length + records.length ≤ 131072 → (rest ≠ [] ∨ s.recov.work.b ≠ []) →
        ∃ u, ends (.done header trailer payload) u ∧ tasks u .A = later ∧
          u.recov.items = s.recov.items ++ (records.filter (fun x => decide (s.recov.floor ≤ x.seq))).map
            (fun x => .release x.lba x.count x.seq) ∧
          s.recov.maxSeq ≤ u.recov.maxSeq ∧ ∀ x ∈ records, x.seq ≤ u.recov.maxSeq)))

/-- STAMP_SCAN_RESULT for the scans of what was written after the checkpoint (R167 to R169, R171, R173, R174): a band scan
walks its entries up to the first that is unused or TORN, takes GOOD ones at or above the floor, CORRUPT and UNREADABLE ones
as written, collects the stamps of the first and derives the written pointer, TORN truncating the band; the blank-band scan
has a band whose segment 0 is not unused scanned in full; the verification stretch takes every GOOD, CORRUPT or UNREADABLE
entry as written; the collection stretch ends at a GOOD entry below the floor, moves the derived tail past the last
collected entry, and counts what it passed over before that as written when CORRUPT or UNREADABLE. A GOOD or TORN entry of
the epoch raises the highest sequence. How short lists and the blank-band scan are taken is the model's (logs 15 and 24), and so
is which scan of the actuator comes next (log 14), and that nothing more of the collection stretch is scanned once its walk has
ended (log 51).
Replay of one item (R172), with records free: a DATA stamp of one run maps each slot not void to its place, a RELOC stamp
of one run moves each slot not void whose block is still at its source, and a release record unmaps its range; no other LBA
changes. -/
def Obligations.ReplayAppliesItems : Prop :=
  (∀ (s : State) (a : Actuator) (issue : BitVec 16) (o : Op) (list : List ScanRaw) (w : RecWork) (rest : List RecWork),
    s.awaits a issue o → o.kind = .stampScan → o.req = .scanner → s.recov.work.get a = w :: rest → s.quiet →
    (rest ≠ [] ∨ s.recov.work.get (other a) ≠ []) → s.recov.items.length + 256 ≤ 131072 →
    let floor := s.recov.floor
    let judged := judgeEntries s.geom s.epoch o.loc 0 list
    let kept := fun e : ScanEntry => decide (e.verdict = some .good) && decide (floor ≤ e.seq)
    let poor := fun e : ScanEntry => decide (e.verdict = some .corrupt) || decide (e.verdict = none)
    let unused := fun e : ScanEntry => decide (e.verdict = some .blank) || decide (e.verdict = some .foreign) ||
      (decide (e.verdict = some .good) && decide (e.seq < floor))
    let stamps := fun l : List ScanEntry => (l.filter kept).filterMap (fun e => e.stamp)
    ∃ t, exec (.stampScanResult a issue (.entries list)) s = .next t ∧ (t.port a).op = none ∧
      let tasks := (t.recov.work.get a).map (fun x => x.task)
      let later := rest.map (fun x => x.task)
      let gains := fun l : List ScanEntry => t.recov.items = s.recov.items ++ (stamps l).map ReplayItem.segment ∧
        t.recov.stampsCollected = s.recov.stampsCollected + (if s.recov.phase = .scans then (stamps l).length else 0)
      let notes := fun l : List ScanEntry => s.recov.maxSeq ≤ t.recov.maxSeq ∧
        ∀ e ∈ l, (e.verdict = some .good ∨ e.verdict = some .torn) → some e.epoch = s.epoch → e.seq ≤ t.recov.maxSeq
      (∀ b seg, w.task = .band b seg → (∃ v ∈ s.recov.walks, v.act = a ∧ v.band = b) →
        (∀ v ∈ s.recov.walks, v.act = a → v.band = b → v.ended = false) →
        let l := scanList (min 256 (s.spb - seg)) floor .stopUnused judged
        let written := l.takeWhile (fun e => kept e || poor e)
        gains written ∧ notes l ∧
        (∀ x, x ∈ t.recov.found ↔ x ∈ s.recov.found ∨ ∃ k e, written[k]? = some e ∧
          x = (⟨a, .band, b, seg + k⟩, if kept e then e.stamp else none)) ∧
        t.recov.walks = s.recov.walks.map (fun v => if v.act = a ∧ v.band = b then { v with
            derived := if written = [] then v.derived else seg + written.length
            ended := decide (written.length < l.length)
            torn := v.torn || decide (∃ e, l[written.length]? = some e ∧ e.verdict = some .torn) } else v) ∧
        tasks = (if (∃ e ∈ l, unused e = true) ∨ s.spb ≤ seg + l.length then later
          else .band b (seg + l.length) :: later)) ∧
      (∀ b, w.task = .blank b →
        let l := scanList 1 floor .stopUnused judged
        notes l ∧ t.recov.items = s.recov.items ∧ t.recov.found = s.recov.found ∧
        ((∃ e ∈ l, unused e = false) → tasks = .band b 0 :: later ∧
          t.recov.walks = s.recov.walks ++ [⟨a, b, 0, 0, false, false, true⟩]) ∧
        ((∀ e ∈ l, unused e = true) → tasks = later ∧ t.recov.walks = s.recov.walks)) ∧
      (∀ ctr left, w.task = .verify ctr left →
        let n := min (min 256 left) (s.mcs - ctr % s.mcs)
        let l := scanList n floor .through judged
        gains l ∧ notes l ∧
        (∀ x, x ∈ t.recov.found ↔ x ∈ s.recov.found ∨ ∃ k e, l[k]? = some e ∧
          (e.verdict = some .good ∨ poor e = true) ∧
          x = (s.cacheLoc a (ctr + k), if e.verdict = some .good then e.stamp else none)) ∧
        tasks = (if n < left then .verify (ctr + n) (left - n) :: later else later)) ∧
      (∀ ctr left, w.task = .collect ctr left → s.recov.collectDone.get a = false →
        let n := min (min 256 left) (s.mcs - ctr % s.mcs)
        let l := scanList n floor .through judged
        let live := l.takeWhile (fun e => !(decide (e.verdict = some .good) && decide (e.seq < floor)))
        let last := fun k : Nat => (∃ e, live[k]? = some e ∧ kept e = true) ∧
          ∀ j e, k < j → live[j]? = some e → kept e = false
        let poorIn := fun (lo hi : Nat) (x : SegLoc) =>
          ∃ k e, lo ≤ k ∧ k < hi ∧ live[k]? = some e ∧ poor e = true ∧ x = s.cacheLoc a (ctr + k)
        gains live ∧ notes l ∧ t.recov.collectDone.get a = decide (live.length < l.length) ∧
        (∀ k, last k → t.recov.derivedTail.get a = ctr + k + 1 ∧
          (∀ x, x ∈ t.recov.passed.get a ↔ poorIn (k + 1) live.length x) ∧
          ∀ x, x ∈ t.recov.found ↔ x ∈ s.recov.found ∨
            (∃ j e, live[j]? = some e ∧ kept e = true ∧ x = (s.cacheLoc a (ctr + j), e.stamp)) ∨
            (∃ y, x = (y, none) ∧ (y ∈ s.recov.passed.get a ∨ poorIn 0 k y))) ∧
        ((∀ e ∈ live, kept e = false) → t.recov.derivedTail = s.recov.derivedTail ∧ t.recov.found = s.recov.found ∧
          ∀ x, x ∈ t.recov.passed.get a ↔ x ∈ s.recov.passed.get a ∨ poorIn 0 live.length x) ∧
        tasks = (if n < left ∧ live.length = l.length then .collect (ctr + n) (left - n) :: later else later))) ∧
  ∀ (s : State), TableOk s.extents → 34 ≤ s.freeRecords →
    (∀ (st : Stamp) (r : Run), st.runs = [r] → r.first + r.len ≤ 16 →
      let t := replayItem s (.segment st)
      (st.kind = .data → ∀ x, lookup t.extents x =
        if r.start ≤ x ∧ x < r.start + r.len ∧ st.void.getLsbD (r.first + (x - r.start)) = false then
          .media ⟨st.own, r.first + (x - r.start)⟩
        else lookup s.extents x) ∧
      (st.kind = .reloc → ∀ src, r.source = some src → ∀ x, lookup t.extents x =
        if r.start ≤ x ∧ x < r.start + r.len ∧ st.void.getLsbD (r.first + (x - r.start)) = false ∧
            lookup s.extents x = .media (src.further (x - r.start)) then
          .media ⟨st.own, r.first + (x - r.start)⟩
        else lookup s.extents x)) ∧
    (∀ lba count seq x, lookup (replayItem s (.release lba count seq)).extents x =
      if lba ≤ x ∧ x < lba + count then .unmapped else lookup s.extents x)

/-- The end of recovery (R174, R57): SEQ is one past the highest sequence seen, each ring's heads stand at the captured
migrate_head and its tail as derived, a walked band has its derived pointer and is FULL, closed at SEQ, when truncated or at SPB
and PARKED otherwise, an EVACUATED band that still holds data is FULL again, every count agrees with the table, each parked list
holds the bands recorded PARKED that stay so and then those that became PARKED, each part by ascending band index, and the part
is READY with a checkpoint wanted. ring_start is the start position and ring_tail one past the highest counter value, in the
window of CKS values from the start position, of a GOOD or TORN entry of epoch E at or above S_start (R170). Every step of a
recovery keeps the derived tails between the captured migrate_head and MCS segments past it (R169), for a close whose captured
counters are a ring's, and so the step that ends it in READY leaves the ring counters in their order. A round that ends (R171)
replays its items in ascending sequence; a ceiling brings a further round with the ceiling as its floor, over the stretches
found and the notices; without one the tables are settled and recovery ends. While the list is full it keeps the items of lowest
sequence, and the ceiling the lowest not kept. The settling (R173) makes LOST each mapping that lies in no segment found written
with a stamp that agrees, leaves every other LBA, and posts RECOVERY_TORN for each actuator with their number. That the wanted
flag stands at that moment, also where port A is UP and the checkpoint can start at once, is the model's reading (log 3), as are
the part while RESET_N is asserted (log 26) and the blocks that an exhaustion makes LOST (log 36, not spoken of here). -/
def Obligations.RecoveryEndDerivesState : Prop :=
  (∀ s t : State, HeldOk s → ScansOk s → step s = .next t → ScansOk t ∧
    (s.service = .recovering → (∀ c, s.recov.chosen = some c → c.Sound) → t.service = .ready → RingsOk t)) ∧
  (∀ (x : ReplayItem) (r : Recovery),
    let lower := fun n : Nat => some (match r.ceiling with
      | some k => min k n
      | none => n)
    (r.items.length < 131072 → keepItem x r = { r with items := r.items ++ [x] }) ∧
    (131072 ≤ r.items.length → ∀ top ∈ r.items, (∀ y ∈ r.items, y.seq ≤ top.seq) →
      (top.seq < x.seq → keepItem x r = { r with ceiling := lower x.seq }) ∧
      (x.seq ≤ top.seq → keepItem x r =
        { r with items := r.items.filter (fun y => y.seq ≠ top.seq) ++ [x], ceiling := lower top.seq }))) ∧
  (∀ (c : CloseInfo) (s : State) (list : List ReplayItem), s.recov.chosen = some c → list.Perm s.recov.items →
    list.Pairwise (fun x y => x.seq < y.seq) →
    let u := list.foldl replayItem s
    (s.recov.ceiling = none → endRound s = endReady c (settleTables u)) ∧
    (∀ k, s.recov.ceiling = some k →
      let t := endRound s
      let ring := fun (a : Actuator) (ctr left : Nat) (x : RecTask) =>
        let part := min left (s.mcs - ctr % s.mcs)
        (0 < part ∧ x = .again (s.cacheLoc a ctr) part) ∨ (part < left ∧ x = .again ⟨a, .cache, 0, 0⟩ (left - part))
      let stretch := fun (a : Actuator) (x : RecTask) =>
        let cap := c.captured.get a
        (∃ w ∈ s.recov.walks, w.act = a ∧ w.start < w.derived ∧
          x = .again ⟨a, .band, w.band, w.start⟩ (w.derived - w.start)) ∨
        ring a cap.migrateHead (cap.tail - cap.migrateHead) x ∨ ring a cap.tail (s.recov.derivedTail.get a - cap.tail) x
      t.extents = u.extents ∧ t.service = s.service ∧ t.recov.phase = .round ∧ t.recov.floor = k ∧
      t.recov.ceiling = none ∧ t.recov.items = [] ∧ t.recov.found = s.recov.found ∧ t.recov.walks = s.recov.walks ∧
      t.recov.derivedTail = s.recov.derivedTail ∧ t.recov.stampsCollected = s.recov.stampsCollected ∧
      (∀ x, x ∈ (t.recov.work.get .A).map (fun w => w.task) ↔ (∃ n ∈ s.recov.notices, x = .notice n) ∨ stretch .A x) ∧
      (∀ x, x ∈ (t.recov.work.get .B).map (fun w => w.task) ↔ stretch .B x))) ∧
  (∀ s : State, TableOk s.extents → s.service = .recovering →
    let t := settleTables s
    let written : Nat → Loc → Bool := fun lba l =>
      let seen : Bool := match s.recov.found.find? (fun f => decide (f.1 = l.segment)) with
        | none => false
        | some (_, none) => true
        | some (_, some st) => st.agrees lba l.slot && !st.void.getLsbD l.slot
      let walk := s.recov.walks.find? (fun w => decide (w.act = l.segment.act) && decide (w.band = l.segment.band))
      match l.segment.region, walk with
      | .band, none => decide (l.segment.seg < (s.bandRec l.segment.act l.segment.band).written)
      | .band, some w => decide (l.segment.seg < w.start) || seen
      | .cache, _ => seen
      | .ckring, _ => false
    let torn := fun a : Actuator => ((s.extents.flatMap Extent.blocks).filter (fun x => !written x.1 x.2)).countP
      (fun x => decide (x.2.segment.act = a))
    2 * (torn .A + torn .B) ≤ s.freeRecords →
      t = { s with extents := t.extents, exceptions := t.exceptions, freeCount := t.freeCount } ∧ TableOk t.extents ∧
      (∀ x l, lookup s.extents x = .media l → lookup t.extents x = if written x l then .media l else .lost) ∧
      (∀ x, (∀ l, lookup s.extents x ≠ .media l) → lookup t.extents x = lookup s.extents x) ∧
      (∀ a, 0 < torn a → t.reports .recoveryTorn a (torn a) 0) ∧
      (∀ a, torn a = 0 → ∀ e ∈ t.exceptions, e.kind = .recoveryTorn → e.act = a → e ∈ s.exceptions)) ∧
  ∀ (c : CloseInfo) (s : State),
    let t := endReady c s
    let seq := s.recov.maxSeq + 1
    t.service = .ready ∧ t.seq = some seq ∧ t.seqLimit = decide (2 ^ 48 - 65536 ≤ seq) ∧ t.recov = Recovery.off ∧
    t.extents = s.extents ∧ t.ck.wanted = true ∧ t.ck.dStart = s.recov.stampsCollected ∧
    t.ck.dComplete = s.recov.stampsCollected ∧ t.ck.pendingBlank = [] ∧ CountsOk t ∧
    -- the checkpoint ring's counters (R170)
    (let cks := c.geom.cks
     let window := fun n : Nat => c.startPos ≤ n ∧ n < c.startPos + cks
     let counts := fun n : Nat => ∃ e, s.recov.ring[n % cks]? = some e ∧ (e.verdict = some .good ∨ e.verdict = some .torn) ∧
       e.epoch = c.stamp.epoch ∧ c.sStart ≤ e.seq
     t.ck.ringStart = c.startPos ∧ (∀ n, window n → counts n → n < t.ck.ringTail) ∧
     ((∃ n, window n ∧ counts n) → ∃ n, window n ∧ counts n ∧ t.ck.ringTail = n + 1)) ∧
    -- the parked lists (R174)
    (∀ a, ∃ stay became : List Nat, (t.bm.get a).parked = stay ++ became ∧
      stay.Pairwise (fun x y => x < y) ∧ became.Pairwise (fun x y => x < y) ∧
      (∀ b, b ∈ stay ↔ b < (s.bm.get a).bands.length ∧ (t.bandRec a b).state = .parked ∧ (s.bandRec a b).state = .parked) ∧
      ∀ b, b ∈ became ↔ b < (s.bm.get a).bands.length ∧ (t.bandRec a b).state = .parked ∧ (s.bandRec a b).state ≠ .parked) ∧
    (∀ a, t.ring a = ⟨(c.captured.get a).migrateHead, (c.captured.get a).migrateHead, (c.captured.get a).migrateHead,
      s.recov.derivedTail.get a, []⟩) ∧
    (∀ a b, b < (s.bm.get a).bands.length →
      let old := s.bandRec a b
      let new := t.bandRec a b
      (∀ w, s.recov.walks.find? (fun w => decide (w.act = a) && decide (w.band = b)) = some w →
        new.written = w.derived ∧ new.reserved = w.derived ∧
        (w.torn = true ∨ w.derived = s.spb → new.state = .full ∧ new.closeSeq = some seq) ∧
        (¬ (w.torn = true ∨ w.derived = s.spb) → new.state = .parked)) ∧
      (s.recov.walks.find? (fun w => decide (w.act = a) && decide (w.band = b)) = none →
        new.written = old.written ∧
        (old.state = .evacuated → 0 < homeBlocks s.extents a b → new.state = .full ∧ new.closeSeq = some seq) ∧
        (¬ (old.state = .evacuated ∧ 0 < homeBlocks s.extents a b) → new.state = old.state)))
end

