-- ==== Sys2Proof/Laws/State.lean ====
section
/-! SUPPORT. What each named update of the state leaves in every field: one theorem for each update, whose parts are
the lemmas field by field, so that no later proof unfolds a record update. -/

namespace Sys2Proof.Machine

/-! ## Pairs -/

@[simp] theorem Two.get_modify {α : Type} (t : Two α) (a : Actuator) (f : α → α) : (t.modify a f).get a = f (t.get a) := by
  cases a <;> rfl

@[simp] theorem Two.get_modify_other {α : Type} (t : Two α) (a : Actuator) (f : α → α) :
    (t.modify a f).get (other a) = t.get (other a) := by
  cases a <;> rfl

theorem Two.get_modify_of_ne {α : Type} (t : Two α) (a b : Actuator) (f : α → α) (h : b ≠ a) :
    (t.modify a f).get b = t.get b := by
  cases a <;> cases b <;> simp_all [Two.get, Two.modify]

/-! ## Updates -/

@[simp] theorem State.modFrame_fields (s : State) (id : Nat) (f : Frame → Frame) :
    (s.modFrame id f).pending = s.pending ∧ (s.modFrame id f).now = s.now ∧
    (s.modFrame id f).freeCount = s.freeCount ∧ (s.modFrame id f).straps = s.straps ∧
    (s.modFrame id f).wprot = s.wprot ∧ (s.modFrame id f).resetN = s.resetN ∧ (s.modFrame id f).gate = s.gate ∧
    (s.modFrame id f).service = s.service ∧ (s.modFrame id f).geom = s.geom ∧
    (s.modFrame id f).pendGeom = s.pendGeom ∧ (s.modFrame id f).seq = s.seq ∧
    (s.modFrame id f).seqLimit = s.seqLimit ∧ (s.modFrame id f).epoch = s.epoch ∧
    (s.modFrame id f).highEpoch = s.highEpoch ∧ (s.modFrame id f).extents = s.extents ∧
    (s.modFrame id f).earmarks = s.earmarks ∧ (s.modFrame id f).mapPressure = s.mapPressure ∧
    (s.modFrame id f).bm = s.bm ∧ (s.modFrame id f).cleared = s.cleared ∧ (s.modFrame id f).lanes = s.lanes ∧
    (s.modFrame id f).pool = { s.pool with frames := s.pool.frames.modify id f } ∧
    (s.modFrame id f).credit = s.credit ∧ (s.modFrame id f).phase = s.phase ∧ (s.modFrame id f).ports = s.ports ∧
    (s.modFrame id f).rs = s.rs ∧ (s.modFrame id f).rc = s.rc ∧ (s.modFrame id f).ck = s.ck ∧
    (s.modFrame id f).recov = s.recov ∧ (s.modFrame id f).tags = s.tags ∧ (s.modFrame id f).intake = s.intake ∧
    (s.modFrame id f).frontOut = s.frontOut ∧ (s.modFrame id f).maint = s.maint ∧
    (s.modFrame id f).exceptions = s.exceptions := by
  repeat' constructor

@[simp] theorem State.modLane_fields (s : State) (n : Nat) (f : Lane → Lane) :
    (s.modLane n f).pending = s.pending ∧ (s.modLane n f).now = s.now ∧ (s.modLane n f).freeCount = s.freeCount ∧
    (s.modLane n f).straps = s.straps ∧ (s.modLane n f).wprot = s.wprot ∧ (s.modLane n f).resetN = s.resetN ∧
    (s.modLane n f).gate = s.gate ∧ (s.modLane n f).service = s.service ∧ (s.modLane n f).geom = s.geom ∧
    (s.modLane n f).pendGeom = s.pendGeom ∧ (s.modLane n f).seq = s.seq ∧ (s.modLane n f).seqLimit = s.seqLimit ∧
    (s.modLane n f).epoch = s.epoch ∧ (s.modLane n f).highEpoch = s.highEpoch ∧ (s.modLane n f).extents = s.extents ∧
    (s.modLane n f).earmarks = s.earmarks ∧ (s.modLane n f).mapPressure = s.mapPressure ∧ (s.modLane n f).bm = s.bm ∧
    (s.modLane n f).cleared = s.cleared ∧ (s.modLane n f).lanes = s.lanes.modify n f ∧
    (s.modLane n f).pool = s.pool ∧ (s.modLane n f).credit = s.credit ∧ (s.modLane n f).phase = s.phase ∧
    (s.modLane n f).ports = s.ports ∧ (s.modLane n f).rs = s.rs ∧ (s.modLane n f).rc = s.rc ∧
    (s.modLane n f).ck = s.ck ∧ (s.modLane n f).recov = s.recov ∧ (s.modLane n f).tags = s.tags ∧
    (s.modLane n f).intake = s.intake ∧ (s.modLane n f).frontOut = s.frontOut ∧ (s.modLane n f).maint = s.maint ∧
    (s.modLane n f).exceptions = s.exceptions := by
  repeat' constructor

@[simp] theorem State.modMgr_fields (s : State) (a : Actuator) (f : BandMgr → BandMgr) :
    (s.modMgr a f).pending = s.pending ∧ (s.modMgr a f).now = s.now ∧ (s.modMgr a f).freeCount = s.freeCount ∧
    (s.modMgr a f).straps = s.straps ∧ (s.modMgr a f).wprot = s.wprot ∧ (s.modMgr a f).resetN = s.resetN ∧
    (s.modMgr a f).gate = s.gate ∧ (s.modMgr a f).service = s.service ∧ (s.modMgr a f).geom = s.geom ∧
    (s.modMgr a f).pendGeom = s.pendGeom ∧ (s.modMgr a f).seq = s.seq ∧ (s.modMgr a f).seqLimit = s.seqLimit ∧
    (s.modMgr a f).epoch = s.epoch ∧ (s.modMgr a f).highEpoch = s.highEpoch ∧ (s.modMgr a f).extents = s.extents ∧
    (s.modMgr a f).earmarks = s.earmarks ∧ (s.modMgr a f).mapPressure = s.mapPressure ∧
    (s.modMgr a f).bm = s.bm.modify a f ∧ (s.modMgr a f).cleared = s.cleared ∧ (s.modMgr a f).lanes = s.lanes ∧
    (s.modMgr a f).pool = s.pool ∧ (s.modMgr a f).credit = s.credit ∧ (s.modMgr a f).phase = s.phase ∧
    (s.modMgr a f).ports = s.ports ∧ (s.modMgr a f).rs = s.rs ∧ (s.modMgr a f).rc = s.rc ∧ (s.modMgr a f).ck = s.ck ∧
    (s.modMgr a f).recov = s.recov ∧ (s.modMgr a f).tags = s.tags ∧ (s.modMgr a f).intake = s.intake ∧
    (s.modMgr a f).frontOut = s.frontOut ∧ (s.modMgr a f).maint = s.maint ∧
    (s.modMgr a f).exceptions = s.exceptions := by
  repeat' constructor

@[simp] theorem State.modBand_fields (s : State) (a : Actuator) (b : Nat) (f : Band → Band) :
    (s.modBand a b f).pending = s.pending ∧ (s.modBand a b f).now = s.now ∧
    (s.modBand a b f).freeCount = s.freeCount ∧ (s.modBand a b f).straps = s.straps ∧
    (s.modBand a b f).wprot = s.wprot ∧ (s.modBand a b f).resetN = s.resetN ∧ (s.modBand a b f).gate = s.gate ∧
    (s.modBand a b f).service = s.service ∧ (s.modBand a b f).geom = s.geom ∧
    (s.modBand a b f).pendGeom = s.pendGeom ∧ (s.modBand a b f).seq = s.seq ∧
    (s.modBand a b f).seqLimit = s.seqLimit ∧ (s.modBand a b f).epoch = s.epoch ∧
    (s.modBand a b f).highEpoch = s.highEpoch ∧ (s.modBand a b f).extents = s.extents ∧
    (s.modBand a b f).earmarks = s.earmarks ∧ (s.modBand a b f).mapPressure = s.mapPressure ∧
    (s.modBand a b f).bm = s.bm.modify a (fun m => { m with bands := m.bands.modify b f }) ∧
    (s.modBand a b f).cleared = s.cleared ∧ (s.modBand a b f).lanes = s.lanes ∧ (s.modBand a b f).pool = s.pool ∧
    (s.modBand a b f).credit = s.credit ∧ (s.modBand a b f).phase = s.phase ∧ (s.modBand a b f).ports = s.ports ∧
    (s.modBand a b f).rs = s.rs ∧ (s.modBand a b f).rc = s.rc ∧ (s.modBand a b f).ck = s.ck ∧
    (s.modBand a b f).recov = s.recov ∧ (s.modBand a b f).tags = s.tags ∧ (s.modBand a b f).intake = s.intake ∧
    (s.modBand a b f).frontOut = s.frontOut ∧ (s.modBand a b f).maint = s.maint ∧
    (s.modBand a b f).exceptions = s.exceptions := by
  repeat' constructor

@[simp] theorem State.modRing_fields (s : State) (a : Actuator) (f : Ring → Ring) :
    (s.modRing a f).pending = s.pending ∧ (s.modRing a f).now = s.now ∧ (s.modRing a f).freeCount = s.freeCount ∧
    (s.modRing a f).straps = s.straps ∧ (s.modRing a f).wprot = s.wprot ∧ (s.modRing a f).resetN = s.resetN ∧
    (s.modRing a f).gate = s.gate ∧ (s.modRing a f).service = s.service ∧ (s.modRing a f).geom = s.geom ∧
    (s.modRing a f).pendGeom = s.pendGeom ∧ (s.modRing a f).seq = s.seq ∧ (s.modRing a f).seqLimit = s.seqLimit ∧
    (s.modRing a f).epoch = s.epoch ∧ (s.modRing a f).highEpoch = s.highEpoch ∧ (s.modRing a f).extents = s.extents ∧
    (s.modRing a f).earmarks = s.earmarks ∧ (s.modRing a f).mapPressure = s.mapPressure ∧
    (s.modRing a f).bm = s.bm.modify a (fun m => { m with ring := f m.ring }) ∧ (s.modRing a f).cleared = s.cleared ∧
    (s.modRing a f).lanes = s.lanes ∧ (s.modRing a f).pool = s.pool ∧ (s.modRing a f).credit = s.credit ∧
    (s.modRing a f).phase = s.phase ∧ (s.modRing a f).ports = s.ports ∧ (s.modRing a f).rs = s.rs ∧
    (s.modRing a f).rc = s.rc ∧ (s.modRing a f).ck = s.ck ∧ (s.modRing a f).recov = s.recov ∧
    (s.modRing a f).tags = s.tags ∧ (s.modRing a f).intake = s.intake ∧ (s.modRing a f).frontOut = s.frontOut ∧
    (s.modRing a f).maint = s.maint ∧ (s.modRing a f).exceptions = s.exceptions := by
  repeat' constructor

@[simp] theorem State.modPort_fields (s : State) (a : Actuator) (f : Port → Port) :
    (s.modPort a f).pending = s.pending ∧ (s.modPort a f).now = s.now ∧ (s.modPort a f).freeCount = s.freeCount ∧
    (s.modPort a f).straps = s.straps ∧ (s.modPort a f).wprot = s.wprot ∧ (s.modPort a f).resetN = s.resetN ∧
    (s.modPort a f).gate = s.gate ∧ (s.modPort a f).service = s.service ∧ (s.modPort a f).geom = s.geom ∧
    (s.modPort a f).pendGeom = s.pendGeom ∧ (s.modPort a f).seq = s.seq ∧ (s.modPort a f).seqLimit = s.seqLimit ∧
    (s.modPort a f).epoch = s.epoch ∧ (s.modPort a f).highEpoch = s.highEpoch ∧ (s.modPort a f).extents = s.extents ∧
    (s.modPort a f).earmarks = s.earmarks ∧ (s.modPort a f).mapPressure = s.mapPressure ∧ (s.modPort a f).bm = s.bm ∧
    (s.modPort a f).cleared = s.cleared ∧ (s.modPort a f).lanes = s.lanes ∧ (s.modPort a f).pool = s.pool ∧
    (s.modPort a f).credit = s.credit ∧ (s.modPort a f).phase = s.phase ∧
    (s.modPort a f).ports = s.ports.modify a f ∧ (s.modPort a f).rs = s.rs ∧ (s.modPort a f).rc = s.rc ∧
    (s.modPort a f).ck = s.ck ∧ (s.modPort a f).recov = s.recov ∧ (s.modPort a f).tags = s.tags ∧
    (s.modPort a f).intake = s.intake ∧ (s.modPort a f).frontOut = s.frontOut ∧ (s.modPort a f).maint = s.maint ∧
    (s.modPort a f).exceptions = s.exceptions := by
  repeat' constructor

@[simp] theorem State.modJob_fields (s : State) (f : Job → Job) :
    (s.modJob f).pending = s.pending ∧ (s.modJob f).now = s.now ∧ (s.modJob f).freeCount = s.freeCount ∧
    (s.modJob f).straps = s.straps ∧ (s.modJob f).wprot = s.wprot ∧ (s.modJob f).resetN = s.resetN ∧
    (s.modJob f).gate = s.gate ∧ (s.modJob f).service = s.service ∧ (s.modJob f).geom = s.geom ∧
    (s.modJob f).pendGeom = s.pendGeom ∧ (s.modJob f).seq = s.seq ∧ (s.modJob f).seqLimit = s.seqLimit ∧
    (s.modJob f).epoch = s.epoch ∧ (s.modJob f).highEpoch = s.highEpoch ∧ (s.modJob f).extents = s.extents ∧
    (s.modJob f).earmarks = s.earmarks ∧ (s.modJob f).mapPressure = s.mapPressure ∧ (s.modJob f).bm = s.bm ∧
    (s.modJob f).cleared = s.cleared ∧ (s.modJob f).lanes = s.lanes ∧ (s.modJob f).pool = s.pool ∧
    (s.modJob f).credit = s.credit ∧ (s.modJob f).phase = s.phase ∧ (s.modJob f).ports = s.ports ∧
    (s.modJob f).rs = s.rs ∧ (s.modJob f).rc = { s.rc with job := s.rc.job.map f } ∧ (s.modJob f).ck = s.ck ∧
    (s.modJob f).recov = s.recov ∧ (s.modJob f).tags = s.tags ∧ (s.modJob f).intake = s.intake ∧
    (s.modJob f).frontOut = s.frontOut ∧ (s.modJob f).maint = s.maint ∧ (s.modJob f).exceptions = s.exceptions := by
  repeat' constructor

@[simp] theorem State.modCk_fields (s : State) (f : Ckpt → Ckpt) :
    (s.modCk f).pending = s.pending ∧ (s.modCk f).now = s.now ∧ (s.modCk f).freeCount = s.freeCount ∧
    (s.modCk f).straps = s.straps ∧ (s.modCk f).wprot = s.wprot ∧ (s.modCk f).resetN = s.resetN ∧
    (s.modCk f).gate = s.gate ∧ (s.modCk f).service = s.service ∧ (s.modCk f).geom = s.geom ∧
    (s.modCk f).pendGeom = s.pendGeom ∧ (s.modCk f).seq = s.seq ∧ (s.modCk f).seqLimit = s.seqLimit ∧
    (s.modCk f).epoch = s.epoch ∧ (s.modCk f).highEpoch = s.highEpoch ∧ (s.modCk f).extents = s.extents ∧
    (s.modCk f).earmarks = s.earmarks ∧ (s.modCk f).mapPressure = s.mapPressure ∧ (s.modCk f).bm = s.bm ∧
    (s.modCk f).cleared = s.cleared ∧ (s.modCk f).lanes = s.lanes ∧ (s.modCk f).pool = s.pool ∧
    (s.modCk f).credit = s.credit ∧ (s.modCk f).phase = s.phase ∧ (s.modCk f).ports = s.ports ∧
    (s.modCk f).rs = s.rs ∧ (s.modCk f).rc = s.rc ∧ (s.modCk f).ck = f s.ck ∧ (s.modCk f).recov = s.recov ∧
    (s.modCk f).tags = s.tags ∧ (s.modCk f).intake = s.intake ∧ (s.modCk f).frontOut = s.frontOut ∧
    (s.modCk f).maint = s.maint ∧ (s.modCk f).exceptions = s.exceptions := by
  repeat' constructor

@[simp] theorem State.modRun_fields (s : State) (f : CkRun → CkRun) :
    (s.modRun f).pending = s.pending ∧ (s.modRun f).now = s.now ∧ (s.modRun f).freeCount = s.freeCount ∧
    (s.modRun f).straps = s.straps ∧ (s.modRun f).wprot = s.wprot ∧ (s.modRun f).resetN = s.resetN ∧
    (s.modRun f).gate = s.gate ∧ (s.modRun f).service = s.service ∧ (s.modRun f).geom = s.geom ∧
    (s.modRun f).pendGeom = s.pendGeom ∧ (s.modRun f).seq = s.seq ∧ (s.modRun f).seqLimit = s.seqLimit ∧
    (s.modRun f).epoch = s.epoch ∧ (s.modRun f).highEpoch = s.highEpoch ∧ (s.modRun f).extents = s.extents ∧
    (s.modRun f).earmarks = s.earmarks ∧ (s.modRun f).mapPressure = s.mapPressure ∧ (s.modRun f).bm = s.bm ∧
    (s.modRun f).cleared = s.cleared ∧ (s.modRun f).lanes = s.lanes ∧ (s.modRun f).pool = s.pool ∧
    (s.modRun f).credit = s.credit ∧ (s.modRun f).phase = s.phase ∧ (s.modRun f).ports = s.ports ∧
    (s.modRun f).rs = s.rs ∧ (s.modRun f).rc = s.rc ∧ (s.modRun f).ck = { s.ck with run := s.ck.run.map f } ∧
    (s.modRun f).recov = s.recov ∧ (s.modRun f).tags = s.tags ∧ (s.modRun f).intake = s.intake ∧
    (s.modRun f).frontOut = s.frontOut ∧ (s.modRun f).maint = s.maint ∧ (s.modRun f).exceptions = s.exceptions := by
  repeat' constructor

@[simp] theorem State.modPhase_fields (s : State) (f : DataPhase → DataPhase) :
    (s.modPhase f).pending = s.pending ∧ (s.modPhase f).now = s.now ∧ (s.modPhase f).freeCount = s.freeCount ∧
    (s.modPhase f).straps = s.straps ∧ (s.modPhase f).wprot = s.wprot ∧ (s.modPhase f).resetN = s.resetN ∧
    (s.modPhase f).gate = s.gate ∧ (s.modPhase f).service = s.service ∧ (s.modPhase f).geom = s.geom ∧
    (s.modPhase f).pendGeom = s.pendGeom ∧ (s.modPhase f).seq = s.seq ∧ (s.modPhase f).seqLimit = s.seqLimit ∧
    (s.modPhase f).epoch = s.epoch ∧ (s.modPhase f).highEpoch = s.highEpoch ∧ (s.modPhase f).extents = s.extents ∧
    (s.modPhase f).earmarks = s.earmarks ∧ (s.modPhase f).mapPressure = s.mapPressure ∧ (s.modPhase f).bm = s.bm ∧
    (s.modPhase f).cleared = s.cleared ∧ (s.modPhase f).lanes = s.lanes ∧ (s.modPhase f).pool = s.pool ∧
    (s.modPhase f).credit = s.credit ∧ (s.modPhase f).phase = s.phase.map f ∧ (s.modPhase f).ports = s.ports ∧
    (s.modPhase f).rs = s.rs ∧ (s.modPhase f).rc = s.rc ∧ (s.modPhase f).ck = s.ck ∧ (s.modPhase f).recov = s.recov ∧
    (s.modPhase f).tags = s.tags ∧ (s.modPhase f).intake = s.intake ∧ (s.modPhase f).frontOut = s.frontOut ∧
    (s.modPhase f).maint = s.maint ∧ (s.modPhase f).exceptions = s.exceptions := by
  repeat' constructor

@[simp] theorem State.modRec_fields (s : State) (f : Recovery → Recovery) :
    (s.modRec f).pending = s.pending ∧ (s.modRec f).now = s.now ∧ (s.modRec f).freeCount = s.freeCount ∧
    (s.modRec f).straps = s.straps ∧ (s.modRec f).wprot = s.wprot ∧ (s.modRec f).resetN = s.resetN ∧
    (s.modRec f).gate = s.gate ∧ (s.modRec f).service = s.service ∧ (s.modRec f).geom = s.geom ∧
    (s.modRec f).pendGeom = s.pendGeom ∧ (s.modRec f).seq = s.seq ∧ (s.modRec f).seqLimit = s.seqLimit ∧
    (s.modRec f).epoch = s.epoch ∧ (s.modRec f).highEpoch = s.highEpoch ∧ (s.modRec f).extents = s.extents ∧
    (s.modRec f).earmarks = s.earmarks ∧ (s.modRec f).mapPressure = s.mapPressure ∧ (s.modRec f).bm = s.bm ∧
    (s.modRec f).cleared = s.cleared ∧ (s.modRec f).lanes = s.lanes ∧ (s.modRec f).pool = s.pool ∧
    (s.modRec f).credit = s.credit ∧ (s.modRec f).phase = s.phase ∧ (s.modRec f).ports = s.ports ∧
    (s.modRec f).rs = s.rs ∧ (s.modRec f).rc = s.rc ∧ (s.modRec f).ck = s.ck ∧ (s.modRec f).recov = f s.recov ∧
    (s.modRec f).tags = s.tags ∧ (s.modRec f).intake = s.intake ∧ (s.modRec f).frontOut = s.frontOut ∧
    (s.modRec f).maint = s.maint ∧ (s.modRec f).exceptions = s.exceptions := by
  repeat' constructor

@[simp] theorem State.modTag_fields (s : State) (t : Nat) (f : TagEntry → TagEntry) :
    (s.modTag t f).pending = s.pending ∧ (s.modTag t f).now = s.now ∧ (s.modTag t f).freeCount = s.freeCount ∧
    (s.modTag t f).straps = s.straps ∧ (s.modTag t f).wprot = s.wprot ∧ (s.modTag t f).resetN = s.resetN ∧
    (s.modTag t f).gate = s.gate ∧ (s.modTag t f).service = s.service ∧ (s.modTag t f).geom = s.geom ∧
    (s.modTag t f).pendGeom = s.pendGeom ∧ (s.modTag t f).seq = s.seq ∧ (s.modTag t f).seqLimit = s.seqLimit ∧
    (s.modTag t f).epoch = s.epoch ∧ (s.modTag t f).highEpoch = s.highEpoch ∧ (s.modTag t f).extents = s.extents ∧
    (s.modTag t f).earmarks = s.earmarks ∧ (s.modTag t f).mapPressure = s.mapPressure ∧ (s.modTag t f).bm = s.bm ∧
    (s.modTag t f).cleared = s.cleared ∧ (s.modTag t f).lanes = s.lanes ∧ (s.modTag t f).pool = s.pool ∧
    (s.modTag t f).credit = s.credit ∧ (s.modTag t f).phase = s.phase ∧ (s.modTag t f).ports = s.ports ∧
    (s.modTag t f).rs = s.rs ∧ (s.modTag t f).rc = s.rc ∧ (s.modTag t f).ck = s.ck ∧ (s.modTag t f).recov = s.recov ∧
    (s.modTag t f).tags = s.tags.modify t (fun e => e.map f) ∧ (s.modTag t f).intake = s.intake ∧
    (s.modTag t f).frontOut = s.frontOut ∧ (s.modTag t f).maint = s.maint ∧
    (s.modTag t f).exceptions = s.exceptions := by
  repeat' constructor

@[simp] theorem State.send_fields (s : State) (m : FrontMsg) :
    (s.send m).pending = s.pending ∧ (s.send m).now = s.now ∧ (s.send m).freeCount = s.freeCount ∧
    (s.send m).straps = s.straps ∧ (s.send m).wprot = s.wprot ∧ (s.send m).resetN = s.resetN ∧
    (s.send m).gate = s.gate ∧ (s.send m).service = s.service ∧ (s.send m).geom = s.geom ∧
    (s.send m).pendGeom = s.pendGeom ∧ (s.send m).seq = s.seq ∧ (s.send m).seqLimit = s.seqLimit ∧
    (s.send m).epoch = s.epoch ∧ (s.send m).highEpoch = s.highEpoch ∧ (s.send m).extents = s.extents ∧
    (s.send m).earmarks = s.earmarks ∧ (s.send m).mapPressure = s.mapPressure ∧ (s.send m).bm = s.bm ∧
    (s.send m).cleared = s.cleared ∧ (s.send m).lanes = s.lanes ∧ (s.send m).pool = s.pool ∧
    (s.send m).credit = s.credit ∧ (s.send m).phase = s.phase ∧ (s.send m).ports = s.ports ∧ (s.send m).rs = s.rs ∧
    (s.send m).rc = s.rc ∧ (s.send m).ck = s.ck ∧ (s.send m).recov = s.recov ∧ (s.send m).tags = s.tags ∧
    (s.send m).intake = s.intake ∧ (s.send m).frontOut = s.frontOut ++ [m] ∧ (s.send m).maint = s.maint ∧
    (s.send m).exceptions = s.exceptions := by
  repeat' constructor

@[simp] theorem State.modEntry_fields (s : State) (l : SegLoc) (f : ReadEntry → ReadEntry) :
    (s.modEntry l f).pending = s.pending ∧ (s.modEntry l f).now = s.now ∧ (s.modEntry l f).freeCount = s.freeCount ∧
    (s.modEntry l f).straps = s.straps ∧ (s.modEntry l f).wprot = s.wprot ∧ (s.modEntry l f).resetN = s.resetN ∧
    (s.modEntry l f).gate = s.gate ∧ (s.modEntry l f).service = s.service ∧ (s.modEntry l f).geom = s.geom ∧
    (s.modEntry l f).pendGeom = s.pendGeom ∧ (s.modEntry l f).seq = s.seq ∧ (s.modEntry l f).seqLimit = s.seqLimit ∧
    (s.modEntry l f).epoch = s.epoch ∧ (s.modEntry l f).highEpoch = s.highEpoch ∧
    (s.modEntry l f).extents = s.extents ∧ (s.modEntry l f).earmarks = s.earmarks ∧
    (s.modEntry l f).mapPressure = s.mapPressure ∧ (s.modEntry l f).bm = s.bm ∧
    (s.modEntry l f).cleared = s.cleared ∧ (s.modEntry l f).lanes = s.lanes ∧ (s.modEntry l f).pool = s.pool ∧
    (s.modEntry l f).credit = s.credit ∧ (s.modEntry l f).phase = s.phase ∧ (s.modEntry l f).ports = s.ports ∧
    (s.modEntry l f).rs = { s.rs with entries := s.rs.entries.map (fun e => if e.loc = l then f e else e) } ∧
    (s.modEntry l f).rc = s.rc ∧ (s.modEntry l f).ck = s.ck ∧ (s.modEntry l f).recov = s.recov ∧
    (s.modEntry l f).tags = s.tags ∧ (s.modEntry l f).intake = s.intake ∧ (s.modEntry l f).frontOut = s.frontOut ∧
    (s.modEntry l f).maint = s.maint ∧ (s.modEntry l f).exceptions = s.exceptions := by
  repeat' constructor

@[simp] theorem State.modRead_fields (s : State) (t : Nat) (f : ReadRec → ReadRec) :
    (s.modRead t f).pending = s.pending ∧ (s.modRead t f).now = s.now ∧ (s.modRead t f).freeCount = s.freeCount ∧
    (s.modRead t f).straps = s.straps ∧ (s.modRead t f).wprot = s.wprot ∧ (s.modRead t f).resetN = s.resetN ∧
    (s.modRead t f).gate = s.gate ∧ (s.modRead t f).service = s.service ∧ (s.modRead t f).geom = s.geom ∧
    (s.modRead t f).pendGeom = s.pendGeom ∧ (s.modRead t f).seq = s.seq ∧ (s.modRead t f).seqLimit = s.seqLimit ∧
    (s.modRead t f).epoch = s.epoch ∧ (s.modRead t f).highEpoch = s.highEpoch ∧ (s.modRead t f).extents = s.extents ∧
    (s.modRead t f).earmarks = s.earmarks ∧ (s.modRead t f).mapPressure = s.mapPressure ∧ (s.modRead t f).bm = s.bm ∧
    (s.modRead t f).cleared = s.cleared ∧ (s.modRead t f).lanes = s.lanes ∧ (s.modRead t f).pool = s.pool ∧
    (s.modRead t f).credit = s.credit ∧ (s.modRead t f).phase = s.phase ∧ (s.modRead t f).ports = s.ports ∧
    (s.modRead t f).rs = { s.rs with reads := s.rs.reads.map (fun r => if r.tag = t then f r else r) } ∧
    (s.modRead t f).rc = s.rc ∧ (s.modRead t f).ck = s.ck ∧ (s.modRead t f).recov = s.recov ∧
    (s.modRead t f).tags = s.tags ∧ (s.modRead t f).intake = s.intake ∧ (s.modRead t f).frontOut = s.frontOut ∧
    (s.modRead t f).maint = s.maint ∧ (s.modRead t f).exceptions = s.exceptions := by
  repeat' constructor

@[simp] theorem State.modSource_fields (s : State) (l : SegLoc) (f : SourceRead → SourceRead) :
    (s.modSource l f).pending = s.pending ∧ (s.modSource l f).now = s.now ∧
    (s.modSource l f).freeCount = s.freeCount ∧ (s.modSource l f).straps = s.straps ∧
    (s.modSource l f).wprot = s.wprot ∧ (s.modSource l f).resetN = s.resetN ∧ (s.modSource l f).gate = s.gate ∧
    (s.modSource l f).service = s.service ∧ (s.modSource l f).geom = s.geom ∧
    (s.modSource l f).pendGeom = s.pendGeom ∧ (s.modSource l f).seq = s.seq ∧
    (s.modSource l f).seqLimit = s.seqLimit ∧ (s.modSource l f).epoch = s.epoch ∧
    (s.modSource l f).highEpoch = s.highEpoch ∧ (s.modSource l f).extents = s.extents ∧
    (s.modSource l f).earmarks = s.earmarks ∧ (s.modSource l f).mapPressure = s.mapPressure ∧
    (s.modSource l f).bm = s.bm ∧ (s.modSource l f).cleared = s.cleared ∧ (s.modSource l f).lanes = s.lanes ∧
    (s.modSource l f).pool = s.pool ∧ (s.modSource l f).credit = s.credit ∧ (s.modSource l f).phase = s.phase ∧
    (s.modSource l f).ports = s.ports ∧ (s.modSource l f).rs = s.rs ∧
    (s.modSource l f).rc = { s.rc with sources := s.rc.sources.map (fun e => if e.loc = l ∧ e.live then f e else e) } ∧
    (s.modSource l f).ck = s.ck ∧ (s.modSource l f).recov = s.recov ∧ (s.modSource l f).tags = s.tags ∧
    (s.modSource l f).intake = s.intake ∧ (s.modSource l f).frontOut = s.frontOut ∧
    (s.modSource l f).maint = s.maint ∧ (s.modSource l f).exceptions = s.exceptions := by
  repeat' constructor

@[simp] theorem State.modPend_fields (s : State) (f : Settings → Settings) :
    (s.modPend f).pending = s.pending ∧ (s.modPend f).now = s.now ∧ (s.modPend f).freeCount = s.freeCount ∧
    (s.modPend f).straps = s.straps ∧ (s.modPend f).wprot = s.wprot ∧ (s.modPend f).resetN = s.resetN ∧
    (s.modPend f).gate = s.gate ∧ (s.modPend f).service = s.service ∧ (s.modPend f).geom = s.geom ∧
    (s.modPend f).pendGeom = s.pendGeom ∧ (s.modPend f).seq = s.seq ∧ (s.modPend f).seqLimit = s.seqLimit ∧
    (s.modPend f).epoch = s.epoch ∧ (s.modPend f).highEpoch = s.highEpoch ∧ (s.modPend f).extents = s.extents ∧
    (s.modPend f).earmarks = s.earmarks ∧ (s.modPend f).mapPressure = s.mapPressure ∧ (s.modPend f).bm = s.bm ∧
    (s.modPend f).cleared = s.cleared ∧ (s.modPend f).lanes = s.lanes ∧ (s.modPend f).pool = s.pool ∧
    (s.modPend f).credit = s.credit ∧ (s.modPend f).phase = s.phase ∧ (s.modPend f).ports = s.ports ∧
    (s.modPend f).rs = s.rs ∧ (s.modPend f).rc = s.rc ∧ (s.modPend f).ck = s.ck ∧ (s.modPend f).recov = s.recov ∧
    (s.modPend f).tags = s.tags ∧ (s.modPend f).intake = s.intake ∧ (s.modPend f).frontOut = s.frontOut ∧
    (s.modPend f).maint = { s.maint with pend := f s.maint.pend } ∧ (s.modPend f).exceptions = s.exceptions := by
  repeat' constructor

@[simp] theorem post_fields (s : State) (k : ExcKind) (a : Actuator) (x y : Nat) :
    (post k a x y s).pending = s.pending ∧ (post k a x y s).now = s.now ∧ (post k a x y s).freeCount = s.freeCount ∧
    (post k a x y s).straps = s.straps ∧ (post k a x y s).wprot = s.wprot ∧ (post k a x y s).resetN = s.resetN ∧
    (post k a x y s).gate = s.gate ∧ (post k a x y s).service = s.service ∧ (post k a x y s).geom = s.geom ∧
    (post k a x y s).pendGeom = s.pendGeom ∧ (post k a x y s).seq = s.seq ∧ (post k a x y s).seqLimit = s.seqLimit ∧
    (post k a x y s).epoch = s.epoch ∧ (post k a x y s).highEpoch = s.highEpoch ∧
    (post k a x y s).extents = s.extents ∧ (post k a x y s).earmarks = s.earmarks ∧
    (post k a x y s).mapPressure = s.mapPressure ∧ (post k a x y s).bm = s.bm ∧
    (post k a x y s).cleared = s.cleared ∧ (post k a x y s).lanes = s.lanes ∧ (post k a x y s).pool = s.pool ∧
    (post k a x y s).credit = s.credit ∧ (post k a x y s).phase = s.phase ∧ (post k a x y s).ports = s.ports ∧
    (post k a x y s).rs = s.rs ∧ (post k a x y s).rc = s.rc ∧ (post k a x y s).ck = s.ck ∧
    (post k a x y s).recov = s.recov ∧ (post k a x y s).tags = s.tags ∧ (post k a x y s).intake = s.intake ∧
    (post k a x y s).frontOut = s.frontOut ∧ (post k a x y s).maint = s.maint ∧
    (post k a x y s).exceptions = postTo s.exceptions k a (s.seq.getD 0) x y := by
  repeat' constructor

@[simp] theorem assignSeq_fields (s : State) :
    ((assignSeq s).2).pending = s.pending ∧ ((assignSeq s).2).now = s.now ∧
    ((assignSeq s).2).freeCount = s.freeCount ∧ ((assignSeq s).2).straps = s.straps ∧
    ((assignSeq s).2).wprot = s.wprot ∧ ((assignSeq s).2).resetN = s.resetN ∧ ((assignSeq s).2).gate = s.gate ∧
    ((assignSeq s).2).service = s.service ∧ ((assignSeq s).2).geom = s.geom ∧
    ((assignSeq s).2).pendGeom = s.pendGeom ∧ ((assignSeq s).2).seq = some (s.seq.getD 0 + 1) ∧
    ((assignSeq s).2).seqLimit = (s.seqLimit || decide (Config.sequenceLimit ≤ s.seq.getD 0 + 1)) ∧
    ((assignSeq s).2).epoch = s.epoch ∧ ((assignSeq s).2).highEpoch = s.highEpoch ∧
    ((assignSeq s).2).extents = s.extents ∧ ((assignSeq s).2).earmarks = s.earmarks ∧
    ((assignSeq s).2).mapPressure = s.mapPressure ∧ ((assignSeq s).2).bm = s.bm ∧
    ((assignSeq s).2).cleared = s.cleared ∧ ((assignSeq s).2).lanes = s.lanes ∧ ((assignSeq s).2).pool = s.pool ∧
    ((assignSeq s).2).credit = s.credit ∧ ((assignSeq s).2).phase = s.phase ∧ ((assignSeq s).2).ports = s.ports ∧
    ((assignSeq s).2).rs = s.rs ∧ ((assignSeq s).2).rc = s.rc ∧ ((assignSeq s).2).ck = s.ck ∧
    ((assignSeq s).2).recov = s.recov ∧ ((assignSeq s).2).tags = s.tags ∧ ((assignSeq s).2).intake = s.intake ∧
    ((assignSeq s).2).frontOut = s.frontOut ∧ ((assignSeq s).2).maint = s.maint ∧
    ((assignSeq s).2).exceptions = s.exceptions := by
  repeat' constructor

@[simp] theorem complete_fields (s : State) (t : Nat) (o : Outcome) (d : Nat) :
    (complete t o d s).pending = s.pending ∧ (complete t o d s).now = s.now ∧
    (complete t o d s).freeCount = s.freeCount ∧ (complete t o d s).straps = s.straps ∧
    (complete t o d s).wprot = s.wprot ∧ (complete t o d s).resetN = s.resetN ∧ (complete t o d s).gate = s.gate ∧
    (complete t o d s).service = s.service ∧ (complete t o d s).geom = s.geom ∧
    (complete t o d s).pendGeom = s.pendGeom ∧ (complete t o d s).seq = s.seq ∧
    (complete t o d s).seqLimit = s.seqLimit ∧ (complete t o d s).epoch = s.epoch ∧
    (complete t o d s).highEpoch = s.highEpoch ∧ (complete t o d s).extents = s.extents ∧
    (complete t o d s).earmarks = s.earmarks ∧ (complete t o d s).mapPressure = s.mapPressure ∧
    (complete t o d s).bm = s.bm ∧ (complete t o d s).cleared = s.cleared ∧ (complete t o d s).lanes = s.lanes ∧
    (complete t o d s).pool = s.pool ∧ (complete t o d s).credit = s.credit ∧ (complete t o d s).phase = s.phase ∧
    (complete t o d s).ports = s.ports ∧ (complete t o d s).rs = s.rs ∧ (complete t o d s).rc = s.rc ∧
    (complete t o d s).ck = s.ck ∧ (complete t o d s).recov = s.recov ∧ (complete t o d s).tags = s.tags.set t none ∧
    (complete t o d s).intake = s.intake ∧ (complete t o d s).frontOut = s.frontOut ++ [.completion t o d] ∧
    (complete t o d s).maint = s.maint ∧ (complete t o d s).exceptions = s.exceptions := by
  repeat' constructor

@[simp] theorem respond_fields (s : State) (st : Status) (p : List Byte) :
    (respond st p s).pending = s.pending ∧ (respond st p s).now = s.now ∧ (respond st p s).freeCount = s.freeCount ∧
    (respond st p s).straps = s.straps ∧ (respond st p s).wprot = s.wprot ∧ (respond st p s).resetN = s.resetN ∧
    (respond st p s).gate = s.gate ∧ (respond st p s).service = s.service ∧ (respond st p s).geom = s.geom ∧
    (respond st p s).pendGeom = s.pendGeom ∧ (respond st p s).seq = s.seq ∧ (respond st p s).seqLimit = s.seqLimit ∧
    (respond st p s).epoch = s.epoch ∧ (respond st p s).highEpoch = s.highEpoch ∧
    (respond st p s).extents = s.extents ∧ (respond st p s).earmarks = s.earmarks ∧
    (respond st p s).mapPressure = s.mapPressure ∧ (respond st p s).bm = s.bm ∧
    (respond st p s).cleared = s.cleared ∧ (respond st p s).lanes = s.lanes ∧ (respond st p s).pool = s.pool ∧
    (respond st p s).credit = s.credit ∧ (respond st p s).phase = s.phase ∧ (respond st p s).ports = s.ports ∧
    (respond st p s).rs = s.rs ∧ (respond st p s).rc = s.rc ∧ (respond st p s).ck = s.ck ∧
    (respond st p s).recov = s.recov ∧ (respond st p s).tags = s.tags ∧ (respond st p s).intake = s.intake ∧
    (respond st p s).frontOut = s.frontOut ∧ (respond st p s).maint = { s.maint with status := st, payload := p } ∧
    (respond st p s).exceptions = s.exceptions := by
  repeat' constructor

@[simp] theorem requestCk_fields (s : State) :
    (requestCk s).pending = s.pending ∧ (requestCk s).now = s.now ∧ (requestCk s).freeCount = s.freeCount ∧
    (requestCk s).straps = s.straps ∧ (requestCk s).wprot = s.wprot ∧ (requestCk s).resetN = s.resetN ∧
    (requestCk s).gate = s.gate ∧ (requestCk s).service = s.service ∧ (requestCk s).geom = s.geom ∧
    (requestCk s).pendGeom = s.pendGeom ∧ (requestCk s).seq = s.seq ∧ (requestCk s).seqLimit = s.seqLimit ∧
    (requestCk s).epoch = s.epoch ∧ (requestCk s).highEpoch = s.highEpoch ∧ (requestCk s).extents = s.extents ∧
    (requestCk s).earmarks = s.earmarks ∧ (requestCk s).mapPressure = s.mapPressure ∧ (requestCk s).bm = s.bm ∧
    (requestCk s).cleared = s.cleared ∧ (requestCk s).lanes = s.lanes ∧ (requestCk s).pool = s.pool ∧
    (requestCk s).credit = s.credit ∧ (requestCk s).phase = s.phase ∧ (requestCk s).ports = s.ports ∧
    (requestCk s).rs = s.rs ∧ (requestCk s).rc = s.rc ∧ (requestCk s).ck = { s.ck with wanted := true } ∧
    (requestCk s).recov = s.recov ∧ (requestCk s).tags = s.tags ∧ (requestCk s).intake = s.intake ∧
    (requestCk s).frontOut = s.frontOut ∧ (requestCk s).maint = s.maint ∧
    (requestCk s).exceptions = s.exceptions := by
  repeat' constructor

/-! ## Reading back what was changed -/

theorem State.lane_modLane (s : State) (n m : Nat) (f : Lane → Lane) (h : n < s.lanes.length) :
    (s.modLane n f).lane m = if m = n then f (s.lane n) else s.lane m := by
  by_cases hm : m = n
  · subst hm; simp [State.lane, List.getD_eq_getElem?_getD, h]
  · simp [State.lane, List.getD_eq_getElem?_getD, hm, Ne.symm hm]

theorem State.frame_modFrame (s : State) (i j : Nat) (f : Frame → Frame) (h : i < s.pool.frames.length) :
    (s.modFrame i f).frame j = if j = i then f (s.frame i) else s.frame j := by
  by_cases hj : j = i
  · subst hj; simp [State.frame, List.getD_eq_getElem?_getD, h]
  · simp [State.frame, List.getD_eq_getElem?_getD, hj, Ne.symm hj]

theorem State.bandRec_modBand (s : State) (a : Actuator) (b c : Nat) (f : Band → Band)
    (h : b < (s.bm.get a).bands.length) :
    (s.modBand a b f).bandRec a c = if c = b then f (s.bandRec a b) else s.bandRec a c := by
  by_cases hc : c = b
  · subst hc; simp [State.bandRec, List.getD_eq_getElem?_getD, h]
  · simp [State.bandRec, List.getD_eq_getElem?_getD, hc, Ne.symm hc]

@[simp] theorem State.ring_modRing (s : State) (a : Actuator) (f : Ring → Ring) :
    (s.modRing a f).ring a = f (s.ring a) := by
  simp [State.ring]

@[simp] theorem State.port_modPort (s : State) (a : Actuator) (f : Port → Port) :
    (s.modPort a f).port a = f (s.port a) := by
  simp [State.port]

@[simp] theorem State.tag_complete (s : State) (t : Nat) (o : Outcome) (d : Nat) : (complete t o d s).tag t = none := by
  by_cases h : t < s.tags.length <;> simp [State.tag, List.getD_eq_getElem?_getD, h]

end Sys2Proof.Machine
end

