-- ==== Sys2Proof/Laws/Table.lean ====
section
/-! SUPPORT. The steps the extent map's operations are made of keep the extent table in order (R17): taking LBAs out,
the insertion step, the conversion of a record to LOST, and Make lost. -/

namespace Sys2Proof.Machine

/-! ## Records of a table in order -/

/-- Two records of a table in order do not overlap. -/
theorem TableOk.apart {t : List Extent} (h : TableOk t) {e f : Extent} (he : e ∈ t) (hf : f ∈ t) (hne : e ≠ f) :
    e.stop ≤ f.start ∨ f.stop ≤ e.start := by
  obtain ⟨hp, -⟩ := h
  induction t with
  | nil => cases he
  | cons x t ih =>
    rw [List.pairwise_cons] at hp
    rcases List.mem_cons.1 he with he | he <;> rcases List.mem_cons.1 hf with hf | hf
    · exact absurd (he.trans hf.symm) hne
    · exact .inl (he ▸ hp.1 _ hf)
    · exact .inr (hf ▸ hp.1 _ he)
    · exact ih he hf hp.2

/-- An LBA that `covering` finds no record for is covered by none. -/
theorem covering_none {t : List Extent} {lba : Nat} (h : covering t lba = none) {e : Extent} (he : e ∈ t) :
    lba < e.start ∨ e.stop ≤ lba := by
  have := List.find?_eq_none.1 h e he
  simp [Extent.covers] at this
  omega

/-- `covering` answers a record of the table that covers the LBA. -/
theorem covering_some {t : List Extent} {lba : Nat} {e : Extent} (h : covering t lba = some e) :
    e ∈ t ∧ e.start ≤ lba ∧ lba < e.stop := by
  have h1 := List.mem_of_find?_eq_some h
  have h2 := List.find?_some h
  simp [Extent.covers] at h2
  exact ⟨h1, h2⟩

/-- A table in order has no record twice. -/
theorem TableOk.nodup {t : List Extent} (h : TableOk t) : t.Nodup := by
  refine List.Pairwise.imp_of_mem ?_ h.1
  intro a b ha _ hab hc
  subst hc
  have := (h.2 a ha).1
  simp [Extent.stop] at hab
  omega

theorem TableOk.filter {t : List Extent} (h : TableOk t) (p : Extent → Bool) : TableOk (t.filter p) :=
  ⟨h.1.filter p, fun e he => h.2 e (List.mem_filter.1 he).1⟩

/-! ## Taking LBAs out (R24, R28) -/

theorem Extent.mem_cut {e x : Extent} {lo hi : Nat} (he : 1 ≤ e.len) (hx : x ∈ e.cut lo hi) :
    e.start ≤ x.start ∧ x.stop ≤ e.stop ∧ 1 ≤ x.len ∧ x.len ≤ e.len ∧ (x.stop ≤ lo ∨ hi ≤ x.start) := by
  unfold Extent.cut at hx
  split at hx
  · simp at hx; subst hx; exact ⟨le_refl _, le_refl _, he, le_refl _, by omega⟩
  · rcases List.mem_append.1 hx with hx | hx <;> split at hx <;> simp at hx <;> subst hx <;>
      simp [Extent.stop] at * <;> omega

theorem Extent.pairwise_cut (e : Extent) (lo hi : Nat) (h : lo ≤ hi) :
    (e.cut lo hi).Pairwise (fun e f => e.stop ≤ f.start) := by
  unfold Extent.cut
  split
  · simp
  · split <;> split <;> simp [Extent.stop]
    omega

theorem cutTable_ok {t : List Extent} (h : TableOk t) {lo hi : Nat} (hl : lo ≤ hi) : TableOk (cutTable t lo hi) := by
  refine ⟨?_, ?_⟩
  · unfold cutTable
    rw [List.pairwise_flatMap]
    refine ⟨fun e _ => e.pairwise_cut lo hi hl, ?_⟩
    refine List.Pairwise.imp_of_mem ?_ h.1
    intro a b ha hb hab x hx y hy
    have h1 := Extent.mem_cut (h.2 a ha).1 hx
    have h2 := Extent.mem_cut (h.2 b hb).1 hy
    omega
  · intro x hx
    obtain ⟨e, he, hx⟩ := List.mem_flatMap.1 hx
    have h1 := Extent.mem_cut (h.2 e he).1 hx
    have h2 := h.2 e he
    omega

/-- No record covers an LBA that was taken out. -/
theorem cutTable_clear {t : List Extent} (h : TableOk t) {lo hi lba : Nat} (h1 : lo ≤ lba) (h2 : lba < hi) {e : Extent}
    (he : e ∈ cutTable t lo hi) : lba < e.start ∨ e.stop ≤ lba := by
  obtain ⟨r, hr, he⟩ := List.mem_flatMap.1 he
  have := Extent.mem_cut (h.2 r hr).1 he
  omega

/-! ## Putting a record in (R25) -/

theorem mem_insertRecord {x e : Extent} {t : List Extent} : e ∈ insertRecord x t ↔ e = x ∨ e ∈ t := by
  induction t with
  | nil => simp [insertRecord]
  | cons y t ih =>
    unfold insertRecord
    split <;> simp [ih]
    tauto

theorem insertRecord_ok {t : List Extent} {x : Extent} (h : TableOk t) (hx : 1 ≤ x.len ∧ x.len ≤ Config.maxExtent)
    (hd : ∀ e ∈ t, e.stop ≤ x.start ∨ x.stop ≤ e.start) : TableOk (insertRecord x t) := by
  refine ⟨?_, ?_⟩
  · obtain ⟨hp, hl⟩ := h
    induction t with
    | nil => simp [insertRecord]
    | cons y t ih =>
      have hy := hd y (by simp)
      have hyl := hl y (by simp)
      rw [List.pairwise_cons] at hp
      have ih := ih (fun e he => hd e (by simp [he])) hp.2 (fun e he => hl e (by simp [he]))
      unfold insertRecord
      split
      · rw [List.pairwise_cons, List.pairwise_cons]
        refine ⟨?_, hp⟩
        intro e he
        rcases List.mem_cons.1 he with rfl | he
        · simp [Extent.stop] at *; omega
        · have := hp.1 e he
          simp [Extent.stop] at *; omega
      · rw [List.pairwise_cons]
        refine ⟨?_, ih⟩
        intro e he
        rcases mem_insertRecord.1 he with rfl | he
        · simp [Extent.stop] at *; omega
        · exact hp.1 e he
  · intro e he
    rcases mem_insertRecord.1 he with rfl | he
    · exact hx
    · exact h.2 e he

/-- A table in order after every record is replaced by one that keeps clear of the others. -/
theorem TableOk.map {t : List Extent} (h : TableOk t) {g : Extent → Extent}
    (hl : ∀ e ∈ t, 1 ≤ (g e).len ∧ (g e).len ≤ Config.maxExtent)
    (hg : ∀ e ∈ t, ∀ f ∈ t, e.stop ≤ f.start → (g e).stop ≤ (g f).start) : TableOk (t.map g) := by
  refine ⟨?_, ?_⟩
  · rw [List.pairwise_map]
    exact List.Pairwise.imp_of_mem (fun ha hb hab => hg _ ha _ hb hab) h.1
  · intro e he
    obtain ⟨x, hx, rfl⟩ := List.mem_map.1 he
    exact hl x hx

theorem Extent.absorbsAfter_spec {p : Extent} {g : Option Geometry} {lba : Nat} {k : ExtKind}
    (h : p.absorbsAfter g lba k = true) : p.stop = lba ∧ p.len < Config.maxExtent := by
  simp [Extent.absorbsAfter] at h
  exact ⟨h.1.1, h.1.2⟩

theorem Extent.absorbsBefore_spec {p : Extent} {g : Option Geometry} {lba : Nat} {k : ExtKind}
    (h : p.absorbsBefore g lba k = true) : p.start = lba + 1 ∧ p.len < Config.maxExtent := by
  simp [Extent.absorbsBefore] at h
  exact ⟨h.1.1, h.1.2⟩

theorem insertMapping_ok {t : List Extent} (h : TableOk t) (g : Option Geometry) {lba : Nat} (k : ExtKind)
    (hc : ∀ e ∈ t, lba < e.start ∨ e.stop ≤ lba) : TableOk (insertMapping g t lba k) := by
  have hm : 2 ≤ Config.maxExtent := by decide
  have grow : ∀ p ∈ t, p.stop = lba → p.len < Config.maxExtent →
      TableOk (t.map (fun e => if e = p then { e with len := e.len + 1 } else e)) := by
    intro p hp hs hlen
    refine h.map ?_ ?_
    · intro e he
      have := h.2 e he
      split
      · subst_vars; exact ⟨by simp, by simp; omega⟩
      · exact this
    · intro e he f hf hef
      have h1 := hc f hf
      have h2 := (h.2 f hf).1
      simp only [Extent.stop] at *
      by_cases hep : e = p
      · subst hep
        by_cases hfp : f = e
        · subst hfp; omega
        · simp only [if_pos, if_neg hfp]; omega
      · by_cases hfp : f = p
        · subst hfp; simp only [if_neg hep, if_pos]; omega
        · simp only [if_neg hep, if_neg hfp]; omega
  unfold insertMapping
  split
  · refine insertRecord_ok h ⟨by simp, by simp; omega⟩ ?_
    intro e he
    have := hc e he
    simp [Extent.stop] at *; omega
  · rename_i p hp _
    have hpm := List.mem_of_find?_eq_some hp
    obtain ⟨hs, hlen⟩ := Extent.absorbsAfter_spec (List.find?_some (p := fun e => Extent.absorbsAfter e g lba k) hp)
    exact grow p hpm hs hlen
  · rename_i s _ hs
    have hsm := List.mem_of_find?_eq_some hs
    obtain ⟨hst, hlen⟩ := Extent.absorbsBefore_spec (List.find?_some (p := fun e => Extent.absorbsBefore e g lba k) hs)
    refine h.map ?_ ?_
    · intro e he
      have := h.2 e he
      split
      · subst_vars; exact ⟨by simp, by simp; omega⟩
      · exact this
    · intro e he f hf hef
      have h1 := hc e he
      have h2 := (h.2 e he).1
      simp only [Extent.stop] at *
      by_cases hes : e = s
      · subst hes
        by_cases hfs : f = e
        · subst hfs; omega
        · simp only [if_pos, if_neg hfs]; omega
      · by_cases hfs : f = s
        · subst hfs; simp only [if_neg hes, if_pos]; omega
        · simp only [if_neg hes, if_neg hfs]; omega
  · rename_i p s hp hs
    have hpm := List.mem_of_find?_eq_some hp
    have hsm := List.mem_of_find?_eq_some hs
    obtain ⟨hps, hplen⟩ := Extent.absorbsAfter_spec (List.find?_some (p := fun e => Extent.absorbsAfter e g lba k) hp)
    obtain ⟨hss, hslen⟩ := Extent.absorbsBefore_spec (List.find?_some (p := fun e => Extent.absorbsBefore e g lba k) hs)
    split
    · rename_i hsum
      refine (h.filter _).map ?_ ?_
      · intro e he
        have := h.2 e (List.mem_filter.1 he).1
        split
        · exact ⟨by simp; omega, by simpa using hsum⟩
        · exact this
      · intro e he f hf hef
        obtain ⟨he, hes⟩ := List.mem_filter.1 he
        obtain ⟨hf, hfs⟩ := List.mem_filter.1 hf
        have h1 := hc f hf
        have h2 := (h.2 f hf).1
        have h3 := (h.2 s hsm).1
        have h4 := h.apart hf hsm (by simpa using hfs)
        simp only [Extent.stop] at *
        by_cases hep : e = p
        · subst hep
          by_cases hfp : f = e
          · subst hfp; omega
          · simp only [if_pos, if_neg hfp]; omega
        · by_cases hfp : f = p
          · subst hfp; simp only [if_neg hep, if_pos]; omega
          · simp only [if_neg hep, if_neg hfp]; omega
    · exact grow p hpm hps hplen

/-- The removal and insertion steps together keep the table in order (R24, R25). -/
theorem remap_ok {t u : List Extent} (h : TableOk t) {g : Option Geometry} {free lba : Nat} {k : ExtKind}
    (hr : remap g free t lba k = some u) : TableOk u := by
  simp only [remap] at hr
  split at hr
  · cases hr
  · split at hr
    · cases hr
    · cases hr
      exact insertMapping_ok (cutTable_ok h (by omega)) g k
        (fun e he => cutTable_clear h (le_refl lba) (by omega) he)

/-! ## Conversion to LOST (R39) and Make lost (R31) -/

theorem convertLost_ok {t : List Extent} (h : TableOk t) {e : Extent} (he : e ∈ t) : TableOk (convertLost t e) := by
  have hel := h.2 e he
  have h0 : TableOk (t.filter (fun r => r ≠ e)) := h.filter _
  have below : ∀ (u : List Extent) (x : Extent), TableOk u → (∀ r ∈ u, r.stop ≤ x.start ∨ x.stop ≤ r.start) →
      1 ≤ x.len → x.len ≤ Config.maxExtent →
      TableOk (mergeLostBelow u x).1 ∧
      (∀ r ∈ (mergeLostBelow u x).1, r.stop ≤ (mergeLostBelow u x).2.start ∨ (mergeLostBelow u x).2.stop ≤ r.start) ∧
      1 ≤ (mergeLostBelow u x).2.len ∧ (mergeLostBelow u x).2.len ≤ Config.maxExtent := by
    intro u x hu hx h1 h2
    unfold mergeLostBelow
    split
    · rename_i p hp
      have hpm := List.mem_of_find?_eq_some hp
      have hps := List.find?_some hp
      simp at hps
      refine ⟨hu.filter _, ?_, by simp; omega, by simpa using hps.2⟩
      intro r hr
      obtain ⟨hr, hrp⟩ := List.mem_filter.1 hr
      have := hx r hr
      have := hu.apart hr hpm (by simpa using hrp)
      have := (hu.2 r hr).1
      simp only [Extent.stop] at *; omega
    · exact ⟨hu, hx, h1, h2⟩
  have above : ∀ (u : List Extent) (x : Extent), TableOk u → (∀ r ∈ u, r.stop ≤ x.start ∨ x.stop ≤ r.start) →
      1 ≤ x.len → x.len ≤ Config.maxExtent →
      TableOk (mergeLostAbove u x).1 ∧
      (∀ r ∈ (mergeLostAbove u x).1, r.stop ≤ (mergeLostAbove u x).2.start ∨ (mergeLostAbove u x).2.stop ≤ r.start) ∧
      1 ≤ (mergeLostAbove u x).2.len ∧ (mergeLostAbove u x).2.len ≤ Config.maxExtent := by
    intro u x hu hx h1 h2
    unfold mergeLostAbove
    split
    · rename_i p hp
      have hpm := List.mem_of_find?_eq_some hp
      have hps := List.find?_some hp
      simp at hps
      refine ⟨hu.filter _, ?_, by simp; omega, by simp; omega⟩
      intro r hr
      obtain ⟨hr, hrp⟩ := List.mem_filter.1 hr
      have := hx r hr
      have := hu.apart hr hpm (by simpa using hrp)
      have := (hu.2 r hr).1
      simp only [Extent.stop] at *; omega
    · exact ⟨hu, hx, h1, h2⟩
  have hb := below (t.filter (fun r => r ≠ e)) ⟨e.start, e.len, .lost⟩ h0
    (fun r hr => by
      obtain ⟨hr, hre⟩ := List.mem_filter.1 hr
      have := h.apart hr he (by simpa using hre)
      simpa [Extent.stop] using this) hel.1 hel.2
  have ha := above _ _ hb.1 hb.2.1 hb.2.2.1 hb.2.2.2
  exact insertRecord_ok ha.1 ⟨ha.2.2.1, ha.2.2.2⟩ ha.2.1

theorem makeLostTable_ok (g : Option Geometry) (held : Nat) (l : List (Nat × Loc)) {t : List Extent} (h : TableOk t) :
    TableOk (makeLostTable g held l t).1 := by
  induction l generalizing t with
  | nil => exact h
  | cons x rest ih =>
    obtain ⟨lba, loc⟩ := x
    unfold makeLostTable
    split
    · split
      · rename_i u hu
        exact ih (remap_ok h hu)
      · split
        · rename_i e he
          exact ih (convertLost_ok h (covering_some he).1)
        · exact ih h
    · exact ih h

/-! ## Locations further on (R5) -/

/-- Going on i blocks and then j is going on i + j blocks. -/
theorem Loc.further_further (l : Loc) (i j : Nat) : (l.further i).further j = l.further (i + j) := by
  simp only [Loc.further, Loc.offset, Loc.mk.injEq, SegLoc.mk.injEq]
  refine ⟨⟨trivial, trivial, trivial, ?_⟩, ?_⟩ <;> omega

end Sys2Proof.Machine
end

