-- ==== Sys2Proof/Laws/Inner.lean ====
section
/-! SUPPORT. What the lanes, the extent map, the bands, the frame pool and the reclaim engine do to the rest of the
part: nothing. `Inner s t` says that t came from s by their work alone, and there is one theorem for each of their
operations. `settle` is all their work but for the gate, so what it keeps is said at the end. -/

namespace Sys2Proof.Machine

/-! ## The relation -/

/-- The fields that the lanes, the map, the bands, the pool and the reclaim engine leave alone. -/
structure Outside where
  pending : List Instr
  now : Nat
  straps : Straps
  wprot : Bool
  resetN : Bool
  gate : Bool
  service : Service
  geom : Option Geometry
  pendGeom : Geometry
  epoch : Option Nat
  highEpoch : Option Nat
  earmarks : Nat
  cleared : Option Nat
  phase : Option DataPhase
  ports : Two Port
  recov : Recovery
  maint : Maint
  ring : Nat × Nat
  batch : List ReleaseRec
  notice : Option Notice
  queue : List RingSeg
  run : Option CkRun
  formatTries : Option Nat

/-- Those fields of a state. -/
def State.outside (s : State) : Outside :=
  ⟨s.pending, s.now, s.straps, s.wprot, s.resetN, s.gate, s.service, s.geom, s.pendGeom, s.epoch, s.highEpoch, s.earmarks,
   s.cleared, s.phase, s.ports, s.recov, s.maint, (s.ck.ringStart, s.ck.ringTail), s.ck.batch, s.ck.notice, s.ck.queue,
   s.ck.run, s.ck.formatTries⟩

/-- The sizes of the tables. -/
def State.sizes (s : State) : Nat × Nat × Nat := (s.lanes.length, s.tags.length, s.pool.frames.length)

/-- t came from s by work that leaves the outside fields alone, ends no sequence limit, takes back no message, and
keeps the exception list, the class caps and the extent table sound. -/
structure Inner (s t : State) : Prop where
  outside : t.outside = s.outside
  sizes : t.sizes = s.sizes
  limit : s.seqLimit = true → t.seqLimit = true
  exceptions : ExceptionsOk s.exceptions → ExceptionsOk t.exceptions
  caps : PoolOk s.pool → PoolOk t.pool
  table : TableOk s.extents → TableOk t.extents
  sent : s.frontOut <+: t.frontOut

theorem Inner.refl (s : State) : Inner s s := ⟨rfl, rfl, id, id, id, id, List.prefix_rfl⟩

theorem Inner.trans {s t u : State} (h : Inner s t) (k : Inner t u) : Inner s u :=
  ⟨k.outside.trans h.outside, k.sizes.trans h.sizes, fun x => k.limit (h.limit x), fun x => k.exceptions (h.exceptions x),
   fun x => k.caps (h.caps x), fun x => k.table (h.table x), h.sent.trans k.sent⟩

/-- A state that agrees in everything the relation speaks of. -/
theorem Inner.of_eq {s t : State} (h : t.outside = s.outside) (hl : t.lanes.length = s.lanes.length)
    (ht : t.tags.length = s.tags.length) (hp : t.pool = s.pool) (hq : t.seqLimit = s.seqLimit)
    (he : t.exceptions = s.exceptions) (hx : t.extents = s.extents) (hs : t.frontOut = s.frontOut) : Inner s t := by
  refine ⟨h, by simp [State.sizes, hl, ht, hp], by rw [hq]; exact id, by rw [he]; exact id, ?_, by rw [hx]; exact id,
    by rw [hs]⟩
  rw [hp]; exact id

theorem Inner.foldl {α : Type} {f : State → α → State} (h : ∀ s x, Inner s (f s x)) (l : List α) (s : State) :
    Inner s (l.foldl f s) := by
  induction l generalizing s with
  | nil => exact Inner.refl s
  | cons x l ih => exact (h s x).trans (ih _)

theorem Inner.anyOrder {α : Type} (s : State) (l : List α) : Inner s (s.anyOrder l).2 := by
  unfold State.anyOrder
  split
  · exact Inner.refl s
  · exact Inner.of_eq rfl rfl rfl rfl rfl rfl rfl rfl

theorem Inner.forAny {α : Type} {f : State → α → State} (h : ∀ s x, Inner s (f s x)) (l : List α) (s : State) :
    Inner s (s.forAny l f) :=
  (Inner.anyOrder s l).trans (Inner.foldl h _ _)

/-! ## Updates of one piece of state -/

theorem modLane_inner (s : State) (n : Nat) (f : Lane → Lane) : Inner s (s.modLane n f) :=
  Inner.of_eq rfl (by simp) rfl rfl rfl rfl rfl rfl

theorem modMgr_inner (s : State) (a : Actuator) (f : BandMgr → BandMgr) : Inner s (s.modMgr a f) :=
  Inner.of_eq rfl rfl rfl rfl rfl rfl rfl rfl

theorem modBand_inner (s : State) (a : Actuator) (b : Nat) (f : Band → Band) : Inner s (s.modBand a b f) :=
  Inner.of_eq rfl rfl rfl rfl rfl rfl rfl rfl

theorem modRing_inner (s : State) (a : Actuator) (f : Ring → Ring) : Inner s (s.modRing a f) :=
  Inner.of_eq rfl rfl rfl rfl rfl rfl rfl rfl

theorem modJob_inner (s : State) (f : Job → Job) : Inner s (s.modJob f) :=
  Inner.of_eq rfl rfl rfl rfl rfl rfl rfl rfl

theorem modTag_inner (s : State) (t : Nat) (f : TagEntry → TagEntry) : Inner s (s.modTag t f) :=
  Inner.of_eq rfl rfl (by simp) rfl rfl rfl rfl rfl

theorem modEntry_inner (s : State) (l : SegLoc) (f : ReadEntry → ReadEntry) : Inner s (s.modEntry l f) :=
  Inner.of_eq rfl rfl rfl rfl rfl rfl rfl rfl

theorem modSource_inner (s : State) (l : SegLoc) (f : SourceRead → SourceRead) : Inner s (s.modSource l f) :=
  Inner.of_eq rfl rfl rfl rfl rfl rfl rfl rfl

theorem credit_inner (s : State) (c : Two Credit) : Inner s { s with credit := c } :=
  Inner.of_eq rfl rfl rfl rfl rfl rfl rfl rfl

theorem rc_inner (s : State) (c : Reclaim) : Inner s { s with rc := c } :=
  Inner.of_eq rfl rfl rfl rfl rfl rfl rfl rfl

theorem rs_inner (s : State) (c : ReadServer) : Inner s { s with rs := c } :=
  Inner.of_eq rfl rfl rfl rfl rfl rfl rfl rfl

theorem creditRc_inner (s : State) (c : Two Credit) (r : Reclaim) : Inner s { s with credit := c, rc := r } :=
  Inner.of_eq rfl rfl rfl rfl rfl rfl rfl rfl

theorem mapPressureRc_inner (s : State) (p : Bool) (r : Reclaim) : Inner s { s with mapPressure := p, rc := r } :=
  Inner.of_eq rfl rfl rfl rfl rfl rfl rfl rfl

theorem mapPressure_inner (s : State) (p : Bool) : Inner s { s with mapPressure := p } :=
  Inner.of_eq rfl rfl rfl rfl rfl rfl rfl rfl

theorem intake_inner (s : State) (l : List Nat) : Inner s { s with intake := l } :=
  Inner.of_eq rfl rfl rfl rfl rfl rfl rfl rfl

theorem tags_inner (s : State) (l : List (Option TagEntry)) (h : l.length = s.tags.length) :
    Inner s { s with tags := l } :=
  Inner.of_eq rfl rfl h rfl rfl rfl rfl rfl

/-- A wait queue replaced by one of requests that stood in it or are of its class. -/
theorem setQueue_inner (s : State) (c : FrameClass) (q : List Requester)
    (h : ∀ r ∈ q, r ∈ s.pool.queue c ∨ r.cls = c) : Inner s { s with pool := s.pool.setQueue c q } := by
  refine ⟨rfl, ?_, id, id, ?_, id, List.prefix_rfl⟩
  · cases c <;> rfl
  · intro hc
    refine ⟨fun k => ?_, fun k r hr => ?_⟩
    · have := hc.1 k
      cases c <;> exact this
    · have h1 : ∀ r ∈ q, r.cls = c := fun r hr => (h r hr).elim (hc.2 c r) (fun x => x)
      have h2 := hc.2 k
      cases c <;> cases k <;> first
        | exact h1 r hr
        | exact h2 r hr

theorem requestCk_inner (s : State) : Inner s (requestCk s) := Inner.of_eq rfl rfl rfl rfl rfl rfl rfl rfl

/-! ## Frames -/

/-- How many frames of a list count toward a class (R88). -/
def heldIn (c : FrameClass) (l : List Frame) : Nat :=
  l.countP (fun f => decide (f.state ≠ .free) && decide (f.cls = some c))

/-- A frame counts no more than another one: it is FREE, or as that one. -/
def Frame.countsLess (g f : Frame) : Prop := g.state = .free ∨ (g.state ≠ .free ∧ f.state ≠ .free ∧ g.cls = f.cls)

theorem heldIn_modify_le (c : FrameClass) (l : List Frame) (id : Nat) (f : Frame → Frame)
    (h : ∀ x, l[id]? = some x → (f x).countsLess x) : heldIn c (l.modify id f) ≤ heldIn c l := by
  induction l generalizing id with
  | nil => simp
  | cons y l ih =>
    cases id with
    | zero =>
      have hy := h y (by simp)
      simp only [heldIn, List.modify_zero_cons, List.countP_cons]
      rcases hy with hy | ⟨h1, h2, h3⟩
      · simp [hy]
      · simp [h1, h2, h3]
    | succ id =>
      have := ih id (fun x hx => h x (by simpa using hx))
      simp only [heldIn, List.modify_succ_cons, List.countP_cons] at *
      omega

theorem modFrame_inner (s : State) (id : Nat) (f : Frame → Frame)
    (h : ∀ x, s.pool.frames[id]? = some x → (f x).countsLess x) : Inner s (s.modFrame id f) := by
  refine ⟨rfl, by simp [State.sizes], by simp, by simp, ?_, by simp, by simp⟩
  intro hc
  exact ⟨fun c => le_trans (heldIn_modify_le c s.pool.frames id f h) (hc.1 c), hc.2⟩

/-- An update that leaves a frame's state and class alone. -/
theorem modFrame_keeps_inner (s : State) (id : Nat) (f : Frame → Frame)
    (h : ∀ x, (f x).state = x.state ∧ (f x).cls = x.cls) : Inner s (s.modFrame id f) := by
  refine modFrame_inner s id f (fun x _ => ?_)
  obtain ⟨h1, h2⟩ := h x
  by_cases hx : x.state = .free
  · exact .inl (h1.trans hx)
  · exact .inr ⟨h1 ▸ hx, hx, h2⟩

theorem heldIn_modify_grant (c : FrameClass) (l : List Frame) (id : Nat) (k : FrameClass) (o : Owner) :
    heldIn c (l.modify id (fun _ => Frame.granted k o)) ≤ heldIn c l + (if k = c then 1 else 0) := by
  induction l generalizing id with
  | nil => simp [heldIn]
  | cons y l ih =>
    cases id with
    | zero =>
      simp only [heldIn, List.modify_zero_cons, List.countP_cons, Frame.granted]
      split <;> simp_all
    | succ id =>
      have := ih id
      simp only [heldIn, List.modify_succ_cons, List.countP_cons] at *
      omega

theorem grantFrame_inner (r : Requester) (s : State) (h : s.pool.passes r.cls = true) {id : Nat} {t : State}
    (hg : grantFrame r s = some (id, t)) : Inner s t := by
  unfold grantFrame at hg
  split at hg
  · cases hg
  · cases hg
    refine ⟨rfl, by simp [State.sizes], by simp, by simp, ?_, by simp, by simp⟩
    intro hc
    refine ⟨fun c => ?_, hc.2⟩
    have h1 := heldIn_modify_grant c s.pool.frames id r.cls r.owner
    have h2 := hc.1 c
    simp only [Pool.passes, Bool.and_eq_true, decide_eq_true_eq] at h
    have h3 := h.1.1
    show heldIn c (s.pool.frames.modify id (fun _ => Frame.granted r.cls r.owner)) ≤ _
    by_cases hk : r.cls = c
    · subst hk
      simp only [if_pos] at h1
      have : s.pool.held r.cls = heldIn r.cls s.pool.frames := rfl
      omega
    · simp only [if_neg hk] at h1
      have : s.pool.held c = heldIn c s.pool.frames := rfl
      omega

theorem requestFrame_inner (r : Requester) (s : State) : Inner s (requestFrame r s).2 := by
  unfold requestFrame
  split
  · rename_i h
    split
    · rename_i id t hg
      exact grantFrame_inner r s h.2 hg
    · exact Inner.refl s
  · refine setQueue_inner _ _ _ (fun x hx => ?_)
    rcases List.mem_append.1 hx with hx | hx
    · exact .inl hx
    · exact .inr (by rw [List.mem_singleton.1 hx])

theorem requestNoWait_inner (r : Requester) (s : State) : Inner s (requestNoWait r s).2 := by
  unfold requestNoWait
  split
  · rename_i h
    split
    · rename_i id t hg
      exact grantFrame_inner r s h.2 hg
    · exact Inner.refl s
  · exact Inner.refl s

theorem withdraw_inner (r : Requester) (s : State) : Inner s (withdraw r s) :=
  setQueue_inner _ _ _ (fun _ hx => .inl (List.mem_filter.1 hx).1)

theorem releaseFrame_inner (id : Nat) (s : State) : Inner s (releaseFrame id s) := by
  refine modFrame_inner s id _ (fun x _ => ?_)
  split
  · by_cases hx : x.state = .free
    · exact .inl hx
    · exact .inr ⟨hx, hx, rfl⟩
  · split
    · exact .inl rfl
    · refine .inr ⟨by simp, ?_, rfl⟩
      simp_all

theorem pinFrame_inner (id : Nat) (s : State) : Inner s (pinFrame id s) :=
  modFrame_keeps_inner _ _ _ (fun _ => ⟨rfl, rfl⟩)

theorem unpinFrame_inner (id : Nat) (s : State) : Inner s (unpinFrame id s) := by
  refine modFrame_inner s id _ (fun x _ => ?_)
  split
  · exact .inl rfl
  · by_cases hx : x.state = .free
    · exact .inl hx
    · exact .inr ⟨hx, hx, rfl⟩

theorem releaseHeld_inner (frame : Option Nat) (s : State) : Inner s (releaseHeld frame s) := by
  cases frame
  · exact Inner.refl s
  · exact releaseFrame_inner _ _

/-! ## Exceptions, sequence numbers, map pressure -/

theorem postTo_ok (l : List Exc) (k : ExcKind) (a : Actuator) (q x y : Nat) (h : ExceptionsOk l) :
    ExceptionsOk (postTo l k a q x y) := by
  unfold postTo
  split
  · refine ⟨?_, ?_⟩
    · have : (l.map (fun e => if e.kind = k ∧ e.act = a then
        { e with occurrences := min (e.occurrences + 1) 255, detail1 := x, detail2 := y } else e)).map
          (fun e => (e.kind, e.act)) = l.map (fun e => (e.kind, e.act)) := by
        rw [List.map_map]
        apply List.map_congr_left
        intro e _
        simp only [Function.comp]
        split <;> rfl
      rw [this]; exact h.1
    · intro e he
      obtain ⟨e', he', rfl⟩ := List.mem_map.1 he
      have := h.2 e' he'
      split
      · simp only; omega
      · exact this
  · rename_i hk
    refine ⟨?_, ?_⟩
    · rw [List.map_append, List.nodup_append]
      refine ⟨h.1, by simp, ?_⟩
      intro p hp q hq
      simp at hq; subst hq
      obtain ⟨e, he, rfl⟩ := List.mem_map.1 hp
      intro hc
      apply hk
      simp only [List.any_eq_true]
      refine ⟨e, he, ?_⟩
      simpa using hc
    · intro e he
      rcases List.mem_append.1 he with he | he
      · exact h.2 e he
      · simp at he; subst he; simp

theorem post_inner (k : ExcKind) (a : Actuator) (x y : Nat) (s : State) : Inner s (post k a x y s) :=
  ⟨rfl, rfl, id, postTo_ok _ _ _ _ _ _, id, id, List.prefix_rfl⟩

theorem assignSeq_inner (s : State) : Inner s (assignSeq s).2 :=
  ⟨rfl, rfl, fun h => by simp [h], id, id, id, List.prefix_rfl⟩

theorem send_inner (m : FrontMsg) (s : State) : Inner s (s.send m) :=
  ⟨rfl, rfl, id, id, id, id, List.prefix_append _ _⟩

theorem countDataSegment_inner (s : State) : Inner s (countDataSegment s) := by
  unfold countDataSegment
  have h : Inner s (s.modCk (fun c => { c with dStart := c.dStart + 1, dComplete := c.dComplete + 1 })) :=
    Inner.of_eq rfl rfl rfl rfl rfl rfl rfl rfl
  dsimp only
  split
  · exact h.trans (requestCk_inner _)
  · exact h

theorem evalMapPressure_inner (s : State) : Inner s (evalMapPressure s) := by
  grind [evalMapPressure, Inner.trans, Inner.refl, post_inner, mapPressure_inner, mapPressureRc_inner]

/-! ## Bands and rings -/

theorem evalBandPressure_inner (a : Actuator) (s : State) : Inner s (evalBandPressure a s) := by
  unfold evalBandPressure
  repeat' split
  all_goals first
    | exact Inner.refl _
    | exact credit_inner _ _
    | exact creditRc_inner _ _ _

theorem returnCredit_inner (a : Actuator) (x : Nat) (s : State) : Inner s (returnCredit a x s) := by
  grind [returnCredit, Inner.refl, credit_inner]

theorem chargeCredit_inner (a : Actuator) (s : State) : Inner s (chargeCredit a s) := by
  grind [chargeCredit, Inner.refl, credit_inner]

theorem allocate_inner (n : Nat) (a : Actuator) (s : State) : Inner s (allocate n a s).2 := by
  grind [allocate, Inner.trans, Inner.refl, modBand_inner, evalBandPressure_inner, modMgr_inner]

theorem reserveSegment_inner (n : Nat) (a : Actuator) (b : Nat) (s : State) : Inner s (reserveSegment n a b s).2 := by
  grind [reserveSegment, Inner.refl, modBand_inner]

theorem park_inner (a : Actuator) (b : Nat) (s : State) : Inner s (park a b s) :=
  (modBand_inner _ _ _ _).trans (modMgr_inner _ _ _)

theorem giveUpBand_inner (n : Nat) (a : Actuator) (b : Nat) (s : State) : Inner s (giveUpBand n a b s) := by
  grind [giveUpBand, Inner.refl, modBand_inner, park_inner]

theorem bandWritten_inner (a : Actuator) (b : Nat) (s : State) : Inner s (bandWritten a b s) := by
  grind [bandWritten, Inner.trans, Inner.refl, modBand_inner, park_inner]

theorem truncateBand_inner (a : Actuator) (b : Nat) (fault : Bool) (s : State) : Inner s (truncateBand a b fault s) :=
  (modBand_inner _ _ _ _).trans (post_inner _ _ _ _ _)

theorem leaveBand_inner (l : SegLoc) (s : State) : Inner s (leaveBand l s) := by
  grind [leaveBand, Inner.refl, modBand_inner]

theorem testEvacuated_inner (a : Actuator) (b : Nat) (s : State) : Inner s (testEvacuated a b s) := by
  grind [testEvacuated, Inner.trans, Inner.refl, modBand_inner, evalBandPressure_inner, post_inner]

theorem evalLatch_inner (a : Actuator) (s : State) : Inner s (evalLatch a s) := by
  grind [evalLatch, Inner.refl, rc_inner]

theorem cacheSlot_inner (a : Actuator) (s : State) : Inner s (cacheSlot a s).2 := by
  grind [cacheSlot, Inner.trans, Inner.refl, modRing_inner, evalLatch_inner]

theorem advanceFree_inner (a : Actuator) (s : State) : Inner s (advanceFree a s) :=
  (modRing_inner _ _ _).trans (evalLatch_inner _ _)

theorem pinSegment_inner (l : SegLoc) (s : State) : Inner s (pinSegment l s) := by
  grind [pinSegment, pinBand, pinCache, Inner.refl, modBand_inner, modRing_inner]

theorem unpinSegment_inner (l : SegLoc) (s : State) : Inner s (unpinSegment l s) := by
  grind [unpinSegment, unpinBand, unpinCache, Inner.refl, Inner.trans, modBand_inner, modRing_inner, testEvacuated_inner,
    advanceFree_inner]

/-! ## Completions -/

theorem complete_inner (t : Nat) (o : Outcome) (d : Nat) (s : State) : Inner s (complete t o d s) :=
  ⟨rfl, by simp [State.sizes], by simp, by simp, fun h => by simpa using h, by simp, by simp⟩

theorem completeWrite_inner (t : Nat) (e : TagEntry) (s : State) : Inner s (completeWrite t e s) := by
  grind [completeWrite, Inner.refl, complete_inner]

theorem completeFlush_inner (t : Nat) (e : TagEntry) (s : State) : Inner s (completeFlush t e s) := by
  grind [completeFlush, Inner.refl, complete_inner]

theorem checkComplete_inner (t : Nat) (s : State) : Inner s (checkComplete t s) := by
  grind [checkComplete, Inner.refl, completeWrite_inner, completeFlush_inner]

theorem completeRelease_inner (ok : Bool) (s : State) (t : Nat) : Inner s (completeRelease ok s t) := by
  unfold completeRelease
  split
  · exact Inner.refl s
  · rename_i e _
    dsimp only
    refine Inner.trans ?_ (Inner.forAny (fun s t => checkComplete_inner t s) _ _)
    refine Inner.trans ?_ (tags_inner _ _ (by simp))
    split <;> exact complete_inner _ _ _ _

/-! ## A lane's frames -/

theorem joinQueue_inner (n id : Nat) (b : Bool) (s : State) : Inner s (joinQueue n id b s) := by
  grind [joinQueue, Inner.refl, modLane_inner]

theorem leaveQueue_inner (n id : Nat) (s : State) : Inner s (leaveQueue n id s) := modLane_inner _ _ _

/-- A frame replaced by one of the same state and class. -/
theorem replaceFrame_inner (s : State) (id : Nat) (f : Frame) (h : f.state = (s.frame id).state ∧ f.cls = (s.frame id).cls) :
    Inner s (s.modFrame id (fun _ => f)) := by
  refine modFrame_inner s id _ (fun x hx => ?_)
  have : s.frame id = x := by simp [State.frame, List.getD_eq_getElem?_getD, hx]
  rw [this] at h
  by_cases hf : x.state = .free
  · exact .inl (h.1.trans hf)
  · exact .inr ⟨h.1 ▸ hf, hf, h.2⟩

theorem stampFrame_inner (n id : Nat) (s : State) : Inner s (stampFrame n id s) := by
  unfold stampFrame
  dsimp only
  split
  · refine (assignSeq_inner s).trans (replaceFrame_inner _ _ _ ⟨?_, ?_⟩) <;> simp [State.frame]
  · exact assignSeq_inner s

theorem sealFrame_inner (n id : Nat) (s : State) : Inner s (sealFrame n id s) := by
  unfold sealFrame
  dsimp only
  have h := (modFrame_keeps_inner s id (fun f =>
    { f with payload := f.payload.take f.fill ++ List.replicate (16 - f.fill) 0 }) (fun _ => ⟨rfl, rfl⟩)).trans
    (stampFrame_inner n id _)
  split
  · exact h
  · exact h.trans (joinQueue_inner _ _ _ _)

theorem setClosePending_inner (s : State) (id : Nat) : Inner s (s.modFrame id (fun f => { f with closePending := true })) :=
  modFrame_keeps_inner _ _ _ (fun _ => ⟨rfl, rfl⟩)

theorem closeFrame_inner (n id : Nat) (s : State) : Inner s (closeFrame n id s) := by
  grind [closeFrame, Inner.trans, modLane_inner, sealFrame_inner, setClosePending_inner]

theorem closeOpen_inner (n : Nat) (s : State) : Inner s (closeOpen n s) := by
  grind [closeOpen, Inner.refl, closeFrame_inner]

theorem giveUpLaneBand_inner (n : Nat) (s : State) : Inner s (giveUpLaneBand n s) := by
  grind [giveUpLaneBand, Inner.refl, Inner.trans, giveUpBand_inner, modLane_inner]

theorem dropRequest_inner (n : Nat) (s : State) : Inner s (dropRequest n s) := by
  grind [dropRequest, Inner.refl, Inner.trans, withdraw_inner, modLane_inner, releaseFrame_inner]

theorem tellLost_inner (id : Nat) (lbas : List Nat) (s : State) : Inner s (tellLost id lbas s) :=
  Inner.foldl (fun s t => modTag_inner s t _) _ _

theorem wakeWaiters_inner (tags : List Nat) (s : State) : Inner s (wakeWaiters tags s) :=
  Inner.forAny (fun s t => checkComplete_inner t s) _ _

/-! ## Evacuation -/

theorem deleteEntry_inner (l : SegLoc) (s : State) : Inner s (deleteEntry l s) := by
  unfold deleteEntry
  split
  · exact Inner.refl s
  · exact (((releaseHeld_inner _ _).trans (withdraw_inner _ _)).trans (rs_inner _ _)).trans (rs_inner _ _)

theorem dropAhead_inner (s : State) (l : SegLoc) : Inner s (dropAhead s l) := by
  grind [dropAhead, Inner.refl, modEntry_inner, deleteEntry_inner]

theorem dropAheadWhere_inner (p : ReadEntry → Bool) (s : State) : Inner s (dropAheadWhere p s) :=
  Inner.foldl dropAhead_inner _ _

theorem dropSource_inner (s : State) (e : SourceRead) : Inner s (dropSource s e) := by
  unfold dropSource
  split
  · exact rc_inner _ _
  · exact ((releaseHeld_inner _ _).trans (withdraw_inner _ _)).trans (rc_inner _ _)

theorem endLaneSeven_inner (s : State) : Inner s (endLaneSeven s) := by
  grind [endLaneSeven, Inner.trans, giveUpLaneBand_inner, closeOpen_inner, dropRequest_inner, modLane_inner]

theorem endJob_inner (s : State) : Inner s (endJob s) :=
  ((Inner.foldl dropSource_inner _ s).trans (endLaneSeven_inner _)).trans (rc_inner _ _)

theorem endBandJob_inner (a : Actuator) (b q : Nat) (s : State) : Inner s (endBandJob a b q s) := by
  unfold endBandJob
  exact Inner.trans (t := requestCk (s.modCk _)) (Inner.of_eq rfl rfl rfl rfl rfl rfl rfl rfl) (endJob_inner _)

theorem evacuate_inner (a : Actuator) (b : Nat) (s : State) : Inner s (evacuate a b s) := by
  grind [evacuate, Inner.trans, Inner.refl, modBand_inner, returnCredit_inner, dropAheadWhere_inner, endBandJob_inner]

/-! ## The extent map -/

theorem countRecord_inner (s : State) (e : Extent) : Inner s (countRecord s e) := by
  grind [countRecord, Inner.refl, modBand_inner]

theorem uncountRecord_inner (s : State) (e : Extent) : Inner s (uncountRecord s e) := by
  grind [uncountRecord, Inner.refl, modBand_inner]

theorem testEmptied_inner (s : State) (h : Actuator × Nat) : Inner s (testEmptied s h) := by
  grind [testEmptied, Inner.refl, evacuate_inner]

theorem extents_inner (s : State) (t : List Extent) (h : TableOk s.extents → TableOk t) : Inner s { s with extents := t } :=
  ⟨rfl, rfl, id, id, id, h, List.prefix_rfl⟩

theorem commitTable_inner (t : List Extent) (s : State) (h : TableOk s.extents → TableOk t) :
    Inner s (commitTable t s) := by
  unfold commitTable
  dsimp only
  refine (extents_inner s t h).trans ?_
  split
  · exact Inner.refl _
  · exact (((Inner.foldl countRecord_inner _ _).trans (Inner.foldl uncountRecord_inner _ _)).trans
      (Inner.foldl testEmptied_inner _ _)).trans (evalMapPressure_inner _)

theorem tellRecord_inner (e : Extent) (s : State) : Inner s (tellRecord e s) := by
  unfold tellRecord
  split
  · exact Inner.refl s
  · refine Inner.foldl (fun s id => ?_) _ _
    grind [Inner.refl, tellLost_inner]

theorem reportConverted_inner (s : State) (e : Extent) : Inner s (reportConverted s e) :=
  (post_inner _ _ _ _ _).trans (tellRecord_inner _ _)

theorem exhaust_inner (lba : Nat) (s : State) : Inner s (exhaust lba s) := by
  unfold exhaust
  split
  · rename_i e he
    exact (commitTable_inner _ s (fun h => convertLost_ok h (covering_some he).1)).trans (reportConverted_inner _ _)
  · exact post_inner _ _ _ _ _

theorem place_inner (lba : Nat) (loc : Loc) (s : State) : Inner s (place lba loc s).2 := by
  unfold place
  split
  · rename_i t ht
    exact commitTable_inner _ s (fun h => remap_ok h ht)
  · exact exhaust_inner _ _

theorem conditionalMove_inner (lba : Nat) (src dst : Loc) (s : State) : Inner s (conditionalMove lba src dst s).2 := by
  unfold conditionalMove
  have h := place_inner lba dst s
  split
  · split <;> (rename_i hp; rw [hp] at h; exact h)
  · exact Inner.refl s

theorem splitBy_mem {t : List Extent} {lba count : Nat} {e : Extent} (h : splitBy t lba count = some e) : e ∈ t :=
  List.mem_of_find?_eq_some h

theorem releaseRange_inner (lba count : Nat) (s : State) : Inner s (releaseRange lba count s).2 := by
  unfold releaseRange
  dsimp only
  have cut : Inner s (commitTable (cutTable s.extents lba (lba + count)) s) :=
    commitTable_inner _ s (fun h => cutTable_ok h (by omega))
  split
  · rename_i e he
    split
    · exact (commitTable_inner _ s (fun h => convertLost_ok h (splitBy_mem he))).trans (reportConverted_inner _ _)
    · exact cut
  · exact cut

theorem makeLost_inner (l : List (Nat × Loc)) (s : State) : Inner s (makeLost l s).2 :=
  (commitTable_inner _ s (fun h => makeLostTable_ok _ _ l h)).trans (Inner.foldl reportConverted_inner _ _)

theorem makeLostEach_inner (l : List (List (Nat × Loc))) (s : State) : Inner s (makeLostEach l s).2 := by
  induction l generalizing s with
  | nil => exact Inner.refl s
  | cons b l ih => exact (makeLost_inner b s).trans (ih _)

/-! ## Lanes -/

theorem askBand_inner (n : Nat) (s : State) : Inner s (askBand n s).2 := by
  grind [askBand, Inner.refl, allocate_inner]

theorem obtainBand_inner (n : Nat) (s : State) : Inner s (obtainBand n s).2 := by
  grind [obtainBand, Inner.trans, askBand_inner, modLane_inner]

theorem reserveHeld_inner (n : Nat) (a : Actuator) (b : Nat) (s : State) : Inner s (reserveHeld n a b s).2 := by
  grind [reserveHeld, Inner.trans, Inner.refl, reserveSegment_inner, modLane_inner]

theorem bandSegment_inner (n : Nat) (s : State) : Inner s (bandSegment n s).2 := by
  unfold bandSegment
  grind [Inner.trans, Inner.refl, reserveHeld_inner, obtainBand_inner]

theorem ringSegment_inner (s : State) : Inner s (ringSegment s).2 := by
  grind [ringSegment, Inner.refl, cacheSlot_inner]

theorem laneLocation_inner (n : Nat) (s : State) : Inner s (laneLocation n s).2 := by
  grind [laneLocation, ringSegment_inner, bandSegment_inner]

theorem openFrame_inner (n id : Nat) (loc : SegLoc) (ctr : Nat) (s : State) : Inner s (openFrame n id loc ctr s) := by
  unfold openFrame
  dsimp only
  refine Inner.trans ?_ (countDataSegment_inner _)
  refine Inner.trans ?_ (modLane_inner _ _ _)
  exact modFrame_keeps_inner _ _ _ (fun _ => ⟨rfl, rfl⟩)

theorem giveUpLane_inner (n : Nat) (s : State) : Inner s (giveUpLane n s) :=
  ((closeOpen_inner _ _).trans (giveUpLaneBand_inner _ _)).trans (modLane_inner _ _ _)

theorem evictLane_inner (n : Nat) (s : State) : Inner s (evictLane n s) :=
  ((closeOpen_inner _ _).trans (giveUpLaneBand_inner _ _)).trans (modLane_inner _ _ _)

theorem returnMoves_inner (f : Frame) (s : State) : Inner s (returnMoves f s) := modJob_inner _ _

theorem loseFrame_inner (id : Nat) (f : Frame) (l : SegLoc) (s : State) : Inner s (loseFrame id f l s) := by
  unfold loseFrame
  dsimp only
  refine (makeLostEach_inner (f.runs.map (fun r => lossRange r.start r.len (l.at r.first))) s).trans ?_
  split
  · exact tellLost_inner _ _ _
  · exact (post_inner _ _ _ _ _).trans (tellLost_inner _ _ _)

theorem abandonFrame_inner (n id : Nat) (s : State) : Inner s (abandonFrame n id s) := by
  unfold abandonFrame
  dsimp only
  split
  · exact Inner.refl s
  · refine Inner.trans ?_ (wakeWaiters_inner _ _)
    refine Inner.trans ?_ (releaseFrame_inner _ _)
    refine Inner.trans ?_ (modLane_inner _ _ _)
    refine Inner.trans ?_ (leaveBand_inner _ _)
    refine Inner.trans ?_ (modFrame_keeps_inner _ _ _ (fun _ => ⟨rfl, rfl⟩))
    split
    · exact returnMoves_inner _ _
    · exact loseFrame_inner _ _ _ _

theorem replaceBlock_inner (l loc : SegLoc) (s : State) (x : Nat × Nat) : Inner s (replaceBlock l loc s x) := by
  grind [replaceBlock, Inner.refl, place_inner]

theorem moveFrame_inner (n id : Nat) (loc : SegLoc) (ctr : Nat) (s : State) : Inner s (moveFrame n id loc ctr s) := by
  unfold moveFrame
  dsimp only
  split
  · exact Inner.refl s
  · rename_i old _
    generalize (if n = 7 then [] else _) = cur
    have h : ∀ (t : State) (l : SegLoc) (x : List Nat), Inner s t → Inner s
        ((countDataSegment (leaveBand l (tellLost id x t))).modLane n
          (fun c => { c with rebind := c.rebind.filter (fun i => i ≠ id) })) := by
      intro t l x ht
      refine Inner.trans ?_ (modLane_inner _ _ _)
      refine Inner.trans ?_ (countDataSegment_inner _)
      refine Inner.trans ?_ (leaveBand_inner _ _)
      exact ht.trans (tellLost_inner _ _ _)
    have h0 : Inner s ((cur.foldl (replaceBlock old loc) s).modFrame id
        (fun f => { f with bound := some loc, ringCtr := ctr })) := by
      refine Inner.trans ?_ (modFrame_keeps_inner _ _ _ ?_)
      · exact Inner.foldl (replaceBlock_inner old loc) cur s
      · exact fun _ => ⟨rfl, rfl⟩
    split
    · refine Inner.trans ?_ (joinQueue_inner _ _ _ _)
      refine Inner.trans ?_ (stampFrame_inner _ _ _)
      exact h _ _ _ h0
    · exact h _ _ _ h0

theorem endRebind_inner (n : Nat) (s : State) : Inner s (endRebind n s) := by
  grind [endRebind, Inner.trans, Inner.refl, giveUpLaneBand_inner, modLane_inner]

theorem workRebinds_inner (n fuel : Nat) (s : State) : Inner s (workRebinds n fuel s) := by
  induction fuel generalizing s with
  | zero => exact Inner.refl s
  | succ fuel ih =>
    unfold workRebinds
    split
    · exact endRebind_inner _ _
    · split
      · exact (abandonFrame_inner _ _ _).trans (ih _)
      · have h := laneLocation_inner n s
        split
        · rename_i hl
          rw [hl] at h
          exact (h.trans (moveFrame_inner _ _ _ _ _)).trans (ih _)
        · rename_i hl
          rw [hl] at h
          exact h.trans (modLane_inner _ _ _)

theorem workRebindList_inner (n : Nat) (s : State) : Inner s (workRebindList n s) := workRebinds_inner _ _ _

theorem failFrame_inner (n id : Nat) (s : State) : Inner s (failFrame n id s) := by
  unfold failFrame
  split
  · exact Inner.refl s
  · dsimp only
    refine Inner.trans ?_ (workRebindList_inner _ _)
    refine Inner.trans ?_ (modLane_inner _ _ _)
    refine Inner.trans ?_ (modFrame_keeps_inner _ _ _ (fun _ => ⟨rfl, rfl⟩))
    exact Inner.foldl (fun s i => leaveQueue_inner n i s) _ _

theorem retryFaulted_inner (s : State) (n : Nat) : Inner s (retryFaulted s n) := by
  grind [retryFaulted, Inner.refl, workRebindList_inner]

theorem retryWaiting_inner (s : State) (n : Nat) : Inner s (retryWaiting s n) := by
  grind [retryWaiting, Inner.refl, Inner.trans, modLane_inner, obtainBand_inner]

theorem informLanes_inner (s : State) : Inner s (informLanes s) :=
  Inner.forAny (fun s n => (retryFaulted_inner s n).trans (retryWaiting_inner _ n)) _ _

end Sys2Proof.Machine
end

