-- ==== Sys2Proof/Laws/Engine.lean ====
section
/-! SUPPORT. The reclaim engine's operations are inner work (`Inner`), and so is all that follows a command but for the
gate itself and the turns it refuses: what `settle` keeps. -/

namespace Sys2Proof.Machine

/-! ## Turns (R179, R185) -/

theorem popIntake_inner (s : State) : Inner s (popIntake s) := intake_inner _ _

theorem refuseHeads_inner (fuel : Nat) (s : State) : Inner s (refuseHeads fuel s) := by
  induction fuel generalizing s with
  | zero => exact Inner.refl s
  | succ fuel ih =>
    have h : ∀ t, Inner s (refuseHeads fuel (complete t .writeProtected 0 (popIntake s))) := fun t =>
      ((popIntake_inner s).trans (complete_inner t .writeProtected 0 _)).trans (ih _)
    unfold refuseHeads
    repeat' split
    all_goals first
      | exact Inner.refl _
      | exact h _

theorem refuseTurns_inner (s : State) : Inner s (refuseTurns s) := refuseHeads_inner _ _

/-! ## Entries and holds of the read server -/

theorem grantEntry_inner (l : SegLoc) (id : Nat) (s : State) : Inner s (grantEntry l id s) :=
  (modEntry_inner _ _ _).trans (rs_inner _ _)

theorem addEntry_inner (e : ReadEntry) (s : State) : Inner s (addEntry e s) := rs_inner _ _

theorem unqueueEntry_inner (l : SegLoc) (s : State) : Inner s (unqueueEntry l s) := rs_inner _ _

theorem modRead_inner (t : Nat) (f : ReadRec → ReadRec) (s : State) : Inner s (s.modRead t f) := rs_inner _ _

theorem leaveEntry_inner (t : Nat) (l : SegLoc) (s : State) : Inner s (leaveEntry t l s) := by
  grind [leaveEntry, Inner.refl, Inner.trans, modEntry_inner, deleteEntry_inner]

theorem giveUpSegment_inner (t : Nat) (s : State) (l : SegLoc) : Inner s (giveUpSegment t s l) :=
  (unpinSegment_inner _ _).trans (leaveEntry_inner _ _ _)

theorem updateRead_inner (t : Nat) (f : ReadRec → ReadRec) (s : State) : Inner s (updateRead t f s) := by
  unfold updateRead
  split
  · exact Inner.refl s
  · dsimp only
    refine Inner.trans ?_ (Inner.foldl (giveUpSegment_inner t) _ _)
    refine Inner.trans ?_ (Inner.foldl (fun s id => unpinFrame_inner id s) _ _)
    exact modRead_inner _ _ _

theorem finishRead_inner (t : Nat) (s : State) : Inner s (finishRead t s) := by
  grind [finishRead, Inner.refl, Inner.trans, rs_inner, complete_inner, post_inner]

theorem recycleStalled_inner (s : State) : Inner s (recycleStalled s) := by
  grind [recycleStalled, Inner.refl, Inner.trans, releaseHeld_inner, modEntry_inner, requestFrame_inner]

theorem testStalled_inner (l : List SegLoc) (s : State) : Inner s (testStalled l s) := by
  grind [testStalled, Inner.refl, recycleStalled_inner]

theorem recordFailure_inner (t i : Nat) (k : ReadFail) (a : Actuator) (s : State) : Inner s (recordFailure t i k a s) := by
  grind [recordFailure, Inner.refl, Inner.trans, testStalled_inner, finishRead_inner, updateRead_inner]

theorem askEntry_inner (l : SegLoc) (s : State) : Inner s (askEntry l s) := by
  grind [askEntry, Inner.trans, requestFrame_inner, grantEntry_inner, recycleStalled_inner]

theorem joinEntry_inner (t : Nat) (s : State) (l : SegLoc) : Inner s (joinEntry t s l) := by
  grind [joinEntry, Inner.trans, testStalled_inner, modEntry_inner, askEntry_inner, addEntry_inner]

theorem fetchAhead_inner (a : Actuator) (s : State) : Inner s (fetchAhead a s).2 := by
  grind [fetchAhead, Inner.refl, Inner.trans, requestNoWait_inner, grantEntry_inner, addEntry_inner]

theorem fetchMany_inner (a : Actuator) (fuel : Nat) (s : State) : Inner s (fetchMany a fuel s) := by
  induction fuel generalizing s with
  | zero => exact Inner.refl s
  | succ fuel ih =>
    have h := fetchAhead_inner a s
    unfold fetchMany
    split
    · rename_i hf
      rw [hf] at h
      exact h.trans (ih _)
    · rename_i hf
      rw [hf] at h
      exact h

theorem updateAhead_inner (r : ReadRec) (taken : Actuator → Bool) (s : State) (a : Actuator) :
    Inner s (updateAhead r taken s a) := by
  grind [updateAhead, Inner.refl, Inner.trans, rs_inner, fetchAhead_inner, fetchMany_inner]

theorem acceptRead_inner (t lba count : Nat) (s : State) : Inner s (acceptRead t lba count s) := by
  unfold acceptRead
  dsimp only
  refine Inner.trans ?_ (finishRead_inner _ _)
  refine Inner.trans ?_ (Inner.foldl (updateAhead_inner _ _) _ _)
  refine Inner.trans ?_ (Inner.foldl (fun s l => (pinSegment_inner l s).trans (joinEntry_inner t _ l)) _ _)
  refine Inner.trans ?_ (Inner.foldl (fun s id => pinFrame_inner id s) _ _)
  exact rs_inner _ _

theorem deliver_inner (t : Nat) (s : State) : Inner s (deliver t s) := by
  unfold deliver
  repeat' split
  · exact Inner.refl s
  · exact Inner.refl s
  · exact (((send_inner _ _).trans (updateRead_inner _ _ _)).trans (finishRead_inner _ _)).trans (testStalled_inner _ _)

theorem releaseDropped_inner (l : SegLoc) (n : Nat) (s : State) : Inner s (releaseDropped l n s) :=
  (modEntry_inner _ _ _).trans (Inner.foldl (fun s _ => unpinSegment_inner l s) _ _)

theorem failEntry_inner (e : ReadEntry) (s : State) : Inner s (failEntry e s) := by
  unfold failEntry
  refine (deleteEntry_inner _ _).trans (Inner.forAny (fun s t => ?_) _ _)
  grind [Inner.refl, recordFailure_inner]

theorem retryEntry_inner (e : ReadEntry) (s : State) : Inner s (retryEntry e s) := by
  unfold retryEntry
  repeat' split
  · exact deleteEntry_inner _ _
  · exact failEntry_inner _ _
  · exact (((releaseHeld_inner _ _).trans (unqueueEntry_inner _ _)).trans (modEntry_inner _ _ _)).trans (askEntry_inner _ _)

theorem entryResult_inner (l : SegLoc) (r : ReadEnd) (s : State) : Inner s (entryResult l r s) := by
  unfold entryResult
  split
  · exact Inner.refl s
  · dsimp only
    rename_i e _
    refine (releaseDropped_inner l e.droppedPins s).trans ?_
    repeat' split
    · exact deleteEntry_inner _ _
    · exact modEntry_inner _ _ _
    · exact retryEntry_inner _ _
    · exact ((modEntry_inner _ _ _).trans (unqueueEntry_inner _ _)).trans (testStalled_inner _ _)
    · exact retryEntry_inner _ _
    · exact retryEntry_inner _ _

theorem refreshWaits_inner (s : State) : Inner s (refreshWaits s) := rs_inner _ _

theorem expireWait_inner (t : Nat) (s : State) : Inner s (expireWait t s) := by
  grind [expireWait, Inner.refl, recordFailure_inner]

theorem dropSegment_inner (t : Nat) (s : State) (l : SegLoc) : Inner s (dropSegment t s l) := by
  grind [dropSegment, Inner.trans, leaveEntry_inner, modEntry_inner, giveUpSegment_inner]

theorem dropRead_inner (s : State) (r : ReadRec) : Inner s (dropRead s r) := by
  unfold dropRead
  dsimp only
  refine Inner.trans ?_ (Inner.foldl (dropSegment_inner _) _ _)
  refine Inner.trans ?_ (Inner.foldl (fun s id => unpinFrame_inner id s) _ _)
  exact rs_inner _ _

/-! ## Lanes at the gate -/

theorem waitLane_inner (n : Nat) (s : State) : Inner s (waitLane n s) := modLane_inner _ _ _

theorem laneFrame_inner (n : Nat) (s : State) : Inner s (laneFrame n s).2 := by
  grind [laneFrame, Inner.refl, Inner.trans, requestFrame_inner, modLane_inner]

theorem enterLane_inner (n : Nat) (s : State) : Inner s (enterLane n s) := modLane_inner _ _ _

theorem takeStream_inner (s : State) : Inner s (takeStream s).2 := by
  grind [takeStream, Inner.refl, evictLane_inner]

theorem classify_inner (lba n : Nat) (s : State) : Inner s (classify lba n s).2 := by
  grind [classify, Inner.refl, takeStream_inner]

theorem leavePhase_inner (n : Nat) (s : State) : Inner s (leavePhase n s) :=
  (dropRequest_inner _ _).trans (modLane_inner _ _ _)

theorem lateGiveUps_inner (s : State) : Inner s (lateGiveUps s) := by
  refine Inner.forAny (fun s n => ?_) _ _
  grind [giveUpLane_inner, modLane_inner]

theorem closeAtNinthRun_inner (n lba : Nat) (s : State) : Inner s (closeAtNinthRun n lba s) := by
  grind [closeAtNinthRun, Inner.refl, closeFrame_inner]

theorem laneSlot_inner (n : Nat) (s : State) : Inner s (laneSlot n s).2 := by
  grind [laneSlot, Inner.refl, Inner.trans, laneFrame_inner, waitLane_inner, dropRequest_inner, laneLocation_inner,
    closeOpen_inner, openFrame_inner]

theorem acceptLane_inner (u : Pull) (c : Bool) (s : State) : Inner s (acceptLane u c s) := modLane_inner _ _ _

theorem closeAtAcceptance_inner (u : Pull) (s : State) : Inner s (closeAtAcceptance u s) := by
  grind [closeAtAcceptance, Inner.refl, sealFrame_inner, closeFrame_inner]

theorem dropPromise_inner (s : State) (id : Nat) : Inner s (s.modFrame id (fun f => { f with promises := f.promises - 1 })) :=
  modFrame_keeps_inner _ _ _ (fun _ => ⟨rfl, rfl⟩)

theorem abandonPromise_inner (s : State) (u : Pull) : Inner s (abandonPromise s u) := by
  grind [abandonPromise, Inner.trans, dropPromise_inner, sealFrame_inner, modLane_inner]

/-! ## Passes and jobs -/

theorem beginBandPass_inner (v : Nat) (j : Job) (s : State) : Inner s (beginBandPass v j s) := modJob_inner _ _

theorem beginCachePass_inner (j : Job) (s : State) : Inner s (beginCachePass j s) := by
  grind [beginCachePass, Inner.refl, modJob_inner]

theorem beginPass_inner (s : State) : Inner s (beginPass s) := by
  grind [beginPass, Inner.refl, beginBandPass_inner, beginCachePass_inner]

theorem tellLaneSeven_inner (a : Actuator) (s : State) : Inner s (tellLaneSeven a s) := modLane_inner _ _ _

theorem startBandJob_inner (t : Trigger) (a : Actuator) (b : Nat) (s : State) : Inner s (startBandJob t a b s) := by
  unfold startBandJob
  dsimp only
  have h := ((rc_inner s { s.rc with job := some (Job.fresh t a (some b)) }).trans (tellLaneSeven_inner a _)).trans
    (modBand_inner _ a b (fun r => { r with state := .cleaning, validAtSel := some (s.bandRec a b).valid }))
  split
  · exact h.trans (evacuate_inner _ _ _)
  · exact h.trans (beginPass_inner _)

theorem startCacheJob_inner (t : Trigger) (a : Actuator) (s : State) : Inner s (startCacheJob t a s) :=
  ((rc_inner _ _).trans (tellLaneSeven_inner _ _)).trans (beginPass_inner _)

theorem tryEach_inner {α : Type} {f : α → State → Bool × State} (h : ∀ x s, Inner s (f x s).2) (l : List α) (s : State) :
    Inner s (tryEach f l s).2 := by
  induction l generalizing s with
  | nil => exact Inner.refl s
  | cons x l ih =>
    have hx := h x s
    unfold tryEach
    split
    · rename_i hf
      rw [hf] at hx
      exact hx
    · rename_i hf
      rw [hf] at hx
      exact hx.trans (ih _)

theorem tryActuator_inner (t : Trigger) (p : State → Actuator → Bool) (a : Actuator) (s : State) :
    Inner s (tryActuator t p a s).2 := by
  unfold tryActuator
  repeat' split
  all_goals try dsimp only
  all_goals try split
  all_goals first
    | exact Inner.refl _
    | exact rc_inner _ _
    | exact (rc_inner _ _).trans (startBandJob_inner _ _ _ _)
    | exact (rc_inner _ _).trans (post_inner _ _ _ _ _)

theorem tryMap_inner (s : State) : Inner s (tryMap s).2 := by
  unfold tryMap
  repeat' split
  all_goals try dsimp only
  all_goals try split
  all_goals first
    | exact Inner.refl _
    | exact rc_inner _ _
    | exact (rc_inner _ _).trans (startBandJob_inner _ _ _ _)
    | exact (rc_inner _ _).trans (post_inner _ _ _ _ _)

theorem tryRing_inner (t : Trigger) (p : State → Actuator → Bool) (a : Actuator) (s : State) :
    Inner s (tryRing t p a s).2 := by
  grind [tryRing, Inner.refl, startCacheJob_inner]

theorem tryTrigger_inner (t : Trigger) (s : State) : Inner s (tryTrigger t s).2 := by
  cases t
  · exact tryEach_inner (tryActuator_inner _ _) _ _
  · exact tryMap_inner _
  · exact tryEach_inner (tryRing_inner _ _) _ _
  · exact tryEach_inner (tryActuator_inner _ _) _ _
  · exact tryEach_inner (tryRing_inner _ _) _ _

theorem testTriggers_inner (s : State) : Inner s (testTriggers s) := by
  unfold testTriggers
  split
  · exact tryEach_inner tryTrigger_inner _ _
  · exact Inner.refl s

/-! ## Source reads -/

theorem resolveMoves_inner (st : MoveState) (p : Move → Bool) (s : State) : Inner s (resolveMoves st p s) :=
  modJob_inner _ _

theorem grantSource_inner (l : SegLoc) (id : Nat) (s : State) : Inner s (grantSource l id s) :=
  (modSource_inner _ _ _).trans (rc_inner _ _)

theorem popSource_inner (a : Actuator) (s : State) : Inner s (popSource a s) := rc_inner _ _

theorem deleteSource_inner (l : SegLoc) (s : State) : Inner s (deleteSource l s) := by
  unfold deleteSource
  split
  · exact Inner.refl s
  · exact (releaseHeld_inner _ _).trans (rc_inner _ _)

theorem tidySource_inner (l : SegLoc) (s : State) : Inner s (tidySource l s) := by
  grind [tidySource, Inner.refl, deleteSource_inner]

theorem makeSource_inner {s t : State} (h : makeSource s = some t) : Inner s t := by
  have hr : ∀ (r : Requester) (q : State → Reclaim) (u : State), Inner s u →
      Inner s (requestFrame r { u with rc := q u }).2 :=
    fun r q u hu => (hu.trans (rc_inner _ _)).trans (requestFrame_inner _ _)
  unfold makeSource at h
  dsimp only at h
  split at h
  · cases h
  · split at h
    · cases h
    · rename_i l _
      split at h
      · split at h
        · rename_i hq
          cases h
          have := hr (.source l) (fun u => { u.rc with sources := u.rc.sources ++ [⟨l, 0, none, .waitingFrame, true⟩] }) _
            (resolveMoves_inner .dead (fun m => (decide (m.state = .pending) && decide (m.src.segment = l)) &&
              !s.isCurrent m) s)
          rw [hq] at this
          exact this.trans (grantSource_inner _ _ _)
        · rename_i hq
          cases h
          have := hr (.source l) (fun u => { u.rc with sources := u.rc.sources ++ [⟨l, 0, none, .waitingFrame, true⟩] }) _
            (resolveMoves_inner .dead (fun m => (decide (m.state = .pending) && decide (m.src.segment = l)) &&
              !s.isCurrent m) s)
          rw [hq] at this
          exact this
      · cases h
        exact resolveMoves_inner _ _ _

theorem failSource_inner (l : SegLoc) (s : State) : Inner s (failSource l s) := by
  unfold failSource
  dsimp only
  have h : ∀ b, Inner s (makeLostEach b (deleteSource l s)).2 := fun b =>
    (deleteSource_inner _ _).trans (makeLostEach_inner _ _)
  split
  all_goals
    first
    | refine Inner.trans ?_ (post_inner _ _ _ _ _)
    | skip
    refine Inner.trans ?_ (resolveMoves_inner _ _ _)
    refine Inner.trans ?_ (resolveMoves_inner _ _ _)
    exact h _

theorem retrySource_inner (e : SourceRead) (s : State) : Inner s (retrySource e s) := by
  unfold retrySource
  dsimp only
  repeat' split
  · exact (resolveMoves_inner _ _ _).trans (deleteSource_inner _ _)
  · exact (resolveMoves_inner _ _ _).trans (failSource_inner _ _)
  · exact ((resolveMoves_inner _ _ _).trans (modSource_inner _ _ _)).trans (rc_inner _ _)

theorem readSource_inner (e : SourceRead) (t : Stamp) (s : State) : Inner s (readSource e t s) := by
  unfold readSource
  dsimp only
  split
  · exact (((resolveMoves_inner _ _ _).trans (modJob_inner _ _)).trans (modSource_inner _ _ _)).trans (tidySource_inner _ _)
  · exact retrySource_inner _ _

theorem sourceResult_inner (l : SegLoc) (r : ReadEnd) (s : State) : Inner s (sourceResult l r s) := by
  unfold sourceResult
  repeat' split
  · exact Inner.refl _
  · exact modSource_inner _ _ _
  · exact (popSource_inner _ _).trans (retrySource_inner _ _)
  · exact (popSource_inner _ _).trans (readSource_inner _ _ _)
  · exact (popSource_inner _ _).trans (retrySource_inner _ _)
  · exact ((popSource_inner _ _).trans (releaseHeld_inner _ _)).trans (rc_inner _ _)

/-! ## Handing to lane 7 -/

theorem placeRelocation_inner (id : Nat) (m : Move) (s : State) : Inner s (placeRelocation id m s) := by
  unfold placeRelocation
  dsimp only
  refine Inner.trans ?_ (tidySource_inner _ _)
  split
  · refine Inner.trans ?_ (closeFrame_inner _ _ _)
    refine Inner.trans ?_ (modJob_inner _ _)
    exact modFrame_keeps_inner _ _ _ (fun _ => ⟨rfl, rfl⟩)
  · refine Inner.trans ?_ (modJob_inner _ _)
    exact modFrame_keeps_inner _ _ _ (fun _ => ⟨rfl, rfl⟩)

theorem wakeLaneSeven_inner (a : Actuator) (s : State) : Inner s (wakeLaneSeven a s) := modLane_inner _ _ _

theorem openLaneSeven_inner (s : State) : Inner s (openLaneSeven s).2 := by
  unfold openLaneSeven
  split
  · exact Inner.refl s
  · have h := laneFrame_inner 7 s
    split
    · rename_i hf
      rw [hf] at h
      exact h
    · rename_i hf
      rw [hf] at h
      have k := h.trans (laneLocation_inner 7 _)
      split
      · rename_i hl
        rw [hl] at k
        exact (k.trans (closeOpen_inner _ _)).trans (openFrame_inner _ _ _ _ _)
      · rename_i hl
        rw [hl] at k
        exact (k.trans (dropRequest_inner _ _)).trans (waitLane_inner _ _)

theorem handBlock_inner {s t : State} (h : handBlock s = some t) : Inner s t := by
  unfold handBlock at h
  split at h
  · split at h
    · cases h
    · split at h
      · cases h
        exact (resolveMoves_inner _ _ _).trans (tidySource_inner _ _)
      · dsimp only at h
        split at h
        · cases h
          exact (wakeLaneSeven_inner _ _).trans (placeRelocation_inner _ _ _)
        · cases h
          exact (wakeLaneSeven_inner _ _).trans (closeFrame_inner _ _ _)
        · have k : ∀ a, Inner s (openLaneSeven (wakeLaneSeven a s)).2 := fun a =>
            (wakeLaneSeven_inner a s).trans (openLaneSeven_inner _)
          split at h
          · rename_i ho
            have k' := congrArg (fun x => Inner s x.2) ho
            split at h
            · cases h
              exact (k' ▸ k _ : Inner s _).trans (placeRelocation_inner _ _ _)
            · cases h
          · cases h
  · cases h

theorem askLaneSeven_inner (s : State) : Inner s (askLaneSeven s) := by
  grind [askLaneSeven, Inner.refl, Inner.trans, wakeLaneSeven_inner, openLaneSeven_inner]

/-! ## The end of a pass and the pause -/

theorem endHanding_inner {s t : State} (h : endHanding s = some t) : Inner s t := by
  grind [endHanding, Inner.trans, closeOpen_inner, dropRequest_inner, modJob_inner]

theorem advanceMigrate_inner {s t : State} (h : advanceMigrate s = some t) : Inner s t := by
  grind [advanceMigrate, Inner.trans, modRing_inner, modJob_inner]

theorem nextBandPass_inner (s : State) : Inner s (nextBandPass s) := (modJob_inner _ _).trans (beginPass_inner _)

theorem endCachePass_inner (j : Job) (s : State) : Inner s (endCachePass j s) := by
  grind [endCachePass, Inner.trans, Inner.refl, requestCk_inner, modJob_inner, beginPass_inner, endJob_inner]

theorem endPass_inner {s t : State} (h : endPass s = some t) : Inner s t := by
  grind [endPass, nextBandPass_inner, endCachePass_inner]

theorem endPausedPass_inner {s t : State} (h : endPausedPass s = some t) : Inner s t := by
  grind [endPausedPass, Inner.trans, endCachePass_inner, requestCk_inner, modJob_inner]

theorem pauseForProtect_inner {s t : State} (h : pauseForProtect s = some t) : Inner s t := by
  grind [pauseForProtect, closeOpen_inner, modJob_inner]

theorem resumePass_inner {s t : State} (h : resumePass s = some t) : Inner s t := by
  grind [resumePass, beginPass_inner]

theorem firstStep_inner {l : List (State → Option State)} (hl : ∀ f ∈ l, ∀ s t, f s = some t → Inner s t) {s t : State}
    (h : firstStep l s = some t) : Inner s t := by
  induction l with
  | nil => cases h
  | cons f l ih =>
    unfold firstStep at h
    split at h
    · cases h
      exact hl f (by simp) _ _ ‹_›
    · exact ih (fun g hg => hl g (by simp [hg])) h

theorem pumpStep_inner {s t : State} (h : pumpStep s = some t) : Inner s t := by
  unfold pumpStep at h
  repeat' split at h
  · cases h
  all_goals
    refine firstStep_inner (fun f hf s t hst => ?_) h
    simp only [List.mem_cons, List.not_mem_nil, or_false] at hf
  · obtain rfl | rfl | rfl | rfl := hf
    exacts [advanceMigrate_inner hst, endHanding_inner hst, endPausedPass_inner hst, pauseForProtect_inner hst]
  · obtain rfl | rfl | rfl | rfl := hf
    exacts [advanceMigrate_inner hst, handBlock_inner hst, endHanding_inner hst, pauseForProtect_inner hst]
  · obtain rfl | rfl | rfl | rfl | rfl | rfl := hf
    exacts [advanceMigrate_inner hst, handBlock_inner hst, makeSource_inner hst, endHanding_inner hst, endPass_inner hst,
      resumePass_inner hst]

theorem pumpSteps_inner (fuel : Nat) (s : State) : Inner s (pumpSteps fuel s) := by
  induction fuel generalizing s with
  | zero => exact Inner.refl s
  | succ fuel ih =>
    unfold pumpSteps
    split
    · rename_i h
      exact (pumpStep_inner h).trans (ih _)
    · exact askLaneSeven_inner _

theorem pump_inner (s : State) : Inner s (pump s) := by
  grind [pump, Inner.refl, pumpSteps_inner]

/-! ## Written lane 7 frames and commits -/

theorem takeWritten_inner (id : Nat) (l : SegLoc) (s : State) : Inner s (takeWritten id l s) :=
  ((modJob_inner _ _).trans (modFrame_keeps_inner _ id (fun f => { f with owner := some .reclaim }) (fun _ => ⟨rfl, rfl⟩))).trans
    (rc_inner _ _)

theorem commitSlot_inner {f : Frame} {l : SegLoc} {k : Nat} {s t : State} (h : commitSlot f l k s = some t) :
    Inner s t := by
  unfold commitSlot at h
  split at h
  · split at h
    · cases h
      exact resolveMoves_inner _ _ _
    · split at h
      · cases h
      · cases h
        exact (conditionalMove_inner _ _ _ _).trans (resolveMoves_inner _ _ _)
  · cases h
    exact Inner.refl _

theorem commitSlots_inner (f : Frame) (l : SegLoc) (ks : List Nat) (s : State) : Inner s (commitSlots f l ks s).2 := by
  induction ks generalizing s with
  | nil => exact Inner.refl s
  | cons k ks ih =>
    unfold commitSlots
    split
    · rename_i h
      refine (commitSlot_inner h).trans ?_
      exact Inner.trans (rc_inner _ _) (ih _)
    · exact rc_inner _ _

theorem commitHead_inner (s : State) : Inner s (commitHead s) := by
  unfold commitHead
  split
  · exact Inner.refl s
  · dsimp only
    split
    · exact Inner.refl s
    · have h : ∀ id l, Inner s (commitSlots (s.frame id) l ((List.range (s.frame id).fill).drop s.rc.commitAt) s).2 :=
        fun id l => commitSlots_inner _ _ _ _
      rename_i id rest _ _ l _
      have h := h id l
      split
      · rename_i hc
        rw [hc] at h
        exact (h.trans (rc_inner _ _)).trans (releaseFrame_inner _ _)
      · rename_i hc
        rw [hc] at h
        exact h

theorem pausePort_inner (a : Actuator) (s : State) : Inner s (pausePort a s) := modJob_inner _ _

theorem resumePort_inner (a : Actuator) (s : State) : Inner s (resumePort a s) := modJob_inner _ _

/-! ## What follows a command -/

/-- t came from s by inner work after the gate took the level g. -/
def Gated (g : Bool) (s t : State) : Prop := Inner { s with gate := g } t

theorem Gated.trans {g k : Bool} {s t u : State} (h : Gated g s t) (i : Gated k t u) : Gated k s u := by
  refine Inner.trans (t := { t with gate := k }) ?_ i
  refine ⟨?_, h.sizes, h.limit, h.exceptions, h.caps, h.table, h.sent⟩
  have := h.outside
  simp only [State.outside, Outside.mk.injEq] at this ⊢
  simp_all

theorem assertGate_gated (s : State) : Gated true s (assertGate s) := by
  unfold assertGate Gated
  dsimp only
  refine Inner.trans ?_ (refuseTurns_inner _)
  exact Inner.forAny (fun s n => closeOpen_inner n s) _ _

theorem deassertGate_gated (s : State) : Gated false s (deassertGate s) := modJob_inner _ _

theorem gateEdge_gated (s : State) : Gated (if s.resetN then s.gate else s.gateLevel) s (gateEdge s) := by
  unfold gateEdge
  cases hr : s.resetN <;> cases hl : s.gateLevel <;> cases hg : s.gate <;> simp [Gated] <;>
    first
    | exact assertGate_gated s
    | exact deassertGate_gated s
    | exact Inner.of_eq (by simp [State.outside, hg]) rfl rfl rfl rfl rfl rfl rfl

theorem settleRound_gated (s : State) : Gated (if s.resetN then s.gate else s.gateLevel) s (settleRound s) :=
  Inner.trans (Inner.trans (Inner.trans (Inner.trans (Inner.trans (gateEdge_gated s) (informLanes_inner _)) (pump_inner _))
    (informLanes_inner _)) (pump_inner _)) (refreshWaits_inner _)

/-- What follows a command leaves the outside fields but the gate alone, and its round ends as `Gated` says. -/
theorem settle_gated (s : State) : ∃ g, Gated g s (settle s) := by
  unfold settle
  dsimp only
  have h := settleRound_gated s
  split
  · exact ⟨_, h⟩
  · exact ⟨_, Gated.trans h (settleRound_gated (settleRound s))⟩

end Sys2Proof.Machine
end

