-- ==== Sys2Proof/Laws/Kept.lean ====
section
/-! SUPPORT. What every operation other than the resets keeps: the queue, the clock, the pins, the sizes of the tables,
and the soundness of the exception list, of the class caps, of the ports and of the pull window. `Kept s t` says so, and
there is one theorem for each operation that is more than inner work, up to the commands' own effects. -/

namespace Sys2Proof.Machine

/-! ## The relation -/

theorem sizes_ok {s t : State} (h : t.sizes = s.sizes) (hs : SizesOk s) : SizesOk t := by
  simp only [State.sizes, Prod.mk.injEq] at h
  exact ⟨h.1.trans hs.1, h.2.1.trans hs.2.1, h.2.2.trans hs.2.2⟩

/-- t came from s by an operation of the part that is no reset. -/
structure Kept (s t : State) : Prop where
  pending : t.pending = s.pending
  now : t.now = s.now
  straps : t.straps = s.straps
  wprot : t.wprot = s.wprot
  resetN : t.resetN = s.resetN
  sizes : SizesOk s → SizesOk t
  exceptions : ExceptionsOk s.exceptions → ExceptionsOk t.exceptions
  caps : PoolOk s.pool → PoolOk t.pool
  ports : PortsOk s → PortsOk t
  pulls : PullsOk s → PullsOk t
  sent : s.frontOut <+: t.frontOut
  table : s.recov = Recovery.off → t.recov = Recovery.off ∧ (TableOk s.extents → TableOk t.extents)

theorem Kept.refl (s : State) : Kept s s :=
  ⟨rfl, rfl, rfl, rfl, rfl, id, id, id, id, id, List.prefix_rfl, fun h => ⟨h, id⟩⟩

theorem Kept.trans {s t u : State} (h : Kept s t) (k : Kept t u) : Kept s u :=
  ⟨k.pending.trans h.pending, k.now.trans h.now, k.straps.trans h.straps, k.wprot.trans h.wprot, k.resetN.trans h.resetN,
   fun x => k.sizes (h.sizes x), fun x => k.exceptions (h.exceptions x), fun x => k.caps (h.caps x), fun x => k.ports (h.ports x),
   fun x => k.pulls (h.pulls x), h.sent.trans k.sent,
   fun x => ⟨(k.table (h.table x).1).1, fun y => (k.table (h.table x).1).2 ((h.table x).2 y)⟩⟩

theorem Inner.kept {s t : State} (h : Inner s t) : Kept s t := by
  have ho := h.outside
  simp only [State.outside, Outside.mk.injEq] at ho
  obtain ⟨h1, h2, h3, h4, h5, -, -, -, -, -, -, he, -, hp, hq, hr, -⟩ := ho
  refine ⟨h1, h2, h3, h4, h5, sizes_ok h.sizes, h.exceptions, h.caps, ?_, ?_, h.sent, fun x => ⟨hr.trans x, h.table⟩⟩
  · intro x; unfold PortsOk at *; rw [hq]; exact x
  · intro x; unfold PullsOk at *; rw [hp, he]; exact x

theorem Kept.foldl {α : Type} {f : State → α → State} (h : ∀ s x, Kept s (f s x)) (l : List α) (s : State) :
    Kept s (l.foldl f s) := by
  induction l generalizing s with
  | nil => exact Kept.refl s
  | cons x l ih => exact (h s x).trans (ih _)

theorem Kept.forAny {α : Type} {f : State → α → State} (h : ∀ s x, Kept s (f s x)) (l : List α) (s : State) :
    Kept s (s.forAny l f) :=
  (Inner.anyOrder s l).kept.trans (Kept.foldl h _ _)

/-- A state that agrees with s but for fields the relation does not speak of. -/
theorem Kept.of_eq {s t : State} (h : (t.pending, t.now, t.straps, t.wprot, t.resetN) = (s.pending, s.now, s.straps, s.wprot, s.resetN))
    (hz : t.sizes = s.sizes) (he : t.exceptions = s.exceptions) (hp : t.pool = s.pool)
    (hq : t.ports = s.ports) (hm : t.earmarks = s.earmarks) (hd : t.phase = s.phase) (hs : t.frontOut = s.frontOut)
    (hr : s.recov = Recovery.off → t.recov = Recovery.off ∧ (TableOk s.extents → TableOk t.extents)) : Kept s t := by
  simp only [Prod.mk.injEq] at h
  refine ⟨h.1, h.2.1, h.2.2.1, h.2.2.2.1, h.2.2.2.2, sizes_ok hz, by rw [he]; exact id, ?_, ?_, ?_, by rw [hs], hr⟩
  · rw [hp]; exact id
  · intro x; unfold PortsOk at *; rw [hq]; exact x
  · intro x; unfold PullsOk at *; rw [hd, hm]; exact x

theorem settle_kept (s : State) : Kept s (settle s) := by
  obtain ⟨g, h⟩ := settle_gated s
  refine Kept.trans (t := { s with gate := g }) ?_ (Inner.kept h)
  exact Kept.of_eq rfl rfl rfl rfl rfl rfl rfl rfl (fun h => ⟨h, id⟩)

/-! ## The checkpoint writer -/

theorem modCk_kept (s : State) (f : Ckpt → Ckpt) : Kept s (s.modCk f) :=
  Kept.of_eq rfl rfl rfl rfl rfl rfl rfl rfl (fun h => ⟨h, id⟩)

theorem modRun_kept (s : State) (f : CkRun → CkRun) : Kept s (s.modRun f) := modCk_kept _ _

theorem maint_kept (s : State) (m : Maint) : Kept s { s with maint := m } :=
  Kept.of_eq rfl rfl rfl rfl rfl rfl rfl rfl (fun h => ⟨h, id⟩)

theorem service_kept (s : State) (x : Service) : Kept s { s with service := x } :=
  Kept.of_eq rfl rfl rfl rfl rfl rfl rfl rfl (fun h => ⟨h, id⟩)

theorem serviceRc_kept (s : State) (x : Service) (r : Reclaim) : Kept s { s with service := x, rc := r } :=
  Kept.of_eq rfl rfl rfl rfl rfl rfl rfl rfl (fun h => ⟨h, id⟩)

theorem cleared_kept (s : State) (x : Option Nat) : Kept s { s with cleared := x } :=
  Kept.of_eq rfl rfl rfl rfl rfl rfl rfl rfl (fun h => ⟨h, id⟩)

theorem modPort_kept (s : State) (a : Actuator) (f : Port → Port) (h : ∀ p, PortOk p → PortOk (f p)) :
    Kept s (s.modPort a f) := by
  refine ⟨rfl, rfl, rfl, rfl, rfl, id, id, id, ?_, id, List.prefix_rfl, fun h => ⟨h, id⟩⟩
  intro x
  cases a
  · exact ⟨h _ x.1, x.2⟩
  · exact ⟨x.1, h _ x.2⟩

theorem bindRing_kept (k : RingKind) (g : SegKind) (id : Nat) (p : List Block) (n : Nat) (s : State) :
    Kept s (bindRing k g id p n s) := by
  unfold bindRing
  dsimp only
  refine Kept.trans ?_ (modCk_kept _ _)
  refine (assignSeq_inner s).kept.trans (Inner.kept ?_)
  exact modFrame_keeps_inner _ _ _ (fun _ => ⟨rfl, rfl⟩)

theorem testRingHalf_kept (s : State) : Kept s (testRingHalf s) := by
  grind [testRingHalf, Kept.refl, requestCk_inner, Inner.kept]

theorem bindNotice_kept (s : State) : Kept s (bindNotice s) := by
  unfold bindNotice
  repeat' split
  any_goals exact Kept.refl _
  dsimp only
  refine Kept.trans ?_ (testRingHalf_kept _)
  refine Kept.trans ?_ (modRun_kept _ _)
  refine Kept.trans ?_ (modCk_kept _ _)
  exact bindRing_kept _ _ _ _ _ _

theorem grantNotice_kept (id : Nat) (s : State) : Kept s (grantNotice id s) :=
  (modCk_kept _ _).trans (bindNotice_kept _)

theorem takeBatch_kept (s : State) : Kept s (takeBatch s) := by
  unfold takeBatch
  split
  · dsimp only
    have h := (modCk_kept s (fun c => { c with notice := some ⟨c.batch, none, false, 0⟩, batch := [] })).trans
      (requestFrame_inner .notice _).kept
    split
    · rename_i hr
      rw [hr] at h
      exact h.trans (grantNotice_kept _ _)
    · rename_i hr
      rw [hr] at h
      exact h
  · exact Kept.refl s

theorem endNotice_kept (ok : Bool) (s : State) : Kept s (endNotice ok s) := by
  unfold endNotice
  split
  · exact Kept.refl s
  · dsimp only
    refine Kept.trans ?_ (takeBatch_kept _)
    refine Kept.trans ?_ (Inner.forAny (completeRelease_inner ok) _ _).kept
    refine Kept.trans ?_ (modCk_kept _ _)
    exact (releaseHeld_inner _ _).kept

theorem unqueueRing_kept (id : Nat) (s : State) : Kept s (unqueueRing id s) := modCk_kept _ _

theorem failNotice_kept (id ctr : Nat) (s : State) : Kept s (failNotice id ctr s) := by
  unfold failNotice
  dsimp only
  have h : ∀ t, Kept s t → Kept s (requestCk (endNotice false t)) := fun t ht =>
    (ht.trans (endNotice_kept _ _)).trans (requestCk_inner _).kept
  have h0 := ((unqueueRing_kept id s).trans (post_inner .checkpointFailed .A (ctr % s.cks) 0 _).kept).trans
    (modCk_kept _ (fun c => { c with notice := c.notice.map (fun n => { n with bound := false, attempts := n.attempts + 1 }) }))
  repeat' split
  · exact h0
  · exact h _ h0
  · exact h0.trans (bindNotice_kept _)

theorem restartCk_kept (s : State) : Kept s (restartCk s) := by
  grind [restartCk, modCk_kept, requestCk_inner, Inner.kept]

theorem abandonCheckpoint_kept (s : State) : Kept s (abandonCheckpoint s) := by
  unfold abandonCheckpoint
  split
  · exact Kept.refl s
  · dsimp only
    refine Kept.trans ?_ (bindNotice_kept _)
    have step1 : ∀ (t : State), Kept s t → Kept s
        (match t.ck.formatTries with
        | some n =>
          if Config.maxWriteAttempts ≤ n + 1 then
            { t.modCk (fun c => { c with wanted := false, formatTries := none }) with service := .halted }
          else restartCk (t.modCk (fun c => { c with formatTries := some (n + 1) }))
        | none => restartCk t) := by
      intro t ht
      refine ht.trans ?_
      repeat' split
      · exact (modCk_kept _ _).trans (service_kept _ _)
      · exact (modCk_kept _ _).trans (restartCk_kept _)
      · exact restartCk_kept _
    apply step1
    have step2 : ∀ (b : Bool) (t : State), Kept s t →
        Kept s (if b then { t with maint := { t.maint with awaitStart := true } } else t) := by
      intro b t ht
      split
      · exact ht.trans (maint_kept _ _)
      · exact ht
    apply step2
    refine Kept.trans ?_ (modCk_kept _ _)
    refine Kept.trans ?_ (withdraw_inner _ _).kept
    refine Kept.trans ?_ (withdraw_inner _ _).kept
    refine Kept.trans ?_ (releaseHeld_inner _ _).kept
    have h := (Inner.foldl (fun s id => releaseFrame_inner id s)
      (((s.ck.queue.filter (fun q => q.kind ≠ .notice)).map (fun q => q.frame)).filter (fun id => !s.writing .A id)) s).kept
    split
    · exact h
    · exact h.trans (releaseHeld_inner _ _).kept

theorem endAbandoned_kept (id seg : Nat) (failed : Bool) (s : State) : Kept s (endAbandoned id seg failed s) := by
  unfold endAbandoned
  refine Kept.trans ?_ (releaseFrame_inner _ _).kept
  split
  · exact (post_inner _ _ _ _ _).kept
  · exact Kept.refl s

theorem failCheckpoint_kept (ctr : Nat) (s : State) : Kept s (failCheckpoint ctr s) :=
  (post_inner _ _ _ _ _).kept.trans (abandonCheckpoint_kept _)

theorem bindClose_kept (s : State) : Kept s (bindClose s) := by
  unfold bindClose
  repeat' split
  any_goals exact Kept.refl _
  exact (bindRing_kept _ _ _ _ _ _).trans (modRun_kept _ _)

theorem grantClose_kept (id : Nat) (s : State) : Kept s (grantClose id s) := (modRun_kept _ _).trans (bindClose_kept _)

theorem askNext_kept (s : State) : Kept s (askNext s).2 := by
  unfold askNext
  split
  · exact Kept.refl s
  · split
    · exact (modRun_kept _ _).trans (requestFrame_inner _ _).kept
    · have h := (modRun_kept s (fun r => { r with ask := .close })).trans (requestFrame_inner .close _).kept
      split
      · rename_i hr
        rw [hr] at h
        exact h.trans (grantClose_kept _ _)
      · rename_i hr
        rw [hr] at h
        exact h

theorem captureBands_kept (a : Actuator) (b id : Nat) (r : CkRun) (s : State) : Kept s (captureBands a b id r s) :=
  (bindRing_kept _ _ _ _ _ _).trans (modRun_kept _ _)

theorem captureExtents_kept (l : List Extent) (id : Nat) (s : State) : Kept s (captureExtents l id s) :=
  (bindRing_kept _ _ _ _ _ _).trans (modRun_kept _ _)

theorem testOverflow_kept (s : State) : Kept s (testOverflow s) := by
  unfold testOverflow
  dsimp only
  repeat' split
  any_goals exact Kept.refl _
  exact (post_inner _ _ _ _ _).kept.trans (abandonCheckpoint_kept _)

theorem capturePages_kept (fuel id : Nat) (s : State) : Kept s (capturePages fuel id s) := by
  induction fuel generalizing id s with
  | zero => exact Kept.refl s
  | succ fuel ih =>
    have after : ∀ t, Kept s t → Kept s (match askNext t with
        | (some id, s) => capturePages fuel id s
        | (none, s) => s) := by
      intro t ht
      have h := ht.trans (askNext_kept t)
      split
      · rename_i ha
        rw [ha] at h
        exact h.trans (ih _ _)
      · rename_i ha
        rw [ha] at h
        exact h
    unfold capturePages
    split
    · exact Kept.refl s
    · dsimp only
      split
      · exact modRun_kept _ _
      · split
        · exact after _ (captureBands_kept _ _ _ _ _)
        · split
          · exact grantClose_kept _ _
          · exact after _ ((captureExtents_kept _ _ _).trans (testOverflow_kept _))

theorem grantPage_kept (id : Nat) (s : State) : Kept s (grantPage id s) := capturePages_kept _ _ _

theorem startCheckpoint_kept (s : State) : Kept s (startCheckpoint s) := by
  unfold startCheckpoint
  split
  · dsimp only
    generalize hr : (CkRun.mk _ _ _ _ _ _ _ _ _ _ _ _ _ _ _ _) = run
    have h := ((modCk_kept s (fun c =>
      { c with run := some run, wanted := c.restart && c.wanted, restart := false, dStart := 0 })).trans
      (maint_kept _ { s.maint with awaitStart := false })).trans (requestFrame_inner .page _).kept
    split
    · rename_i hq
      have h' := (congrArg (fun x : Option Nat × State => Kept s x.2) hq).mp h
      exact h'.trans (grantPage_kept _ _)
    · rename_i hq
      exact (congrArg (fun x : Option Nat × State => Kept s x.2) hq).mp h
  · exact Kept.refl s

theorem releaseRing_kept (a : Actuator) (n : Nat) (s : State) : Kept s (releaseRing a n s) :=
  ((modRing_inner _ _ _).trans (advanceFree_inner _ _)).kept

theorem settlePendingBlank_kept (r : CkRun) (s : State) : Kept s (settlePendingBlank r s) := by
  unfold settlePendingBlank
  dsimp only
  split
  · exact (modCk_kept _ _).trans (requestCk_inner _).kept
  · exact modCk_kept _ _

theorem enterReady_kept (s : State) : Kept s (enterReady s) :=
  (((serviceRc_kept _ _ _).trans (evalMapPressure_inner _).kept).trans (evalBandPressure_inner _ _).kept).trans
    (evalBandPressure_inner _ _).kept

theorem answerCheckpoint_kept (r : CkRun) (s : State) : Kept s (answerCheckpoint r s) := by
  unfold answerCheckpoint
  split
  · exact maint_kept _ _
  · exact Kept.refl s

theorem completeCheckpoint_kept (s : State) : Kept s (completeCheckpoint s) := by
  unfold completeCheckpoint
  split
  · exact Kept.refl s
  · dsimp only
    refine Kept.trans ?_ (testRingHalf_kept _)
    refine Kept.trans ?_ (bindNotice_kept _)
    have last : ∀ t, Kept s t → Kept s (if t.service = .formatting then
        enterReady (t.modCk (fun c => { c with formatTries := none })) else t) := by
      intro t ht
      split
      · exact (ht.trans (modCk_kept _ _)).trans (enterReady_kept _)
      · exact ht
    apply last
    refine Kept.trans ?_ (answerCheckpoint_kept _ _)
    refine Kept.trans ?_ (modCk_kept _ _)
    refine Kept.trans ?_ (releaseHeld_inner _ _).kept
    refine Kept.trans ?_ (settlePendingBlank_kept _ _)
    refine Kept.trans ?_ (releaseRing_kept _ _ _)
    refine Kept.trans ?_ (releaseRing_kept _ _ _)
    refine Kept.trans ?_ (Inner.forAny (fun s (x : Actuator × Nat) => testEvacuated_inner x.1 x.2 s) _ _).kept
    exact (modCk_kept _ _).trans (cleared_kept _ _)

theorem ringWritten_kept (q : RingSeg) (s : State) : Kept s (ringWritten q s) := by
  unfold ringWritten
  dsimp only
  refine (unqueueRing_kept q.frame s).trans ?_
  split
  · exact endNotice_kept _ _
  · exact ((releaseFrame_inner _ _).kept.trans (modRun_kept _ _)).trans (bindClose_kept _)
  · exact completeCheckpoint_kept _

theorem ringFailed_kept (q : RingSeg) (s : State) : Kept s (ringFailed q s) := by
  unfold ringFailed
  split
  · exact failNotice_kept _ _ _
  · exact failCheckpoint_kept _ _
  · exact failCheckpoint_kept _ _

/-! ## The admission gate and the data phase -/

theorem modPhase_kept (s : State) (f : DataPhase → DataPhase)
    (h : ∀ p, (f p).unanswered = p.unanswered ∧ (f p).next = p.next ∧ (f p).accepted = p.accepted ∧ (f p).count = p.count) :
    Kept s (s.modPhase f) := by
  refine ⟨rfl, rfl, rfl, rfl, rfl, id, id, id, id, ?_, List.prefix_rfl, fun h => ⟨h, id⟩⟩
  unfold PullsOk
  cases hp : s.phase with
  | none => simp [hp]
  | some p =>
    obtain ⟨h1, h2, h3, h4⟩ := h p
    simp [hp, h1, h2, h3, h4]

theorem redirect_kept (m : Nat) (s : State) : Kept s (redirect m s) := by
  unfold redirect
  split
  · exact Kept.refl s
  · rename_i p _
    refine Kept.trans ?_ (enterLane_inner _ _).kept
    refine Kept.trans (leavePhase_inner p.lane s).kept ?_
    exact modPhase_kept _ _ (fun _ => ⟨rfl, rfl, rfl, rfl⟩)

theorem settleLane_kept (lba : Nat) (s : State) : Kept s (settleLane lba s) := by
  unfold settleLane
  split
  · exact Kept.refl s
  · dsimp only
    have h : ∀ t, Kept s t → Kept s (match t.phase with
        | none => t
        | some p => closeAtNinthRun p.lane lba t) := by
      intro t ht
      split
      · exact ht
      · exact ht.trans (closeAtNinthRun_inner _ _ _).kept
    apply h
    split
    · exact redirect_kept _ _
    · exact Kept.refl s

theorem findSlot_kept (n : Nat) (s : State) : Kept s (findSlot n s).2 := by
  have h := (laneSlot_inner n s).kept
  unfold findSlot
  split
  · rename_i t hl
    rw [hl] at h
    split
    · exact h
    · split
      · have k := h.trans (takeStream_inner t).kept
        split
        · rename_i m u hs
          rw [hs] at k
          have j := (k.trans (redirect_kept m u)).trans (laneSlot_inner m _).kept
          split
          · rename_i hj
            rw [hj] at j
            exact j.trans (waitLane_inner _ _).kept
          · exact j
        · rename_i u hs
          rw [hs] at k
          exact k.trans (waitLane_inner _ _).kept
      · exact h.trans (waitLane_inner _ _).kept
  · exact h

theorem holdBlock_kept (c : HoldCause) (s : State) : Kept s (holdBlock c s) :=
  modPhase_kept _ _ (fun _ => ⟨rfl, rfl, rfl, rfl⟩)

/-! ## The end of a data phase -/

/-- What holds of every operation but the pulls, said for those that end the data phase. -/
structure KeptButPulls (s t : State) : Prop where
  pending : t.pending = s.pending
  now : t.now = s.now
  straps : t.straps = s.straps
  wprot : t.wprot = s.wprot
  resetN : t.resetN = s.resetN
  sizes : SizesOk s → SizesOk t
  exceptions : ExceptionsOk s.exceptions → ExceptionsOk t.exceptions
  caps : PoolOk s.pool → PoolOk t.pool
  ports : PortsOk s → PortsOk t
  sent : s.frontOut <+: t.frontOut
  table : s.recov = Recovery.off → t.recov = Recovery.off ∧ (TableOk s.extents → TableOk t.extents)

theorem Kept.butPulls {s t : State} (h : Kept s t) : KeptButPulls s t :=
  ⟨h.pending, h.now, h.straps, h.wprot, h.resetN, h.sizes, h.exceptions, h.caps, h.ports, h.sent, h.table⟩

theorem KeptButPulls.trans {s t u : State} (h : KeptButPulls s t) (k : KeptButPulls t u) : KeptButPulls s u :=
  ⟨k.pending.trans h.pending, k.now.trans h.now, k.straps.trans h.straps, k.wprot.trans h.wprot, k.resetN.trans h.resetN,
   fun x => k.sizes (h.sizes x), fun x => k.exceptions (h.exceptions x), fun x => k.caps (h.caps x), fun x => k.ports (h.ports x),
   h.sent.trans k.sent,
   fun x => ⟨(k.table (h.table x).1).1, fun y => (k.table (h.table x).1).2 ((h.table x).2 y)⟩⟩

theorem KeptButPulls.kept {s t : State} (h : KeptButPulls s t) (k : PullsOk s → PullsOk t) : Kept s t :=
  ⟨h.pending, h.now, h.straps, h.wprot, h.resetN, h.sizes, h.exceptions, h.caps, h.ports, k, h.sent, h.table⟩

theorem phase_butPulls (s : State) (p : Option DataPhase) (n : Nat) : KeptButPulls s { s with phase := p, earmarks := n } :=
  ⟨rfl, rfl, rfl, rfl, rfl, id, id, id, id, List.prefix_rfl, fun h => ⟨h, id⟩⟩

theorem modPhase_butPulls (s : State) (f : DataPhase → DataPhase) : KeptButPulls s (s.modPhase f) :=
  phase_butPulls s (s.phase.map f) s.earmarks

/-- The end of the data phase does nothing to the earmarks; it is taken only when no pull is unanswered. -/
theorem endPhase_kept (s : State) (h : ∀ p, s.phase = some p → p.unanswered = [] ∨ p.accepted = p.count) :
    Kept s (endPhase s) := by
  unfold endPhase
  split
  · exact Kept.refl s
  · rename_i p hp
    dsimp only
    have h0 : Kept s { s with phase := none } := by
      refine (phase_butPulls s none s.earmarks).kept ?_
      intro hs
      unfold PullsOk at *
      simp only [hp] at hs
      simp only
      rcases h p hp with h | h
      · simp [hs.1, h]
      · omega
    refine h0.trans (Inner.kept ?_)
    refine Inner.trans ?_ (refuseTurns_inner _)
    refine Inner.trans ?_ (checkComplete_inner _ _)
    refine Inner.trans ?_ (popIntake_inner _)
    refine Inner.trans ?_ (modTag_inner _ _ _)
    exact (leavePhase_inner _ _).trans (lateGiveUps_inner _)

theorem testPhaseEnd_kept (s : State) : Kept s (testPhaseEnd s) := by
  unfold testPhaseEnd
  split
  · rename_i p hp
    split
    · rename_i ho
      refine endPhase_kept s (fun q hq => ?_)
      rw [hp] at hq
      cases hq
      simp [DataPhase.over] at ho
      tauto
    · exact Kept.refl s
  · exact Kept.refl s

/-- A pull sent: one more block pulled, unanswered and earmarked (R93). -/
theorem sendPull_kept (s : State) (p : DataPhase) (id : Nat) (hp : s.phase = some p) (hb : p.hasBlock = true) :
    Kept s (sendPull p id s) := by
  unfold sendPull
  dsimp only
  refine Kept.trans ?_ (evalMapPressure_inner _).kept
  refine KeptButPulls.kept ?_ ?_
  · refine KeptButPulls.trans ?_ (phase_butPulls _ _ _)
    refine KeptButPulls.trans ?_ (modPhase_butPulls _ _)
    refine (Inner.kept ?_).butPulls
    refine Inner.trans ?_ (modLane_inner _ _ _)
    refine Inner.trans (send_inner (.dataPull p.tag) s) ?_
    exact modFrame_keeps_inner _ _ _ (fun _ => ⟨rfl, rfl⟩)
  · intro hs
    simp only [DataPhase.hasBlock, Bool.and_eq_true, decide_eq_true_eq] at hb
    unfold PullsOk at *
    simp only [hp] at hs
    obtain ⟨h1, h2, h3, h4⟩ := hs
    obtain ⟨⟨-, h5⟩, h6⟩ := hb
    simp only [State.modPhase, State.modLane, State.modFrame, State.send, hp, Option.map_some, List.length_append,
      List.length_singleton]
    refine ⟨?_, ?_, ?_, ?_⟩ <;> omega

theorem passBlock_kept (s : State) (h : ∀ p, s.phase = some p → p.hasBlock = true) : Kept s (passBlock s) := by
  unfold passBlock
  split
  · exact Kept.refl s
  · rename_i p hp
    repeat' split
    · exact Kept.refl s
    · exact holdBlock_kept _ _
    · exact holdBlock_kept _ _
    · exact sendPull_kept s p _ hp (h p hp)

end Sys2Proof.Machine
end

