-- ==== Sys2Proof/Laws/Commands.lean ====
section
/-! SUPPORT. Every command that is no reset keeps what `Kept` says, and the resets what they can: one theorem for each
command, and the two for all of them together. -/

namespace Sys2Proof.Machine

/-! ## The gate's test of a block -/

/-- The gate has a block to test, if it has a data phase. -/
def HasBlock (s : State) : Prop := ∀ p, s.phase = some p → p.hasBlock = true

theorem Inner.phase {s t : State} (h : Inner s t) : t.phase = s.phase := by
  have ho := h.outside
  simp only [State.outside, Outside.mk.injEq] at ho
  exact ho.2.2.2.2.2.2.2.2.2.2.2.2.2.1

theorem Inner.hasBlock {s t : State} (h : Inner s t) (hs : HasBlock s) : HasBlock t := by
  unfold HasBlock
  rw [h.phase]
  exact hs

theorem redirect_hasBlock (m : Nat) (s : State) (h : HasBlock s) : HasBlock (redirect m s) := by
  unfold redirect
  split
  · exact h
  · rename_i p hp
    refine Inner.hasBlock (enterLane_inner _ _) ?_
    intro q hq
    have hl : (leavePhase p.lane s).phase = some p := (leavePhase_inner p.lane s).phase.trans hp
    simp only [State.modPhase, hl, Option.map_some, Option.some.injEq] at hq
    subst hq
    exact h p hp

theorem settleLane_hasBlock (lba : Nat) (s : State) (h : HasBlock s) : HasBlock (settleLane lba s) := by
  unfold settleLane
  split
  · exact h
  · dsimp only
    have k : ∀ t, HasBlock t → HasBlock (match t.phase with
        | none => t
        | some p => closeAtNinthRun p.lane lba t) := by
      intro t ht
      split
      · exact ht
      · exact (closeAtNinthRun_inner _ _ _).hasBlock ht
    apply k
    split
    · exact redirect_hasBlock _ _ h
    · exact h

theorem findSlot_hasBlock (n : Nat) (s : State) (h : HasBlock s) : HasBlock (findSlot n s).2 := by
  have h1 := (laneSlot_inner n s).hasBlock h
  unfold findSlot
  split
  · rename_i t hl
    rw [hl] at h1
    split
    · exact h1
    · split
      · have k := (takeStream_inner t).hasBlock h1
        split
        · rename_i m u hs
          rw [hs] at k
          have j := (laneSlot_inner m _).hasBlock (redirect_hasBlock m u k)
          split
          · rename_i hj
            rw [hj] at j
            exact (waitLane_inner _ _).hasBlock j
          · exact j
        · rename_i u hs
          rw [hs] at k
          exact (waitLane_inner _ _).hasBlock k
      · exact (waitLane_inner _ _).hasBlock h1
  · exact h1

theorem testGate_kept (s : State) : Kept s (testGate s) := by
  unfold testGate
  split
  · exact Kept.refl s
  · rename_i p hp
    split
    · rename_i hb
      have h0 : HasBlock s := by
        intro q hq
        rw [hp] at hq
        cases hq
        exact hb
      have h1 := settleLane_kept (p.lba + p.next) s
      have b1 := settleLane_hasBlock (p.lba + p.next) s h0
      dsimp only
      split
      · exact h1
      · rename_i q hq
        have h2 := h1.trans (findSlot_kept q.lane _)
        have b2 := findSlot_hasBlock q.lane _ b1
        split
        · rename_i hf
          rw [hf] at h2
          exact h2.trans (holdBlock_kept _ _)
        · rename_i hf
          rw [hf] at h2 b2
          exact h2.trans (passBlock_kept _ b2)
    · exact Kept.refl s

/-- An acceptance answers the oldest unanswered pull and returns its earmark (R74, R21). -/
theorem acceptBlock_kept (s : State) (p : DataPhase) (u : Pull) (l : List Pull) (d : Block) (hp : s.phase = some p)
    (hu : p.unanswered = u :: l) : Kept s (acceptBlock p u d s) := by
  have h1 : ∀ (f : Frame → Frame), (∀ x, (f x).state = x.state ∧ (f x).cls = x.cls) →
      Kept s (({ s.modFrame u.frame f with earmarks := s.earmarks - 1 }).modPhase (fun p =>
        { p with accepted := p.accepted + 1, unanswered := p.unanswered.tail })) := by
    intro f hf
    refine KeptButPulls.kept ?_ ?_
    · refine KeptButPulls.trans ?_ (modPhase_butPulls _ _)
      refine KeptButPulls.trans (t := s.modFrame u.frame f) ?_ (phase_butPulls _ _ _)
      exact (modFrame_keeps_inner s u.frame f hf).kept.butPulls
    · intro hs
      unfold PullsOk at *
      simp only [hp, hu, List.length_cons] at hs
      obtain ⟨h1, h2, h3, h4⟩ := hs
      simp only [State.modPhase, State.modFrame, hp, Option.map_some, hu, List.tail_cons]
      refine ⟨?_, ?_, ?_, ?_⟩ <;> omega
  unfold acceptBlock
  dsimp only
  split
  · exact h1 _ (fun _ => ⟨rfl, rfl⟩)
  · refine Kept.trans ?_ (closeAtAcceptance_inner _ _).kept
    refine Kept.trans ?_ (acceptLane_inner _ _ _).kept
    split
    · refine Kept.trans ?_ (chargeCredit_inner _ _).kept
      refine Kept.trans ?_ (place_inner _ _ _).kept
      exact h1 _ (fun _ => ⟨rfl, rfl⟩)
    · refine Kept.trans ?_ (place_inner _ _ _).kept
      exact h1 _ (fun _ => ⟨rfl, rfl⟩)

theorem dropPhase_kept (s : State) : Kept s (dropPhase s) := by
  unfold dropPhase
  split
  · exact Kept.refl s
  · rename_i p hp
    dsimp only
    have h0 : Kept s { s with phase := none, earmarks := s.earmarks - p.unanswered.length } := by
      refine (phase_butPulls s none _).kept ?_
      intro hs
      unfold PullsOk at *
      simp only [hp] at hs
      simp only
      omega
    refine h0.trans (Inner.kept ?_)
    refine Inner.trans ?_ (evalMapPressure_inner _)
    refine Inner.trans ?_ (lateGiveUps_inner _)
    refine Inner.trans ?_ (leavePhase_inner _ _)
    exact Inner.foldl abandonPromise_inner _ _

theorem expireHold_kept (s : State) : Kept s (expireHold s) := by
  unfold expireHold
  split
  · exact Kept.refl s
  · dsimp only
    refine Kept.trans ?_ (testPhaseEnd_kept _)
    refine Kept.trans ?_ (modLane_inner _ _ _).kept
    refine Kept.trans ?_ (dropRequest_inner _ _).kept
    refine Kept.trans ?_ (modPhase_kept _ _ (fun _ => ⟨rfl, rfl, rfl, rfl⟩))
    exact (post_inner _ _ _ _ _).kept

theorem startPhase_kept (t : Nat) (e : TagEntry) (s : State) (hp : s.phase = none) : Kept s (startPhase t e s) := by
  have h := (classify_inner e.lba e.count s)
  have hn : (classify e.lba e.count s).2.phase = none := h.phase.trans hp
  unfold startPhase
  generalize classify e.lba e.count s = c at *
  obtain ⟨n, u⟩ := c
  dsimp only at *
  refine Kept.trans ?_ (modTag_inner _ _ _).kept
  refine (h.trans (enterLane_inner n u)).kept.trans ?_
  have he : (enterLane n u).phase = none := (enterLane_inner n u).phase.trans hn
  refine (phase_butPulls _ _ (enterLane n u).earmarks).kept ?_
  intro hs
  unfold PullsOk at *
  simp only [he] at hs
  simp [hs]

/-! ## Recovery -/

/-- What `Kept` says, but for the extent table and the scanner. -/
structure Scanned (s t : State) : Prop where
  pending : t.pending = s.pending
  now : t.now = s.now
  straps : t.straps = s.straps
  wprot : t.wprot = s.wprot
  resetN : t.resetN = s.resetN
  sizes : SizesOk s → SizesOk t
  exceptions : ExceptionsOk s.exceptions → ExceptionsOk t.exceptions
  caps : PoolOk s.pool → PoolOk t.pool
  ports : PortsOk s → PortsOk t
  pulls : PullsOk s → PullsOk t
  sent : s.frontOut <+: t.frontOut

theorem Kept.scanned {s t : State} (h : Kept s t) : Scanned s t :=
  ⟨h.pending, h.now, h.straps, h.wprot, h.resetN, h.sizes, h.exceptions, h.caps, h.ports, h.pulls, h.sent⟩

theorem Inner.scanned {s t : State} (h : Inner s t) : Scanned s t := h.kept.scanned

theorem Scanned.refl (s : State) : Scanned s s := (Kept.refl s).scanned

theorem Scanned.trans {s t u : State} (h : Scanned s t) (k : Scanned t u) : Scanned s u :=
  ⟨k.pending.trans h.pending, k.now.trans h.now, k.straps.trans h.straps, k.wprot.trans h.wprot, k.resetN.trans h.resetN,
   fun x => k.sizes (h.sizes x), fun x => k.exceptions (h.exceptions x), fun x => k.caps (h.caps x), fun x => k.ports (h.ports x),
   fun x => k.pulls (h.pulls x), h.sent.trans k.sent⟩

theorem Scanned.kept {s t : State} (h : Scanned s t) (k : s.recov ≠ Recovery.off) : Kept s t :=
  ⟨h.pending, h.now, h.straps, h.wprot, h.resetN, h.sizes, h.exceptions, h.caps, h.ports, h.pulls, h.sent,
   fun x => absurd x k⟩

theorem Scanned.foldl {α : Type} {f : State → α → State} (h : ∀ s x, Scanned s (f s x)) (l : List α) (s : State) :
    Scanned s (l.foldl f s) := by
  induction l generalizing s with
  | nil => exact Scanned.refl s
  | cons x l ih => exact (h s x).trans (ih _)

/-- A state that agrees with s but for fields the relation does not speak of. -/
theorem Scanned.of_eq {s t : State}
    (h : (t.pending, t.now, t.straps, t.wprot, t.resetN) = (s.pending, s.now, s.straps, s.wprot, s.resetN))
    (hz : t.sizes = s.sizes) (he : t.exceptions = s.exceptions) (hp : t.pool = s.pool)
    (hq : t.ports = s.ports) (hm : t.earmarks = s.earmarks) (hd : t.phase = s.phase) (hs : t.frontOut = s.frontOut) :
    Scanned s t := by
  simp only [Prod.mk.injEq] at h
  refine ⟨h.1, h.2.1, h.2.2.1, h.2.2.2.1, h.2.2.2.2, sizes_ok hz, by rw [he]; exact id, ?_, ?_, ?_, by rw [hs]⟩
  · rw [hp]; exact id
  · intro x; unfold PortsOk at *; rw [hq]; exact x
  · intro x; unfold PullsOk at *; rw [hd, hm]; exact x

theorem modRec_scanned (s : State) (f : Recovery → Recovery) : Scanned s (s.modRec f) :=
  Scanned.of_eq rfl rfl rfl rfl rfl rfl rfl rfl

theorem modWork_scanned (s : State) (a : Actuator) (f : List RecWork → List RecWork) : Scanned s (s.modWork a f) :=
  modRec_scanned _ _

theorem grantScanner_scanned (a : Actuator) (id : Nat) (s : State) : Scanned s (grantScanner a id s) :=
  modWork_scanned _ _ _

theorem prepare_scanned (a : Actuator) (s : State) : Scanned s (prepare a s) := by
  unfold prepare
  split
  · split
    · have h := (requestFrame_inner (.scanner a) s).scanned
      split
      · rename_i hr
        rw [hr] at h
        exact h.trans (grantScanner_scanned _ _ _)
      · rename_i hr
        rw [hr] at h
        exact h
    · exact Scanned.refl s
  · exact Scanned.refl s

theorem finishTask_scanned (a : Actuator) (l : List RecTask) (s : State) : Scanned s (finishTask a l s) := by
  unfold finishTask
  dsimp only
  refine Scanned.trans ?_ (prepare_scanned _ _)
  refine Scanned.trans ?_ (modWork_scanned _ _ _)
  split
  · exact (releaseHeld_inner _ _).scanned
  · exact Scanned.refl s

theorem retryTask_scanned (a : Actuator) (s : State) : Scanned s (retryTask a s) := modWork_scanned _ _ _

theorem dropScanner_scanned (s : State) : Scanned s (dropScanner s) := by
  refine Scanned.foldl (fun s a => ?_) _ _
  dsimp only
  refine (withdraw_inner (.scanner a) s).scanned.trans ?_
  split
  · exact (releaseHeld_inner _ _).scanned
  · exact Scanned.refl _

theorem endUnformatted_scanned (s : State) : Scanned s (endUnformatted s) :=
  (dropScanner_scanned s).trans (Scanned.of_eq rfl rfl rfl rfl rfl rfl rfl rfl)

theorem endHalted_scanned (e : Nat) (s : State) : Scanned s (endHalted e s) :=
  (dropScanner_scanned s).trans (Scanned.of_eq rfl rfl rfl rfl rfl rfl rfl rfl)

theorem endRingScan_scanned (s : State) : Scanned s (endRingScan s) := by
  have h : ∀ x, Scanned s { s with highEpoch := x } := fun x => Scanned.of_eq rfl rfl rfl rfl rfl rfl rfl rfl
  unfold endRingScan
  dsimp only
  split
  · exact endUnformatted_scanned s
  · split
    · exact (h _).trans (endHalted_scanned _ _)
    · split
      · exact (h _).trans (endHalted_scanned _ _)
      · refine Scanned.trans ?_ (finishTask_scanned _ _ _)
        refine Scanned.trans ?_ (modRec_scanned _ _)
        exact Scanned.of_eq rfl rfl rfl rfl rfl rfl rfl rfl

theorem closeRead_scanned (t : Stamp) (b : Block) (s : State) : Scanned s (closeRead t b s) := by
  unfold closeRead
  dsimp only
  split
  · refine Scanned.trans ?_ (finishTask_scanned _ _ _)
    refine Scanned.trans ?_ (modRec_scanned _ _)
    exact Scanned.of_eq rfl rfl rfl rfl rfl rfl rfl rfl
  · exact endHalted_scanned _ _

theorem loadPage_scanned {k n : Nat} {p : List Block} {c : CloseInfo} {s t : State} (h : loadPage k n p c s = some t) :
    Scanned s t := by
  unfold loadPage at h
  repeat' split at h
  all_goals
    simp only [Option.map_eq_some_iff] at h
    obtain ⟨l, -, rfl⟩ := h
    exact Scanned.of_eq rfl rfl rfl rfl rfl rfl rfl rfl

theorem beginScans_scanned (c : CloseInfo) (s : State) : Scanned s (beginScans c s) :=
  (modRec_scanned _ _).trans (prepare_scanned _ _)

theorem replayItem_scanned (s : State) (x : ReplayItem) : Scanned s (replayItem s x) := by
  unfold replayItem
  split
  · exact (releaseRange_inner _ _ _).scanned
  · refine Scanned.foldl (fun s r => Scanned.foldl (fun s k => ?_) _ _) _ _
    split
    · exact (place_inner _ _ _).scanned
    · exact (conditionalMove_inner _ _ _ _).scanned
    · exact Scanned.refl s

theorem beginRound_scanned (c : CloseInfo) (n : Nat) (s : State) : Scanned s (beginRound c n s) :=
  (modRec_scanned _ _).trans (prepare_scanned _ _)

theorem settleTables_scanned (s : State) : Scanned s (settleTables s) := by
  unfold settleTables
  dsimp only
  refine (makeLost_inner _ s).scanned.trans (Inner.scanned (Inner.forAny (fun s a => ?_) _ _))
  unfold postTorn
  split
  · exact Inner.refl s
  · exact post_inner _ _ _ _ _

theorem endReady_scanned (c : CloseInfo) (s : State) : Scanned s (endReady c s) := by
  unfold endReady
  dsimp only
  refine Scanned.trans ?_ (evalLatch_inner _ _).scanned
  refine Scanned.trans ?_ (evalLatch_inner _ _).scanned
  refine Scanned.trans ?_ (requestCk_inner _).scanned
  refine Scanned.trans ?_ (enterReady_kept _).scanned
  exact (dropScanner_scanned s).trans (Scanned.of_eq rfl rfl rfl rfl rfl rfl rfl rfl)

theorem endRound_scanned (s : State) : Scanned s (endRound s) := by
  unfold endRound
  split
  · exact Scanned.refl s
  · dsimp only
    have h := Scanned.foldl replayItem_scanned (sortByKey ReplayItem.seq s.recov.items) s
    split
    · exact h.trans (beginRound_scanned _ _ _)
    · exact (h.trans (settleTables_scanned _)).trans (endReady_scanned _ _)

theorem testRound_scanned (n : Nat) (s : State) : Scanned s (testRound n s) := by
  induction n generalizing s with
  | zero => exact Scanned.refl s
  | succ n ih =>
    unfold testRound
    split
    · exact (endRound_scanned s).trans (ih _)
    · exact Scanned.refl s

theorem afterScan_scanned (a : Actuator) (t : RecTask) (n : Nat) (l : List ScanEntry) (s : State) :
    Scanned s (afterScan a t n l s) := by
  unfold afterScan
  dsimp only
  repeat' split
  all_goals first
    | exact Scanned.refl _
    | exact finishTask_scanned _ _ _
    | exact endRingScan_scanned _
    | exact (modRec_scanned _ _).trans (finishTask_scanned _ _ _)

theorem scannerFailed_scanned (a : Actuator) (t : RecTask) (s : State) : Scanned s (scannerFailed a t s) := by
  unfold scannerFailed
  repeat' split
  all_goals first
    | exact Scanned.refl _
    | exact retryTask_scanned _ _
    | exact finishTask_scanned _ _ _
    | exact endHalted_scanned _ _

theorem pageRead_scanned (k : Nat) (t : Stamp) (p : List Block) (s : State) : Scanned s (pageRead k t p s) := by
  unfold pageRead
  split
  · exact Scanned.refl s
  · split
    · exact scannerFailed_scanned _ _ _
    · rename_i hl
      refine (loadPage_scanned hl).trans ?_
      split
      · exact finishTask_scanned _ _ _
      · exact ((finishTask_scanned _ _ _).trans (beginScans_scanned _ _)).trans (testRound_scanned _ _)

theorem noticeRead_scanned (t : Stamp) (p : List Block) (s : State) : Scanned s (noticeRead t p s) := by
  unfold noticeRead
  split
  · exact scannerFailed_scanned _ _ _
  · exact (modRec_scanned _ _).trans (finishTask_scanned _ _ _)

/-- The scanner's operations act only while a recovery runs. -/
theorem recov_ne_off {s : State} {a : Actuator} {w : RecWork} (h : s.task a = some w) : s.recov ≠ Recovery.off := by
  intro hr
  rw [State.task, hr] at h
  cases a <;> cases h

theorem scanTaken_kept (a : Actuator) (l : List ScanEntry) (s : State) : Kept s (scanTaken a l s) := by
  unfold scanTaken
  split
  · exact Kept.refl s
  · rename_i w hw
    refine Scanned.kept ?_ (recov_ne_off hw)
    exact ((modRec_scanned _ _).trans (afterScan_scanned _ _ _ _ _)).trans (testRound_scanned _ _)

theorem readTaken_kept (a : Actuator) (r : ReadEnd) (p : List Block) (s : State) : Kept s (readTaken a r p s) := by
  unfold readTaken
  split
  · exact Kept.refl s
  · rename_i w hw
    refine Scanned.kept ?_ (recov_ne_off hw)
    have hf := (scannerFailed_scanned a w.task s).trans (testRound_scanned 3 _)
    repeat' split
    all_goals first
      | exact Scanned.refl _
      | exact closeRead_scanned _ _ _
      | exact pageRead_scanned _ _ _ _
      | exact (noticeRead_scanned _ _ _).trans (testRound_scanned _ _)
      | exact hf

theorem grantScanner_kept (a : Actuator) (id : Nat) (s : State) : Kept s (grantScanner a id s) := by
  refine Kept.of_eq rfl rfl rfl rfl rfl rfl rfl rfl (fun h => ⟨?_, fun x => x⟩)
  simp only [grantScanner, State.modWork, State.modRec, h]
  cases a <;> rfl

/-! ## Media ports -/

theorem issue_kept (a : Actuator) (r : Request) (s : State) : Kept s (issue a r s) := by
  unfold issue
  dsimp only
  have h : ∀ (o : Port → Option Op) (t : Option Nat), Kept s (s.modPort a (fun p => { p with op := o p, issue := (p.issue + 1) % 65536, timer := t })) := fun o t =>
    modPort_kept _ _ _ (fun p hp => ⟨Nat.mod_lt _ (by decide), hp.2⟩)
  repeat' split
  all_goals first
    | exact h (fun p => some ⟨r.kind, p.issue, r.req, r.loc, r.count, r.mode, r.floor, r.frame, _, false, true, false⟩) _
    | exact Kept.trans (h (fun p => some ⟨r.kind, p.issue, r.req, r.loc, r.count, r.mode, r.floor, r.frame, _, false, true,
        false⟩) _) (modEntry_inner _ _ _).kept
    | exact Kept.trans (h (fun p => some ⟨r.kind, p.issue, r.req, r.loc, r.count, r.mode, r.floor, r.frame, _, false, true,
        false⟩) _) (rc_inner _ _).kept

theorem grantRequester_kept (a : Actuator) (k : Nat) (r : Request) (s : State) : Kept s (grantRequester a k r s) := by
  refine Kept.trans ?_ (issue_kept _ _ _)
  exact modPort_kept _ _ _ (fun p hp => ⟨hp.1, by simpa using hp.2⟩)

theorem runArbiter_kept (a : Actuator) (s : State) : Kept s (runArbiter a s) := by
  unfold runArbiter
  have h : Kept s (s.modPort a (fun p => { p with latches := List.replicate 10 false })) :=
    modPort_kept _ _ _ (fun p hp => ⟨hp.1, by simp⟩)
  dsimp only
  repeat' split
  all_goals first
    | exact Kept.refl _
    | exact issue_kept _ _ _
    | exact grantRequester_kept _ _ _ _
    | exact h
    | exact h.trans (grantRequester_kept _ _ _ _)

theorem losePort_inner (a : Actuator) (s : State) (n : Nat) : Inner s (losePort a s n) := by
  unfold losePort
  dsimp only
  have h : ∀ t, Inner s t → Inner s (if n = 7 then
      match t.rc.job with
      | some j => t.modLane 7 (fun c => if c.act = some a then { c with act := some j.act } else c)
      | none => t
    else t) := by
    intro t ht
    repeat' split
    · exact ht.trans (modLane_inner _ _ _)
    · exact ht
    · exact ht
  apply h
  repeat' split
  · exact closeOpen_inner _ _
  · exact (closeOpen_inner _ _).trans (giveUpLaneBand_inner _ _)
  · exact Inner.refl s

theorem enterDown_kept (a : Actuator) (s : State) : Kept s (enterDown a s) := by
  unfold enterDown
  dsimp only
  refine Kept.trans ?_ (pausePort_inner _ _).kept
  refine Kept.trans ?_ (Inner.forAny (losePort_inner a) _ _).kept
  refine Kept.trans ?_ (modPort_kept _ _ _ (fun _ hp => hp))
  exact (post_inner _ _ _ _ _).kept

theorem endOp_kept (a : Actuator) (s : State) : Kept s (endOp a s) := modPort_kept _ _ _ (fun _ hp => hp)

theorem scramble_kept (f : Option Nat) (s : State) : Kept s (scramble f s) := by
  unfold scramble
  split
  · rename_i id
    have h : ∀ u n, Kept s u → Kept s { u with freeCount := n } := fun u n hu =>
      hu.trans (Kept.of_eq rfl rfl rfl rfl rfl rfl rfl rfl (fun h => ⟨h, fun x => x⟩))
    refine h _ _ (Inner.kept ?_)
    exact modFrame_keeps_inner _ _ _ (fun _ => ⟨rfl, rfl⟩)
  · exact Kept.refl s

theorem routeNotReady_kept (o : Op) (s : State) : Kept s (routeNotReady o s) := by
  unfold routeNotReady
  have h : Kept s (if o.kind = .segmentRead ∧ o.live then scramble o.frame s else s) := by
    split
    · exact scramble_kept _ _
    · exact Kept.refl s
  dsimp only
  refine h.trans ?_
  repeat' split
  all_goals first
    | exact Kept.refl _
    | exact (releaseHeld_inner _ _).kept
    | exact (entryResult_inner _ _ _).kept
    | exact (sourceResult_inner _ _ _).kept
    | exact endAbandoned_kept _ _ _ _

theorem endNotReady_kept (a : Actuator) (o : Op) (s : State) : Kept s (endNotReady a o s) := by
  unfold endNotReady
  dsimp only
  have h := (endOp_kept a s).trans (routeNotReady_kept o _)
  split
  · exact h.trans (enterDown_kept _ _)
  · exact h

theorem laneWritten_kept (n id : Nat) (l : SegLoc) (s : State) : Kept s (laneWritten n id l s) := by
  have h : Inner s (if l.region = .band then bandWritten l.act l.band s else s) := by
    split
    · exact bandWritten_inner _ _ _
    · exact Inner.refl s
  unfold laneWritten
  dsimp only
  generalize (if l.region = .band then bandWritten l.act l.band s else s) = u at *
  have k : Inner s ((leaveQueue n id u).modFrame id (fun f => { f with written := true, waiters := [] })) :=
    (h.trans (leaveQueue_inner n id u)).trans (modFrame_keeps_inner _ _ _ (fun _ => ⟨rfl, rfl⟩))
  refine Inner.kept ?_
  split
  · exact k.trans (takeWritten_inner _ _ _)
  · exact (k.trans (releaseFrame_inner _ _)).trans (wakeWaiters_inner _ _)

theorem loseBand_inner (l : SegLoc) (s : State) : Inner s (loseBand l s) :=
  Inner.of_eq rfl (by simp [loseBand]) rfl rfl rfl rfl rfl rfl

theorem laneFailed_kept (n id : Nat) (l : SegLoc) (b : Bool) (s : State) : Kept s (laneFailed n id l b s) := by
  unfold laneFailed
  dsimp only
  refine Inner.kept (Inner.trans ?_ (failFrame_inner _ _ _))
  split
  · exact (truncateBand_inner _ _ _ _).trans (loseBand_inner _ _)
  · exact post_inner _ _ _ _ _

theorem routeWrite_kept (o : Op) (ok b : Bool) (s : State) : Kept s (routeWrite o ok b s) := by
  unfold routeWrite
  repeat' split
  all_goals first
    | exact Kept.refl _
    | exact (releaseHeld_inner _ _).kept
    | exact laneWritten_kept _ _ _ _
    | exact laneFailed_kept _ _ _ _ _
    | exact ringWritten_kept _ _
    | exact ringFailed_kept _ _
    | exact endAbandoned_kept _ _ _ _

theorem takeWrite_kept (a : Actuator) (o : Op) (r : WriteResult) (s : State) : Kept s (takeWrite a o r s) := by
  unfold takeWrite
  repeat' split
  all_goals first
    | exact endNotReady_kept _ _ _
    | exact (endOp_kept a s).trans (routeWrite_kept _ _ _ _)

theorem routeRead_kept (a : Actuator) (o : Op) (r : ReadEnd) (p : List Block) (s : State) : Kept s (routeRead a o r p s) := by
  unfold routeRead
  repeat' split
  all_goals first
    | exact Kept.refl _
    | exact (releaseHeld_inner _ _).kept
    | exact (entryResult_inner _ _ _).kept
    | exact (sourceResult_inner _ _ _).kept
    | exact readTaken_kept _ _ _ _

theorem fillFrame_kept (f : Option Nat) (p : List Block) (s : State) : Kept s (fillFrame f p s) := by
  unfold fillFrame
  split
  · exact Inner.kept (modFrame_keeps_inner _ _ _ (fun _ => ⟨rfl, rfl⟩))
  · exact Kept.refl s

theorem takeRead_kept (a : Actuator) (o : Op) (r : ReadResult) (s : State) : Kept s (takeRead a o r s) := by
  have live : ∀ (f : State → State), (∀ u, Kept u (f u)) → ∀ u, Kept u (if o.live then f u else u) := fun f hf u => by
    split
    · exact hf u
    · exact Kept.refl u
  unfold takeRead
  split
  · exact endNotReady_kept _ _ _
  · cases r with
    | done header trailer payload =>
      exact ((endOp_kept a s).trans (live _ (fillFrame_kept o.frame payload) _)).trans (routeRead_kept _ _ _ _ _)
    | unreadable => exact ((endOp_kept a s).trans (live _ (scramble_kept o.frame) _)).trans (routeRead_kept _ _ _ _ _)
    | notReady => exact endNotReady_kept _ _ _

theorem takeScan_kept (a : Actuator) (o : Op) (r : ScanResult) (s : State) : Kept s (takeScan a o r s) := by
  unfold takeScan
  dsimp only
  repeat' split
  all_goals first
    | exact endNotReady_kept _ _ _
    | exact endOp_kept _ _
    | exact (endOp_kept a s).trans (scanTaken_kept _ _ _)

/-! ## The front link and the write intake -/

theorem arrive_kept (t : Nat) (r : Arrival) (x : Stand) (f : State → State) (h : ∀ s, Inner s (f s)) (s : State) :
    Kept s (arrive t r x f s) := by
  unfold arrive
  dsimp only
  have h0 : Inner s (restartIdleClock s) := rc_inner _ _
  split
  · exact (h0.trans (send_inner _ _)).kept
  · refine Kept.trans (Inner.kept (h0.trans (Inner.trans ?_ (h _)))) (settle_kept _)
    exact tags_inner _ _ (by simp)

theorem joinIntake_inner (t : Nat) (s : State) : Inner s (joinIntake t s) := intake_inner _ _

/-- The tags, the intake and the waiters of every frame cleared (R186). -/
theorem clearRequests_kept (s : State) : Kept s { s with
    tags := List.replicate 64 none, intake := []
    pool := { s.pool with frames := s.pool.frames.map (fun (f : Frame) => { f with waiters := [] }) } } := by
  refine ⟨rfl, rfl, rfl, rfl, rfl, ?_, id, ?_, id, id, List.prefix_rfl, fun h => ⟨h, id⟩⟩
  · intro h
    exact ⟨h.1, by simp, by simpa using h.2.2⟩
  · intro hc
    refine ⟨fun c => ?_, hc.2⟩
    refine le_trans ?_ (hc.1 c)
    show heldIn c (List.map _ _) ≤ heldIn c _
    simp [heldIn, List.countP_map, Function.comp_def]

theorem dropRequests_kept (s : State) : Kept s (dropRequests s) := by
  unfold dropRequests
  dsimp only
  refine Kept.trans ?_ (modCk_kept _ _)
  refine Kept.trans ?_ (clearRequests_kept _)
  exact (dropPhase_kept s).trans (Inner.foldl dropRead_inner _ _).kept

theorem acceptRelease_kept (t : Nat) (e : TagEntry) (s : State) : Kept s (acceptRelease t e s) := by
  unfold acceptRelease
  dsimp only
  refine Kept.trans ?_ (refuseTurns_inner _).kept
  refine Kept.trans ?_ (popIntake_inner _).kept
  refine Kept.trans ?_ (modTag_inner _ _ _).kept
  refine Kept.trans ?_ (takeBatch_kept _)
  refine Kept.trans ?_ (modCk_kept _ _)
  exact ((releaseRange_inner _ _ _).trans (assignSeq_inner _)).kept

theorem joinFrames_inner (t : Nat) (s : State) : Inner s (joinFrames t s) := by
  refine ⟨rfl, by simp [State.sizes, joinFrames], id, id, ?_, id, List.prefix_rfl⟩
  intro hc
  refine ⟨fun c => ?_, hc.2⟩
  refine le_trans ?_ (hc.1 c)
  show heldIn c (List.map _ _) ≤ heldIn c _
  simp only [heldIn, List.countP_map]
  refine List.countP_mono_left (fun f _ h => ?_)
  have hs : ∀ g : Frame, g.state = f.state → g.cls = f.cls →
      (decide (g.state ≠ .free) && decide (g.cls = some c)) = true →
      (decide (f.state ≠ .free) && decide (f.cls = some c)) = true := by
    intro g h1 h2 h3
    rwa [h1, h2] at h3
  refine hs _ ?_ ?_ h
  all_goals
    dsimp only
    generalize f.owner = o
    rcases o with _ | (_ | _ | _ | _ | _) <;> dsimp only
    all_goals first | rfl | (split <;> rfl)

theorem acceptFlush_inner (t : Nat) (s : State) : Inner s (acceptFlush t s) := by
  unfold acceptFlush
  dsimp only
  refine Inner.trans ?_ (refuseTurns_inner _)
  refine Inner.trans ?_ (checkComplete_inner _ _)
  refine Inner.trans ?_ (popIntake_inner _)
  refine Inner.trans ?_ (modTag_inner _ _ _)
  refine Inner.trans ?_ (joinFrames_inner _ _)
  exact Inner.forAny (fun s n => closeOpen_inner n s) _ _

/-! ## The pool's offer and the idle clock -/

theorem deliverFrame_kept (r : Requester) (id : Nat) (s : State) : Kept s (deliverFrame r id s) := by
  unfold deliverFrame
  split
  · exact (modLane_inner _ _ _).kept
  · exact (grantEntry_inner _ _ _).kept
  · exact (grantSource_inner _ _ _).kept
  · exact grantPage_kept _ _
  · exact grantClose_kept _ _
  · exact grantNotice_kept _ _
  · exact grantScanner_kept _ _ _

theorem nextGrant_passes {s : State} {r : Requester} (h : s.nextGrant = some r) (hp : PoolOk s.pool) :
    s.pool.passes r.cls = true := by
  unfold State.nextGrant at h
  obtain ⟨c, -, hc⟩ := List.exists_of_findSome?_eq_some h
  split at hc
  · rename_i x l hx
    split at hc
    · cases hc
      have := hp.2 c r (by rw [hx]; simp)
      rw [this]
      assumption
    · cases hc
  · cases hc

theorem dequeue_inner (c : FrameClass) (s : State) : Inner s (dequeue c s) :=
  setQueue_inner _ _ _ (fun _ hx => .inl (List.mem_of_mem_tail hx))

/-- A grant keeps all that `Inner` says but the soundness of the pool, which it keeps when its test passed (R90). -/
theorem grantFrame_kept {r : Requester} {s t : State} {id : Nat} (hg : grantFrame r s = some (id, t))
    (h : PoolOk s.pool → s.pool.passes r.cls = true) : Kept s t := by
  by_cases hp : s.pool.passes r.cls = true
  · exact (grantFrame_inner r s hp hg).kept
  · unfold grantFrame at hg
    split at hg
    · cases hg
    · cases hg
      refine ⟨rfl, rfl, rfl, rfl, rfl, sizes_ok (by simp [State.sizes]), fun x => x, fun x => absurd (h x) hp, fun x => x,
        fun x => x, List.prefix_rfl, fun x => ⟨x, fun y => y⟩⟩

theorem offerFrame_kept (s : State) : Kept s (offerFrame s) := by
  unfold offerFrame
  split
  · split
    · exact Kept.refl s
    · exact (recycleStalled_inner s).kept
  · rename_i r hr
    split
    · rename_i id t hg
      exact (((grantFrame_kept hg (nextGrant_passes hr)).trans (dequeue_inner _ _).kept).trans
        (deliverFrame_kept _ _ _)).trans (recycleStalled_inner _).kept
    · exact Kept.refl s

theorem expireIdleClock_inner (s : State) : Inner s (expireIdleClock s) := by
  unfold expireIdleClock
  split
  · exact rc_inner _ _
  · exact Inner.refl s

/-! ## Maintenance -/

theorem respond_kept (st : Status) (p : List Byte) (s : State) : Kept s (respond st p s) := maint_kept _ _

theorem take_kept (a : BitVec 7) (f : State → State) (s : State) (h : ∀ s, Kept s (f s)) : Kept s (take a f s) := by
  unfold take
  split
  · exact Kept.refl s
  · exact h s

theorem takeLen_kept (w : MaintWrite) (n : Nat) (f : State → State) (s : State) (h : ∀ s, Kept s (f s)) :
    Kept s (takeLen w n f s) := by
  refine take_kept _ _ _ (fun s => ?_)
  split
  · exact h s
  · exact respond_kept _ _ _

theorem writeSetting_kept (c v : Nat) (s : State) : Kept s (writeSetting c v s) := by
  have hg : ∀ g, Kept s { s with pendGeom := g } := fun g => Kept.of_eq rfl rfl rfl rfl rfl rfl rfl rfl (fun h => ⟨h, fun x => x⟩)
  have hm : ∀ f, Kept s (s.modPend f) := fun f => maint_kept _ _
  unfold writeSetting
  dsimp only
  repeat' split
  all_goals
    refine Kept.trans ?_ (respond_kept _ _ _)
    first
    | exact hg _
    | exact hm _

theorem informSettings_kept (old : Settings) (s : State) : Kept s (informSettings old s) := by
  unfold informSettings
  dsimp only
  have last : ∀ t, Kept s t → Kept s (match t.phase with
      | some p => if t.ranFor p.holdTimer t.work.holdLimit then expireHold t else t
      | none => t) := by
    intro t ht
    repeat' split
    · exact ht.trans (expireHold_kept _)
    · exact ht
    · exact ht
  have ahead : ∀ t, Kept s t → Kept s (if t.work.readAhead = .off then dropAheadWhere (fun _ => true) t else t) := by
    intro t ht
    split
    · exact ht.trans (dropAheadWhere_inner _ _).kept
    · exact ht
  have ck : ∀ t, Kept s t → Kept s (if t.work.ckSegments < old.ckSegments ∧ t.work.ckSegments ≤ t.ck.dStart then
      requestCk t else t) := by
    intro t ht
    split
    · exact ht.trans (requestCk_inner _).kept
    · exact ht
  apply last
  apply ahead
  apply ck
  refine Kept.trans ?_ (expireIdleClock_inner _).kept
  split
  · exact ((((evalBandPressure_inner _ _).trans (evalBandPressure_inner _ _)).trans (evalLatch_inner _ _)).trans
      (evalLatch_inner _ _)).kept
  · exact Kept.refl s

theorem applySettings_kept (s : State) : Kept s (applySettings s) := by
  unfold applySettings
  dsimp only
  refine Kept.trans ?_ (respond_kept _ _ _)
  exact Kept.trans (maint_kept s { s.maint with work := s.maint.pend.agreed }) (informSettings_kept _ _)

theorem runCheckpoint_kept (s : State) : Kept s (runCheckpoint s) :=
  (maint_kept s { s.maint with busy := true, awaitStart := true, status := .busy, payload := [] }).trans
    (requestCk_inner _).kept

theorem closeLane_inner (s : State) (n : Nat) : Inner s (closeLane s n) := by
  unfold closeLane
  dsimp only
  repeat' split
  all_goals first
    | exact Inner.refl _
    | exact modLane_inner _ _ _
    | exact giveUpLane_inner _ _

theorem formatPool_ok (s : State) (ports : Two Port) (h : PoolOk s.pool) : PoolOk (formatPool s ports) := by
  refine ⟨fun c => ?_, fun c r hr => by cases c <;> cases hr⟩
  refine le_trans ?_ (h.1 c)
  show heldIn c (List.map _ _) ≤ heldIn c _
  have hl : s.pool.frames = (List.range s.pool.frames.length).map s.frame := by
    apply List.ext_getElem
    · simp
    · intro i h1 h2
      simp [State.frame, List.getD_eq_getElem?_getD, h1]
  conv_rhs => rw [hl]
  simp only [heldIn, List.countP_map]
  refine List.countP_mono_left (fun i _ hi => ?_)
  simp only [Function.comp] at hi ⊢
  split at hi
  · exact hi
  · simp [Frame.free] at hi

theorem formatPart_kept (s : State) : Kept s (formatPart s) := by
  unfold formatPart
  dsimp only
  refine Kept.trans ?_ (respond_kept _ _ _)
  refine Kept.trans ?_ (evalBandPressure_inner _ _).kept
  refine Kept.trans ?_ (evalBandPressure_inner _ _).kept
  refine ⟨rfl, rfl, rfl, rfl, rfl, ?_, fun x => x, fun x => formatPool_ok _ _ x, ?_, fun _ => rfl, List.prefix_rfl,
    fun _ => ⟨rfl, fun _ => ⟨List.Pairwise.nil, fun _ h => by cases h⟩⟩⟩
  · intro h
    exact ⟨by simp, h.2.1, by simpa [formatPool] using h.2.2⟩
  · intro h
    exact ⟨⟨h.1.1, by simp [Port.atFormat]⟩, ⟨h.2.1, by simp [Port.atFormat]⟩⟩

/-! ## All commands -/

/-- What a command's answer is to the state it found: kept as `Kept` says (WPROT aside), or reset (R163). -/
def KeptOrReset (s t : State) : Prop :=
  (∃ b, Kept { s with wprot := b } t) ∨ (∃ straps wprot, t = resetPart straps wprot s) ∨ t = holdReset s ∨
  ∃ straps, t = endReset straps s

theorem frontLinkReset_kept (s : State) :
    ∃ t, exec .frontLinkReset s = .next t ∧ Kept s t := by
  refine ⟨_, rfl, ?_⟩
  exact Kept.trans (dropRequests_kept s) (settle_kept _)

theorem read_kept (tag : Byte) (lba : BitVec 40) (count : BitVec 24) (s : State) :
    ∃ t, exec (.read tag lba count) s = .next t ∧ Kept s t := by
  refine ⟨_, rfl, ?_⟩
  exact (arrive_kept _ _ _ _ (fun s => acceptRead_inner _ _ _ s) s)

theorem write_kept (tag : Byte) (lba : BitVec 40) (count : BitVec 24) (flags : Byte) (s : State) :
    ∃ t, exec (.write tag lba count flags) s = .next t ∧ Kept s t := by
  refine ⟨_, rfl, ?_⟩
  exact (arrive_kept _ _ _ _ (fun s => joinIntake_inner _ s) s)

theorem release_kept (tag : Byte) (lba : BitVec 40) (count : BitVec 24) (s : State) :
    ∃ t, exec (.release tag lba count) s = .next t ∧ Kept s t := by
  refine ⟨_, rfl, ?_⟩
  exact (arrive_kept _ _ _ _ (fun s => joinIntake_inner _ s) s)

theorem flush_kept (tag : Byte) (s : State) :
    ∃ t, exec (.flush tag) s = .next t ∧ Kept s t := by
  refine ⟨_, rfl, ?_⟩
  exact (arrive_kept _ _ _ _ (fun s => joinIntake_inner _ s) s)

theorem unknownMessage_kept (kind : Byte) (s : State) :
    ∃ t, exec (.unknownMessage kind) s = .next t ∧ Kept s t := by
  refine ⟨_, rfl, ?_⟩
  exact (Kept.refl s)

theorem writeData_kept (tag : Byte) (data : Block) (s : State) :
    ∃ t, exec (.writeData tag data) s = .next t ∧ Kept s t := by
  refine ⟨_, rfl, ?_⟩
  cases hp : s.phase with
  | none => exact Kept.refl s
  | some p =>
    dsimp only
    cases hu : p.unanswered with
    | nil => exact Kept.refl s
    | cons u l =>
      dsimp only
      split
      · exact Kept.trans ((acceptBlock_kept s p u l _ hp hu).trans (testPhaseEnd_kept _)) (settle_kept _)
      · exact Kept.refl s

theorem dataPhaseStart_kept (s : State) :
    ∃ t, exec .dataPhaseStart s = .next t ∧ Kept s t := by
  refine ⟨_, rfl, ?_⟩
  repeat' split
  · exact Kept.trans (refuseTurns_inner s).kept (settle_kept _)
  · rename_i t e he hc hg
    exact Kept.trans (startPhase_kept t e s hc.2) (settle_kept _)
  all_goals exact (Kept.refl s)

theorem dataPull_kept (s : State) :
    ∃ t, exec .dataPull s = .next t ∧ Kept s t := by
  refine ⟨_, rfl, ?_⟩
  split
  · exact Kept.trans (testGate_kept s) (settle_kept _)
  · exact (Kept.refl s)

theorem releaseAcceptance_kept (s : State) :
    ∃ t, exec .releaseAcceptance s = .next t ∧ Kept s t := by
  refine ⟨_, rfl, ?_⟩
  cases s.headRequest with
  | none => exact Kept.refl s
  | some p =>
    dsimp only
    split
    · refine Kept.trans ?_ (settle_kept _)
      split
      · exact (refuseTurns_inner s).kept
      · split
        · exact acceptRelease_kept _ _ s
        · exact (modTag_inner _ _ _).kept
    · exact Kept.refl s

theorem flushAcceptance_kept (s : State) :
    ∃ t, exec .flushAcceptance s = .next t ∧ Kept s t := by
  refine ⟨_, rfl, ?_⟩
  repeat' split
  · exact Kept.trans (acceptFlush_inner _ s).kept (settle_kept _)
  all_goals exact (Kept.refl s)

theorem frameGrant_kept (s : State) :
    ∃ t, exec .frameGrant s = .next t ∧ Kept s t := by
  refine ⟨_, rfl, ?_⟩
  exact Kept.trans (offerFrame_kept s) (settle_kept _)

theorem readDataDelivery_kept (tag : Byte) (s : State) :
    ∃ t, exec (.readDataDelivery tag) s = .next t ∧ Kept s t := by
  refine ⟨_, rfl, ?_⟩
  exact Kept.trans (deliver_inner _ s).kept (settle_kept _)

theorem arbiterRun_kept (port : Actuator) (s : State) :
    ∃ t, exec (.arbiterRun port) s = .next t ∧ Kept s t := by
  refine ⟨_, rfl, ?_⟩
  exact Kept.trans (runArbiter_kept _ s) (settle_kept _)

theorem segmentWriteResult_kept (port : Actuator) (issue : BitVec 16) (result : WriteResult) (s : State) :
    ∃ t, exec (.segmentWriteResult port issue result) s = .next t ∧ Kept s t := by
  refine ⟨_, rfl, ?_⟩
  split
  · exact Kept.trans (takeWrite_kept _ _ _ s) (settle_kept _)
  · exact (Kept.refl s)

theorem segmentReadResult_kept (port : Actuator) (issue : BitVec 16) (result : ReadResult) (s : State) :
    ∃ t, exec (.segmentReadResult port issue result) s = .next t ∧ Kept s t := by
  refine ⟨_, rfl, ?_⟩
  split
  · exact Kept.trans (takeRead_kept _ _ _ s) (settle_kept _)
  · exact (Kept.refl s)

theorem stampScanResult_kept (port : Actuator) (issue : BitVec 16) (result : ScanResult) (s : State) :
    ∃ t, exec (.stampScanResult port issue result) s = .next t ∧ Kept s t := by
  refine ⟨_, rfl, ?_⟩
  split
  · exact Kept.trans (takeScan_kept _ _ _ s) (settle_kept _)
  · exact (Kept.refl s)

theorem checkpointStart_kept (s : State) :
    ∃ t, exec .checkpointStart s = .next t ∧ Kept s t := by
  refine ⟨_, rfl, ?_⟩
  exact Kept.trans (startCheckpoint_kept s) (settle_kept _)

theorem reclaimTriggerTest_kept (s : State) :
    ∃ t, exec .reclaimTriggerTest s = .next t ∧ Kept s t := by
  refine ⟨_, rfl, ?_⟩
  exact Kept.trans (testTriggers_inner s).kept (settle_kept _)

theorem reclaimCommit_kept (s : State) :
    ∃ t, exec .reclaimCommit s = .next t ∧ Kept s t := by
  refine ⟨_, rfl, ?_⟩
  exact Kept.trans (commitHead_inner s).kept (settle_kept _)

theorem portDown_kept (port : Actuator) (s : State) :
    ∃ t, exec (.portDown port) s = .next t ∧ Kept s t := by
  refine ⟨_, rfl, ?_⟩
  split
  · exact Kept.trans (enterDown_kept _ s) (settle_kept _)
  · exact (Kept.refl s)

theorem portUp_kept (port : Actuator) (s : State) : ∃ t, exec (.portUp port) s = .next t ∧ Kept s t := by
  refine ⟨_, rfl, ?_⟩
  split
  · exact Kept.refl s
  · refine Kept.trans ?_ (settle_kept _)
    refine Kept.trans ?_ (resumePort_inner _ _).kept
    exact modPort_kept _ _ _ (fun _ hp => hp)

theorem responseTimerExpiry_kept (port : Actuator) (s : State) :
    ∃ t, exec (.responseTimerExpiry port) s = .next t ∧ Kept s t := by
  refine ⟨_, rfl, ?_⟩
  repeat' split
  · exact Kept.trans (endNotReady_kept _ _ s) (settle_kept _)
  all_goals exact (Kept.refl s)

theorem idleTimerExpiry_kept (lane : Nat) (s : State) :
    ∃ t, exec (.idleTimerExpiry lane) s = .next t ∧ Kept s t := by
  refine ⟨_, rfl, ?_⟩
  split
  · exact Kept.trans (closeOpen_inner _ s).kept (settle_kept _)
  · exact (Kept.refl s)

theorem releaseTimerExpiry_kept (lane : Nat) (s : State) :
    ∃ t, exec (.releaseTimerExpiry lane) s = .next t ∧ Kept s t := by
  refine ⟨_, rfl, ?_⟩
  split
  · exact Kept.trans (giveUpLane_inner _ s).kept (settle_kept _)
  · exact (Kept.refl s)

theorem holdTimerExpiry_kept (s : State) :
    ∃ t, exec .holdTimerExpiry s = .next t ∧ Kept s t := by
  refine ⟨_, rfl, ?_⟩
  repeat' split
  · exact Kept.trans (expireHold_kept s) (settle_kept _)
  all_goals exact (Kept.refl s)

theorem portWaitExpiry_kept (tag : Byte) (s : State) :
    ∃ t, exec (.portWaitExpiry tag) s = .next t ∧ Kept s t := by
  refine ⟨_, rfl, ?_⟩
  split
  · exact Kept.trans (expireWait_inner _ s).kept (settle_kept _)
  · exact Kept.refl s

theorem idleClockExpiry_kept (s : State) :
    ∃ t, exec .idleClockExpiry s = .next t ∧ Kept s t := by
  refine ⟨_, rfl, ?_⟩
  exact (expireIdleClock_inner s).kept

theorem identify_kept (w : MaintWrite) (s : State) :
    ∃ t, exec (.identify w) s = .next t ∧ Kept s t := by
  refine ⟨_, rfl, ?_⟩
  exact (takeLen_kept _ _ _ s (fun s => respond_kept _ _ s))

theorem getSetting_kept (w : MaintWrite) (s : State) :
    ∃ t, exec (.getSetting w) s = .next t ∧ Kept s t := by
  refine ⟨_, rfl, ?_⟩
  refine (takeLen_kept _ _ _ s (fun s => ?_))
  split <;> exact respond_kept _ _ s

theorem setSetting_kept (w : MaintWrite) (s : State) :
    ∃ t, exec (.setSetting w) s = .next t ∧ Kept s t := by
  refine ⟨_, rfl, ?_⟩
  refine (takeLen_kept _ _ _ s (fun s => ?_))
  split
  · exact respond_kept _ _ s
  · exact writeSetting_kept _ _ s

theorem apply_kept (w : MaintWrite) (s : State) :
    ∃ t, exec (.apply w) s = .next t ∧ Kept s t := by
  refine ⟨_, rfl, ?_⟩
  refine (takeLen_kept _ _ _ s (fun s => ?_))
  split
  · exact respond_kept _ _ s
  · exact (applySettings_kept s).trans (settle_kept _)

theorem format_kept (w : MaintWrite) (s : State) :
    ∃ t, exec (.format w) s = .next t ∧ Kept s t := by
  refine ⟨_, rfl, ?_⟩
  refine (takeLen_kept _ _ _ s (fun s => ?_))
  split
  · exact respond_kept _ _ s
  · exact (formatPart_kept s).trans (settle_kept _)

theorem checkpoint_kept (w : MaintWrite) (s : State) :
    ∃ t, exec (.checkpoint w) s = .next t ∧ Kept s t := by
  refine ⟨_, rfl, ?_⟩
  refine (takeLen_kept _ _ _ s (fun s => ?_))
  split
  · exact runCheckpoint_kept s
  · exact respond_kept _ _ s

theorem closeLanes_kept (w : MaintWrite) (s : State) :
    ∃ t, exec (.closeLanes w) s = .next t ∧ Kept s t := by
  refine ⟨_, rfl, ?_⟩
  refine (takeLen_kept _ _ _ s (fun s => ?_))
  split
  · exact ((Inner.forAny closeLane_inner _ s).kept.trans (respond_kept _ _ _)).trans (settle_kept _)
  · exact respond_kept _ _ s

theorem readException_kept (w : MaintWrite) (s : State) :
    ∃ t, exec (.readException w) s = .next t ∧ Kept s t := by
  refine ⟨_, rfl, ?_⟩
  refine (takeLen_kept _ _ _ s (fun s => ?_))
  split
  · rename_i e l he
    refine Kept.trans ?_ (respond_kept _ _ _)
    refine ⟨rfl, rfl, rfl, rfl, rfl, fun x => x, fun x => ?_, fun x => x, fun x => x, fun x => x, List.prefix_rfl,
      fun x => ⟨x, fun y => y⟩⟩
    rw [he] at x
    exact ⟨(List.nodup_cons.1 x.1).2, fun e he => x.2 e (List.mem_cons_of_mem _ he)⟩
  · exact respond_kept _ _ s

theorem bandCensus_kept (w : MaintWrite) (s : State) :
    ∃ t, exec (.bandCensus w) s = .next t ∧ Kept s t := by
  refine ⟨_, rfl, ?_⟩
  refine (takeLen_kept _ _ _ s (fun s => ?_))
  split <;> exact respond_kept _ _ s

theorem laneReport_kept (w : MaintWrite) (s : State) :
    ∃ t, exec (.laneReport w) s = .next t ∧ Kept s t := by
  refine ⟨_, rfl, ?_⟩
  refine (takeLen_kept _ _ _ s (fun s => ?_))
  dsimp only
  repeat' split
  all_goals exact respond_kept _ _ s

theorem bandReport_kept (w : MaintWrite) (s : State) :
    ∃ t, exec (.bandReport w) s = .next t ∧ Kept s t := by
  refine ⟨_, rfl, ?_⟩
  refine (takeLen_kept _ _ _ s (fun s => ?_))
  dsimp only
  repeat' split
  all_goals exact respond_kept _ _ s

theorem unknownCommand_kept (w : MaintWrite) (code : Byte) (s : State) :
    ∃ t, exec (.unknownCommand w code) s = .next t ∧ Kept s t := by
  refine ⟨_, rfl, ?_⟩
  exact (take_kept _ _ s (fun s => respond_kept _ _ s))

theorem malformed_kept (addr : BitVec 7) (how : BadWrite) (s : State) :
    ∃ t, exec (.malformed addr how) s = .next t ∧ Kept s t := by
  refine ⟨_, rfl, ?_⟩
  exact (take_kept _ _ s (fun s => respond_kept _ _ s))

theorem portBusyNack_kept (addr : BitVec 7) (s : State) :
    ∃ t, exec (.portBusyNack addr) s = .next t ∧ Kept s t := by
  refine ⟨_, rfl, ?_⟩
  exact (Kept.refl s)

/-- Every command keeps what `Kept` says, or is a reset. -/
theorem exec_kept (c : Instr) (s : State) : ∃ t, exec c s = .next t ∧ KeptOrReset s t := by
  have k : ∀ c, (∃ t, exec c s = .next t ∧ Kept s t) → ∃ t, exec c s = .next t ∧ KeptOrReset s t :=
    fun _ ⟨t, h, i⟩ => ⟨t, h, .inl ⟨s.wprot, i⟩⟩
  cases c
  case powerOn =>
    exact ⟨_, rfl, .inr (.inl ⟨_, _, rfl⟩)⟩
  case resetN =>
    exact ⟨_, rfl, .inr (.inr (.inl rfl))⟩
  case wprotAsserted =>
    exact ⟨_, rfl, .inl ⟨true, settle_kept _⟩⟩
  case wprotDeasserted =>
    exact ⟨_, rfl, .inl ⟨false, settle_kept _⟩⟩
  case frontLinkReset => exact k _ (frontLinkReset_kept s)
  case read => exact k _ (read_kept _ _ _ s)
  case write => exact k _ (write_kept _ _ _ _ s)
  case release => exact k _ (release_kept _ _ _ s)
  case flush => exact k _ (flush_kept _ s)
  case unknownMessage => exact k _ (unknownMessage_kept _ s)
  case writeData => exact k _ (writeData_kept _ _ s)
  case dataPhaseStart => exact k _ (dataPhaseStart_kept s)
  case dataPull => exact k _ (dataPull_kept s)
  case releaseAcceptance => exact k _ (releaseAcceptance_kept s)
  case flushAcceptance => exact k _ (flushAcceptance_kept s)
  case frameGrant => exact k _ (frameGrant_kept s)
  case readDataDelivery => exact k _ (readDataDelivery_kept _ s)
  case arbiterRun => exact k _ (arbiterRun_kept _ s)
  case segmentWriteResult => exact k _ (segmentWriteResult_kept _ _ _ s)
  case segmentReadResult => exact k _ (segmentReadResult_kept _ _ _ s)
  case stampScanResult => exact k _ (stampScanResult_kept _ _ _ s)
  case checkpointStart => exact k _ (checkpointStart_kept s)
  case reclaimTriggerTest => exact k _ (reclaimTriggerTest_kept s)
  case reclaimCommit => exact k _ (reclaimCommit_kept s)
  case portDown => exact k _ (portDown_kept _ s)
  case portUp => exact k _ (portUp_kept _ s)
  case responseTimerExpiry => exact k _ (responseTimerExpiry_kept _ s)
  case idleTimerExpiry => exact k _ (idleTimerExpiry_kept _ s)
  case releaseTimerExpiry => exact k _ (releaseTimerExpiry_kept _ s)
  case holdTimerExpiry => exact k _ (holdTimerExpiry_kept s)
  case portWaitExpiry => exact k _ (portWaitExpiry_kept _ s)
  case idleClockExpiry => exact k _ (idleClockExpiry_kept s)
  case identify => exact k _ (identify_kept _ s)
  case getSetting => exact k _ (getSetting_kept _ s)
  case setSetting => exact k _ (setSetting_kept _ s)
  case apply => exact k _ (apply_kept _ s)
  case format => exact k _ (format_kept _ s)
  case checkpoint => exact k _ (checkpoint_kept _ s)
  case closeLanes => exact k _ (closeLanes_kept _ s)
  case readException => exact k _ (readException_kept _ s)
  case bandCensus => exact k _ (bandCensus_kept _ s)
  case laneReport => exact k _ (laneReport_kept _ s)
  case bandReport => exact k _ (bandReport_kept _ s)
  case resetDevice =>
    refine ⟨_, rfl, ?_⟩
    unfold takeLen take
    repeat' split
    · exact .inl ⟨s.wprot, Kept.refl s⟩
    · dsimp only
      split
      · exact .inr (.inr (.inl rfl))
      · exact .inr (.inl ⟨_, _, rfl⟩)
    · exact .inl ⟨s.wprot, respond_kept _ _ _⟩
  case unknownCommand => exact k _ (unknownCommand_kept _ _ s)
  case malformed => exact k _ (malformed_kept _ _ s)
  case portBusyNack => exact k _ (portBusyNack_kept _ s)
  case resetNDeasserted =>
    refine ⟨_, rfl, ?_⟩
    split
    · exact .inr (.inr (.inr ⟨_, rfl⟩))
    · exact .inl ⟨s.wprot, Kept.refl s⟩

end Sys2Proof.Machine
end

