-- ==== Sys2Proof/Laws/PerInstr.lean ====
section
/-! SUPPORT. What holds of each command as syntax: the opcode table gives no row any bits, so no word spells it. -/

namespace Sys2Proof.Laws

/-- No word of any width spells the command. -/
def Unspelled.Statement (i : Instr) : Prop := ∀ nbits w : Nat, decodeTableWord nbits w ≠ some i

/-- The table spells no command at all. -/
theorem decodeTableWord_none (nbits w : Nat) : decodeTableWord nbits w = none := rfl

/-- What a table spells nothing of, it does not spell this. -/
theorem unspelled (i : Instr) : Unspelled.Statement i := fun nbits w => by rw [decodeTableWord_none]; nofun

theorem Unspelled.powerOn (straps : Straps) (wprot : Bool) : Statement (.powerOn straps wprot) := unspelled _
theorem Unspelled.resetN : Statement (.resetN) := unspelled _
theorem Unspelled.wprotAsserted : Statement (.wprotAsserted) := unspelled _
theorem Unspelled.wprotDeasserted : Statement (.wprotDeasserted) := unspelled _
theorem Unspelled.frontLinkReset : Statement (.frontLinkReset) := unspelled _
theorem Unspelled.read (tag : Byte) (lba : BitVec 40) (count : BitVec 24) : Statement (.read tag lba count) := unspelled _
theorem Unspelled.write (tag : Byte) (lba : BitVec 40) (count : BitVec 24) (flags : Byte) : Statement (.write tag lba count flags) := unspelled _
theorem Unspelled.release (tag : Byte) (lba : BitVec 40) (count : BitVec 24) : Statement (.release tag lba count) := unspelled _
theorem Unspelled.flush (tag : Byte) : Statement (.flush tag) := unspelled _
theorem Unspelled.unknownMessage (kind : Byte) : Statement (.unknownMessage kind) := unspelled _
theorem Unspelled.writeData (tag : Byte) (data : Block) : Statement (.writeData tag data) := unspelled _
theorem Unspelled.dataPhaseStart : Statement (.dataPhaseStart) := unspelled _
theorem Unspelled.dataPull : Statement (.dataPull) := unspelled _
theorem Unspelled.releaseAcceptance : Statement (.releaseAcceptance) := unspelled _
theorem Unspelled.flushAcceptance : Statement (.flushAcceptance) := unspelled _
theorem Unspelled.frameGrant : Statement (.frameGrant) := unspelled _
theorem Unspelled.readDataDelivery (tag : Byte) : Statement (.readDataDelivery tag) := unspelled _
theorem Unspelled.arbiterRun (port : Actuator) : Statement (.arbiterRun port) := unspelled _
theorem Unspelled.segmentWriteResult (port : Actuator) (issue : BitVec 16) (result : WriteResult) : Statement (.segmentWriteResult port issue result) := unspelled _
theorem Unspelled.segmentReadResult (port : Actuator) (issue : BitVec 16) (result : ReadResult) : Statement (.segmentReadResult port issue result) := unspelled _
theorem Unspelled.stampScanResult (port : Actuator) (issue : BitVec 16) (result : ScanResult) : Statement (.stampScanResult port issue result) := unspelled _
theorem Unspelled.checkpointStart : Statement (.checkpointStart) := unspelled _
theorem Unspelled.reclaimTriggerTest : Statement (.reclaimTriggerTest) := unspelled _
theorem Unspelled.reclaimCommit : Statement (.reclaimCommit) := unspelled _
theorem Unspelled.portDown (port : Actuator) : Statement (.portDown port) := unspelled _
theorem Unspelled.portUp (port : Actuator) : Statement (.portUp port) := unspelled _
theorem Unspelled.responseTimerExpiry (port : Actuator) : Statement (.responseTimerExpiry port) := unspelled _
theorem Unspelled.idleTimerExpiry (lane : Nat) : Statement (.idleTimerExpiry lane) := unspelled _
theorem Unspelled.releaseTimerExpiry (lane : Nat) : Statement (.releaseTimerExpiry lane) := unspelled _
theorem Unspelled.holdTimerExpiry : Statement (.holdTimerExpiry) := unspelled _
theorem Unspelled.portWaitExpiry (tag : Byte) : Statement (.portWaitExpiry tag) := unspelled _
theorem Unspelled.idleClockExpiry : Statement (.idleClockExpiry) := unspelled _
theorem Unspelled.identify (w : MaintWrite) : Statement (.identify w) := unspelled _
theorem Unspelled.getSetting (w : MaintWrite) : Statement (.getSetting w) := unspelled _
theorem Unspelled.setSetting (w : MaintWrite) : Statement (.setSetting w) := unspelled _
theorem Unspelled.apply (w : MaintWrite) : Statement (.apply w) := unspelled _
theorem Unspelled.format (w : MaintWrite) : Statement (.format w) := unspelled _
theorem Unspelled.checkpoint (w : MaintWrite) : Statement (.checkpoint w) := unspelled _
theorem Unspelled.closeLanes (w : MaintWrite) : Statement (.closeLanes w) := unspelled _
theorem Unspelled.readException (w : MaintWrite) : Statement (.readException w) := unspelled _
theorem Unspelled.bandCensus (w : MaintWrite) : Statement (.bandCensus w) := unspelled _
theorem Unspelled.laneReport (w : MaintWrite) : Statement (.laneReport w) := unspelled _
theorem Unspelled.bandReport (w : MaintWrite) : Statement (.bandReport w) := unspelled _
theorem Unspelled.resetDevice (w : MaintWrite) (straps : Straps) : Statement (.resetDevice w straps) := unspelled _
theorem Unspelled.unknownCommand (w : MaintWrite) (code : Byte) : Statement (.unknownCommand w code) := unspelled _
theorem Unspelled.malformed (addr : BitVec 7) (how : BadWrite) : Statement (.malformed addr how) := unspelled _
theorem Unspelled.portBusyNack (addr : BitVec 7) : Statement (.portBusyNack addr) := unspelled _
theorem Unspelled.resetNDeasserted (straps : Straps) : Statement (.resetNDeasserted straps) := unspelled _

end Sys2Proof.Laws
end

