-- ==== Sys2Proof/WellFormed.lean ====
section
/-! DEFINITION. Which commands can exist: a lane timer belongs to a lane that has one, a payload read back has
16 slots, a scan list and a maintenance payload are no longer than the link lets them be, and an unknown kind or
command code is none of the known ones. -/

namespace Sys2Proof

/-- The front request kinds and WRITE DATA (section 13.4): the kind codes a message to the SP420 may have. That 81H, 82H and 83H,
the kinds of section 13.4 that the SP420 sends itself, are no kinds of a message that arrives is the model's choice (log 52). -/
def knownMessageKinds : List Byte := [0x01, 0x02, 0x03, 0x04, 0x05]

/-- The command codes of section 13.5. -/
def knownCommandCodes : List Byte :=
  [0x01, 0x02, 0x03, 0x04, 0x05, 0x06, 0x07, 0x08, 0x09, 0x0A, 0x0B, 0x0F]

/-- A maintenance payload has at most 32 bytes (R187). -/
def MaintWrite.wf (w : MaintWrite) : Bool := decide (w.payload.length ≤ 32)

/-- A length byte that makes a write MALFORMED is above 32 (R187). -/
def BadWrite.wf : BadWrite → Bool
  | .endedEarly => true
  | .lengthAbove len => decide (32 < len.toNat)

/-- A SEGMENT READ returns 16 payload slots (R1, R105). -/
def ReadResult.wf : ReadResult → Bool
  | .done _ _ payload => decide (payload.length = 16)
  | .unreadable => true
  | .notReady => true

/-- A STAMP SCAN covers at most 256 segments (R106). -/
def ScanResult.wf : ScanResult → Bool
  | .entries list => decide (list.length ≤ 256)
  | .notReady => true

/-- The well-formed commands. -/
def Instr.wf : Instr → Bool
  | .powerOn _ _ => true
  | .resetN => true
  | .wprotAsserted => true
  | .wprotDeasserted => true
  | .frontLinkReset => true
  | .read _ _ _ => true
  | .write _ _ _ _ => true
  | .release _ _ _ => true
  | .flush _ => true
  | .unknownMessage kind => !knownMessageKinds.contains kind
  | .writeData _ _ => true
  | .dataPhaseStart => true
  | .dataPull => true
  | .releaseAcceptance => true
  | .flushAcceptance => true
  | .frameGrant => true
  | .readDataDelivery _ => true
  | .arbiterRun _ => true
  | .segmentWriteResult _ _ _ => true
  | .segmentReadResult _ _ r => r.wf
  | .stampScanResult _ _ r => r.wf
  | .checkpointStart => true
  | .reclaimTriggerTest => true
  | .reclaimCommit => true
  | .portDown _ => true
  | .portUp _ => true
  | .responseTimerExpiry _ => true
  | .idleTimerExpiry lane => decide (lane ≤ 6)
  | .releaseTimerExpiry lane => decide (lane ≤ 6)
  | .holdTimerExpiry => true
  | .portWaitExpiry _ => true
  | .idleClockExpiry => true
  | .identify w => w.wf
  | .getSetting w => w.wf
  | .setSetting w => w.wf
  | .apply w => w.wf
  | .format w => w.wf
  | .checkpoint w => w.wf
  | .closeLanes w => w.wf
  | .readException w => w.wf
  | .bandCensus w => w.wf
  | .laneReport w => w.wf
  | .bandReport w => w.wf
  | .resetDevice w _ => w.wf
  | .unknownCommand w code => w.wf && !knownCommandCodes.contains code
  | .malformed _ how => how.wf
  | .portBusyNack _ => true
  | .resetNDeasserted _ => true

end Sys2Proof
end

