-- ==== Sys2Proof/Tests/Slice0.lean ====
section
/-! SUPPORT. Small checks of the model: expected values come from spec/ (its tables, worked examples and layouts), and
each `test_witness_…` shows a state and operands that meet the hypotheses of the obligation it names. -/

namespace Sys2Proof.Tests

set_option Elab.async false

open Sys2Proof Sys2Proof.Machine

/-! ## Small states -/

/-- A geometry in range of R8. -/
def geom : Geometry := ⟨256, 64, 64, 1024, 512, 1048576⟩

/-- A formatted part in READY with both ports UP and blank bands. -/
def ready : State :=
  { State.reset with
    service := .ready, geom := some geom, seq := some 10, epoch := some 1, highEpoch := some 1, cleared := some 0
    recov := Recovery.off, now := 100000
    ports := Two.both { Port.fresh with up := true }
    bm := Two.both ⟨List.replicate 64 Band.blank, [], ⟨0, 0, 0, 0, []⟩⟩ }

/-- Segment 0 of cache ring A, and segment 0 of band 0 of actuator A. -/
def cacheSeg : SegLoc := ⟨.A, .cache, 0, 0⟩

@[inherit_doc cacheSeg]
def bandSeg : SegLoc := ⟨.A, .band, 0, 0⟩

/-- A frame of an owner, bound, with this many filled slots of the run that starts at LBA 100. -/
def frameOf (o : Owner) (c : FrameClass) (l : SegLoc) (fill : Nat) : Frame :=
  { Frame.free with state := .inUse, cls := some c, owner := some o, bound := some l, fill := fill
                    runs := if fill = 0 then [] else [⟨100, fill, 0, none⟩] }

/-- A state with frame 0 as given. -/
def withFrame (f : Frame) (s : State) : State := s.modFrame 0 (fun _ => f)

/-- A state with an operation in flight at a port under issue number 7. -/
def withOp (a : Actuator) (k : OpKind) (r : OpReq) (l : SegLoc) (f : Option Nat) (s : State) : State :=
  s.modPort a (fun p =>
    { p with op := some ⟨k, 7, r, l, 1, .through, 0, f, none, false, true, false⟩, issue := 8, timer := some 80000 })

/-- The tag entry of a request. -/
def entry (k : ReqKind) (lba count : Nat) (st : Stand) : TagEntry := ⟨k, lba, count, false, st, 0, none, [], false⟩

/-- A state with tag 3 in use and at the head of the intake. -/
def queued (e : TagEntry) (s : State) : State := { s with tags := s.tags.set 3 (some e), intake := [3] }

/-- The data phase of a WRITE of two blocks at LBA 100 in lane 6, its first block pulled into slot 0 of frame 0. -/
def phase : DataPhase := ⟨3, 100, 2, 6, false, 1, 0, [⟨100, 0, 0, 6⟩], none, none, false⟩

/-- A WRITE in its data phase with one pull unanswered. -/
def writing : State :=
  let s := withFrame { frameOf (.lane 6) .write cacheSeg 1 with promises := 1 } (queued (entry .write 100 2 .inTurn) ready)
  { (s.modLane 6 (fun c => { c with state := .opened, openFrame := some 0, lastAccept := some 0 })).modRing .A
      (fun r => { r with tail := 1 }) with phase := some phase, earmarks := 1 }

/-- The state after a command. -/
def after (c : Instr) (s : State) : State :=
  match exec c s with
  | .next t => t
  | .fault _ => s
  | .refused _ => s

/-- A maintenance write to the part's own address with both ADDR straps low (R187). -/
def toPart (p : List Byte) : MaintWrite := ⟨88, p⟩

/-! ## Well-formed commands -/

theorem test_wf_refuses_known_kind : (Instr.unknownMessage 0x02).wf = false := by decide
theorem test_wf_refuses_known_code : (Instr.unknownCommand (toPart []) 0x0F).wf = false := by decide
theorem test_wf_refuses_lane_seven_idle_timer : (Instr.idleTimerExpiry 7).wf = false := by decide
theorem test_wf_refuses_lane_seven_release_timer : (Instr.releaseTimerExpiry 7).wf = false := by decide
theorem test_wf_refuses_long_payload : (Instr.identify (toPart (List.replicate 33 0))).wf = false := by decide
theorem test_wf_refuses_short_length : (Instr.malformed 88 (.lengthAbove 32)).wf = false := by decide
theorem test_wf_refuses_fifteen_slots : (Instr.segmentReadResult .A 7 (.done none none (List.replicate 15 0))).wf = false := by
  decide +kernel
theorem test_wf_refuses_long_scan :
    (Instr.stampScanResult .A 7 (.entries (List.replicate 257 .unreadable))).wf = false := by decide +kernel

/-! ## Commands, one step each -/

-- R163, R162
theorem test_power_on_recovers : (after (.powerOn ⟨true, false, true⟩ true) writing).service = .recovering ∧
    (after (.powerOn ⟨true, false, true⟩ true) writing).straps = ⟨true, false, true⟩ := by decide +kernel
-- R163
theorem test_reset_n_discards_the_phase : (after .resetN writing).phase = none ∧ (after .resetN writing).resetN = true := by
  decide +kernel
-- R163: the straps are sampled at the end of the reset
theorem test_reset_n_deasserted_samples_straps :
    (after (.resetNDeasserted ⟨false, true, false⟩) (after .resetN ready)).straps = ⟨false, true, false⟩ := by
  decide +kernel
-- R116, R82
theorem test_wprot_closes_open_frames : (after .wprotAsserted writing).gate = true ∧
    ((after .wprotAsserted writing).lane 6).openFrame = none := by decide +kernel
-- R15, R116: under the sequence limit the gate stays asserted
theorem test_wprot_deasserted_under_limit :
    (after .wprotDeasserted { ready with wprot := true, gate := true, seqLimit := true }).gate = true := by decide +kernel
-- R186
theorem test_front_link_reset_drops_phase : (after .frontLinkReset writing).phase = none ∧
    (after .frontLinkReset writing).tag 3 = none ∧ (after .frontLinkReset writing).earmarks = 0 := by decide +kernel
-- R195: a tag above 63
theorem test_read_tag_above_63 : (after (.read 64 0 1) ready).frontOut = [.completion 64 .tagInUse 0] := by decide +kernel
-- R178: a range may end at LCAP and no later
theorem test_write_ends_at_lcap : (after (.write 63 1048320 256 1) ready).intake = [63] := by decide +kernel
theorem test_write_past_lcap :
    (after (.write 63 1048321 256 0) ready).frontOut = [.completion 63 .outOfRange 0] := by decide +kernel
-- R178: a RELEASE may have 65,536 blocks
theorem test_release_count_limit : (after (.release 5 0 65536) ready).intake = [5] ∧
    (after (.release 5 0 65537) ready).frontOut = [.completion 5 .outOfRange 0] := by decide +kernel
-- R178: a FLUSH passes a gate that refuses a WRITE
theorem test_flush_passes_gate : (after (.flush 0) { ready with wprot := true, gate := true }).intake = [0] := by
  decide +kernel
theorem test_unknown_message_discarded : after (.unknownMessage 0x7F) writing = writing := by decide +kernel
-- R74: the block is placed at its slot
theorem test_write_data_places : (after (.writeData 3 9) writing).extents = [⟨100, 1, .media ⟨cacheSeg, 0⟩⟩] ∧
    (after (.writeData 3 9) writing).earmarks = 0 := by decide +kernel
theorem test_write_data_fills_slot : ((after (.writeData 3 9) writing).frame 0).payload.getD 0 0 = 9 := by decide +kernel
-- R67: fewer than STREAM_MIN (64) blocks go to lane 6, 64 blocks to the first CLOSED stream lane
theorem test_small_write_in_lane_6 :
    ((after .dataPhaseStart (queued (entry .write 100 63 .queued) ready)).phase.map (fun p => p.lane)) = some 6 := by
  decide +kernel
theorem test_stream_write_in_lane_0 :
    ((after .dataPhaseStart (queued (entry .write 100 64 .queued) ready)).phase.map (fun p => p.lane)) = some 0 := by
  decide +kernel
-- R93: the second block is pulled into the next slot
theorem test_data_pull_takes_next_slot : (after .dataPull writing).frontOut = [.dataPull 3] ∧
    ((after .dataPull writing).frame 0).fill = 2 ∧ (after .dataPull writing).earmarks = 2 := by decide +kernel
-- R36: 64 free records do not admit a block
theorem test_data_pull_held_for_records :
    ((after .dataPull { writing with earmarks := 131040 }).phase.bind (fun p => p.hold)) = some .records := by
  decide +kernel
-- R151, R152: at a quiet part the record is taken into a closed notice at once
theorem test_release_acceptance_closes_notice :
    let s := after .releaseAcceptance (queued (entry .release 100 2 .queued) ready)
    s.ck.batch = [] ∧ s.ck.notice.map (fun n => n.records) = some [⟨100, 2, 10, some 3⟩] := by decide +kernel
-- R183: with nothing unwritten a FLUSH completes at once
theorem test_flush_with_nothing_to_write :
    (after .flushAcceptance (queued (entry .flush 0 0 .queued) ready)).frontOut = [.completion 3 .good 0] := by
  decide +kernel
-- R91: META goes before WRITE
theorem test_frame_grant_serves_meta_first :
    let s := after .frameGrant { ready with pool := { ready.pool with waitWrite := [.lane 0], waitMeta := [.notice] } }
    s.pool.waitMeta = [] ∧ s.pool.waitWrite = [.lane 0] := by decide +kernel
-- R123, R184: a block of zeros, then the completion
theorem test_read_data_delivery_of_zeros :
    (after (.readDataDelivery 4) (after (.read 4 50 1) ready)).frontOut = [.readData 4 50 0, .completion 4 .good 1] := by
  decide +kernel
-- R110: CHECKPOINT before READ; R103: the issue number
theorem test_arbiter_issues_lane_write :
    let s := withFrame { frameOf (.lane 6) .write cacheSeg 16 with closed := true, seq := some 9 }
      (ready.modLane 6 (fun c => { c with state := .opened, queues := ⟨[0], []⟩ }))
    ((after (.arbiterRun .A) s).ports.a.op.map (fun o => (o.req, o.loc))) = some (.lane 6, cacheSeg) ∧
      (after (.arbiterRun .A) s).ports.a.issue = 1 := by decide +kernel
theorem test_arbiter_at_down_port :
    (after (.arbiterRun .A) { ready with ports := Two.both Port.fresh }).ports.a.op = none := by decide +kernel
-- R48: the written pointer rises; R88: the frame is FREE again
theorem test_segment_write_done :
    let s := withOp .A .segmentWrite (.lane 0) bandSeg (some 0)
      (withFrame { frameOf (.lane 0) .write bandSeg 16 with closed := true, seq := some 9 }
        ((ready.modLane 0 (fun c => { c with state := .opened, act := some .A, band := some 0 })).modBand .A 0
          (fun b => { b with state := .opened, owner := some 0, reserved := 1, bound := 1 })))
    let t := after (.segmentWriteResult .A 7 .done) s
    (t.bandRec .A 0).written = 1 ∧ (t.frame 0).state = .free ∧ t.ports.a.op = none := by decide +kernel
-- R49, R51: truncated, health one worse
theorem test_segment_write_fault :
    let s := withOp .A .segmentWrite (.lane 0) bandSeg (some 0)
      (withFrame { frameOf (.lane 0) .write bandSeg 16 with closed := true, seq := some 9 }
        ((ready.modLane 0 (fun c => { c with state := .opened, act := some .A, band := some 0 })).modBand .A 0
          (fun b => { b with state := .opened, owner := some 0, reserved := 1, bound := 1 })))
    ((after (.segmentWriteResult .A 7 .writeFault) s).bandRec .A 0).state = .full ∧
      ((after (.segmentWriteResult .A 7 .writeFault) s).bandRec .A 0).health = 1 := by decide +kernel
-- R164, R162: a checkpoint ring without a stamp
theorem test_scan_of_blank_ring_unformatted :
    let s := ({ State.reset with
      ports := ⟨{ Port.fresh with up := true }, Port.fresh⟩
      recov := { Recovery.start with work := ⟨[⟨.ring 3840, 0, none⟩], []⟩, ring := [] } }).modPort .A (fun p =>
        { p with op := some ⟨.stampScan, 7, .scanner, ⟨.A, .ckring, 0, 3840⟩, 256, .through, 0, none, none, false, true, false⟩ })
    (after (.stampScanResult .A 7 (.entries [.found none none 0])) s).service = .unformatted ∧
      (after (.stampScanResult .A 7 (.entries [.found none none 0])) s).seq = some 1 := by decide +kernel
-- R155
theorem test_checkpoint_start :
    (after .checkpointStart { ready with ck := { ready.ck with wanted := true, ringTail := 4 } }).ck.run.map
      (fun r => (r.sStart, r.startPos)) = some (10, 4) := by decide +kernel
theorem test_checkpoint_start_under_gate :
    (after .checkpointStart { ready with wprot := true, gate := true, ck := { ready.ck with wanted := true } }).ck.run =
      none := by decide +kernel
-- R136, the worked table of section 8.3: C = 32,768; band X scores 720,076 and band Y 301,440
theorem test_victim_scores : victimScore 32768 8192 1172 = 720076 ∧ victimScore 32768 2048 157 = 301440 := by decide
-- R136: the greatest score below saturation, C = 65,536
theorem test_victim_score_greatest : victimScore 65536 1 4096 = 16772865 ∧ victimScore 65536 0 1 = 16777215 := by decide
-- R133: blank bands above RESERVE and every other trigger quiet
theorem test_trigger_test_finds_nothing : (after .reclaimTriggerTest ready).rc.job = none := by decide +kernel
-- R142: a move whose block is no longer at its source is DEAD
theorem test_commit_of_moved_block :
    let f : Frame := { frameOf (.lane 7) .reclaim bandSeg 1 with
      runs := [⟨100, 1, 0, some ⟨cacheSeg, 5⟩⟩], closed := true, written := true, seq := some 9 }
    let s := { withFrame f ready with extents := [⟨100, 1, .media ⟨cacheSeg, 6⟩⟩] }
    (after .reclaimCommit { s with rc := { s.rc with commitQ := [0] } }).extents = [⟨100, 1, .media ⟨cacheSeg, 6⟩⟩] := by
  decide +kernel
-- R107, R192
theorem test_port_down_posts : (after (.portDown .B) ready).ports.b.up = false ∧
    (after (.portDown .B) ready).exceptions = [⟨.portDown, .B, 1, 10, 0, 0⟩] := by decide +kernel
theorem test_port_up_after_reset : (after (.portUp .A) State.reset).ports.a.up = true := by decide +kernel
-- R103: 20 seconds for a SEGMENT WRITE
theorem test_response_timer :
    let s := withOp .A .segmentRead .read bandSeg none ready
    (after (.responseTimerExpiry .A) { s with now := 99999 }).ports.a.up = true ∧
      (after (.responseTimerExpiry .A) { s with now := 100000 }).ports.a.up = false := by decide +kernel
-- R78, R75: the idle timer closes the open frame, which takes the next sequence
theorem test_idle_timer_closes_frame :
    let s := (withFrame (frameOf (.lane 6) .write cacheSeg 1) ready).modLane 6
      (fun c => { c with state := .opened, openFrame := some 0, idleTimer := some 99800 })
    ((after (.idleTimerExpiry 6) s).lane 6).openFrame = none ∧ ((after (.idleTimerExpiry 6) s).frame 0).seq = some 10 := by
  decide +kernel
-- R79: 30 seconds of LANE_RELEASE
theorem test_release_timer_closes_lane :
    let s := ready.modLane 2 (fun c => { c with state := .opened, releaseTimer := some 70000 })
    ((after (.releaseTimerExpiry 2) s).lane 2).state = .closed ∧
      after (.releaseTimerExpiry 2) { s with now := 99999 } = { s with now := 99999 } := by decide +kernel
-- R100: WRITE_HELD_EXPIRED with the first block not pulled and their number
theorem test_hold_timer :
    (after .holdTimerExpiry { writing with phase := some { phase with hold := some .frame, holdTimer := some 95000 } }).exceptions
      = [⟨.writeHeldExpired, .A, 1, 10, 101, 1⟩] := by decide +kernel
-- R125: a READ kept back by a DOWN port for HOLD_LIMIT
theorem test_port_wait :
    let r : ReadRec := ⟨3, 100, 1, [.media ⟨bandSeg, 0⟩], 0, none, some 95000⟩
    let s := { ready with
      ports := Two.both Port.fresh, tags := ready.tags.set 3 (some (entry .read 100 1 .reading))
      rs := { ready.rs with reads := [r], entries := [⟨bandSeg, false, .queued, 0, none, [3], 0, 0, false⟩] } }
    (after (.portWaitExpiry 3) s).frontOut = [.completion 3 .mediaError 100] := by decide +kernel
-- R134: IDLE_MIGRATE is 5 seconds
theorem test_idle_clock :
    (after .idleClockExpiry { ready with rc := { ready.rc with idleClock := some 95000 } }).rc.idleExpired = true := by
  decide +kernel

/-! ## Maintenance writes -/

-- Section 13.5: part number 0x0420, revision 1, service state, epochs, LCAP, SEQ, straps
theorem test_identify :
    (after (.identify (toPart [])) ready).maint.payload.take 6 = [0x20, 0x04, 0x01, 0x01, 0x01, 0x00] := by decide +kernel
theorem test_identify_other_address : after (.identify ⟨89, []⟩) ready = ready := by decide +kernel
-- R190: STREAM_MIN's default is 64
theorem test_get_setting :
    (after (.getSetting (toPart [0x01])) ready).maint.payload = leBytes 8 64 ++ leBytes 8 64 := by decide +kernel
-- R8: SPB is rounded down to a multiple of 256
theorem test_set_setting_clamps :
    let s := after (.setSetting (toPart ([0x30] ++ leBytes 8 1000))) ready
    s.maint.status = .clamped ∧ s.pendGeom.spb = 768 := by decide +kernel
-- R191: RESERVE no higher than BLANK_LOW - 2
theorem test_apply_lowers_reserve :
    let s := after (.apply (toPart [])) { ready with maint := { ready.maint with pend := { ready.maint.pend with
      blankLow := 4, reserve := 4 } } }
    s.maint.status = .clamped ∧ s.maint.work.reserve = 2 := by decide +kernel
-- R9, the worked tables of section 1.4
theorem test_format_default_capacity :
    (after (.format (toPart [])) { State.reset with service := .unformatted, straps := ⟨false, false, true⟩ }).geom.map
      (fun g => g.lcap) = some 4695785472 := by decide +kernel
theorem test_format_smallest_geometry :
    (after (.format (toPart [])) { State.reset with
      service := .unformatted, straps := ⟨false, false, true⟩, pendGeom := ⟨256, 64, 64, 4096, 512, 2 ^ 40⟩
      maint := { Maint.fresh with work := { Settings.default with blankLow := 4 } } }).maint.status = .badGeometry := by
  decide +kernel
theorem test_checkpoint_command : (after (.checkpoint (toPart [])) ready).maint.status = .busy ∧
    (after (.checkpoint (toPart [])) ready).ck.wanted = true := by decide +kernel
theorem test_close_lanes_waits_for_phase : ((after (.closeLanes (toPart [])) writing).lane 6).giveUpLater = true := by
  decide +kernel
-- R193
theorem test_read_exception_empty : (after (.readException (toPart [])) ready).maint.status = .empty := by decide +kernel
theorem test_read_exception :
    let s := after (.readException (toPart [])) { ready with exceptions := [⟨.portDown, .B, 2, 10, 3, 0⟩] }
    s.exceptions = [] ∧ s.maint.payload.length = 18 ∧ s.attnAsserted = false := by decide +kernel
theorem test_band_census_length : (after (.bandCensus (toPart [])) ready).maint.payload.length = 99 := by decide +kernel
theorem test_lane_report_above_seven : (after (.laneReport (toPart [8])) ready).maint.status = .badArgument ∧
    (after (.laneReport (toPart [7])) ready).maint.payload.length = 65 := by decide +kernel
theorem test_band_report_range : (after (.bandReport (toPart [0, 64, 0])) ready).maint.status = .badArgument ∧
    (after (.bandReport (toPart [0, 63, 0])) ready).maint.status = .good := by decide +kernel
theorem test_reset_device : (after (.resetDevice (toPart []) ⟨false, false, true⟩) ready).service = .recovering := by
  decide +kernel
theorem test_unknown_command : (after (.unknownCommand (toPart []) 0x0C) ready).maint.status = .unknownCommand := by
  decide +kernel
theorem test_malformed : (after (.malformed 88 .endedEarly) ready).maint.status = .malformed := by decide +kernel
theorem test_port_busy_nack : after (.portBusyNack 88) ready = ready := by decide +kernel

/-! ## Witnesses: each shows that the hypotheses of the obligation it names can be met, clause by clause -/

theorem ready_unfaulted : ready.unfaulted := by show ∀ n < 8, _; decide +kernel
theorem ready_quiet : ready.quiet := ⟨⟨by decide +kernel, by decide +kernel⟩, by decide +kernel⟩
theorem writing_unfaulted : writing.unfaulted := by show ∀ n < 8, _; decide +kernel
theorem ready_hears : ready.hears 88 := ⟨by decide +kernel, by decide +kernel⟩
theorem empty_table : TableOk [] := ⟨List.Pairwise.nil, nofun⟩

theorem test_witness_StepTakesFrontCommand :
    ({ ready with pending := [.dataPull, .resetN] } : State).pending = .dataPull :: [.resetN] ∧ ready.pending = [] :=
  ⟨rfl, rfl⟩

theorem dataPull_resets_not : ¬ Resets .dataPull := by rintro (⟨_, _, h⟩ | h | ⟨_, h⟩ | ⟨_, _, h⟩) <;> cases h

theorem test_witness_EveryCommandAnswersNext : ¬ Resets .dataPull := dataPull_resets_not

theorem test_witness_WhatFollowsIsBounded : ready.unfaulted ∧ ready.calm ∧ ready.quiet :=
  ⟨ready_unfaulted, ready_quiet.1, ready_quiet⟩

/-- A sound state about to step: a WRITE in its data phase, an extent, and an exception. -/
def sound : State :=
  { writing with pending := [.writeData 3 9], exceptions := [⟨.portDown, .B, 255, 3, 0, 0⟩]
                 extents := [⟨90, 11, .lost⟩, ⟨101, 65536, .media ⟨bandSeg, 0⟩⟩] }

theorem sound_steps : ∃ t, step sound = .next t := ⟨after (.writeData 3 9) { sound with pending := [] }, rfl⟩
theorem sound_table : TableOk sound.extents := ⟨by decide +kernel, by decide +kernel⟩

theorem test_witness_GateFollowsLevelAlways : GateOk sound ∧ ∃ t, step sound = .next t :=
  ⟨fun _ => by decide +kernel, sound_steps⟩
theorem test_witness_PullWindowAlways : PullsOk sound ∧ ∃ t, step sound = .next t :=
  ⟨show sound.earmarks = phase.unanswered.length ∧ phase.next = phase.accepted + phase.unanswered.length ∧
    phase.next ≤ phase.count ∧ phase.unanswered.length ≤ Config.pullWindow by decide +kernel, sound_steps⟩
theorem test_witness_ExceptionListAlways : ExceptionsOk sound.exceptions ∧ ∃ t, step sound = .next t :=
  ⟨⟨by decide +kernel, by decide +kernel⟩, sound_steps⟩
theorem test_witness_TableSizesAlways : SizesOk sound ∧ PortsOk sound ∧ ∃ t, step sound = .next t :=
  ⟨⟨by decide +kernel, by decide +kernel⟩,
    ⟨⟨by decide +kernel, by decide +kernel⟩, ⟨by decide +kernel, by decide +kernel⟩⟩, sound_steps⟩
theorem test_witness_PoolCapsAlways : PoolOk sound.pool ∧ ∃ t, step sound = .next t :=
  ⟨⟨fun c => by cases c <;> decide +kernel, fun c => by cases c <;> decide +kernel⟩, sound_steps⟩
/-- A part whose RESET_N is asserted, with a command waiting. -/
def held : State := { after .resetN writing with pending := [.resetNDeasserted ⟨false, false, false⟩] }

theorem held_ok : HeldOk held := fun _ => ⟨rfl, rfl, rfl, rfl, rfl, rfl, rfl, rfl, rfl, rfl, rfl, rfl, rfl, rfl,
  fun a => by cases a <;> rfl⟩

theorem test_witness_ExtentTableOrderAlways :
    (HeldOk sound ∧ sound.recov = Recovery.off ∧ TableOk sound.extents ∧
      sound.extents.length + 2 * sound.earmarks ≤ 262144 ∧ ∃ t, step sound = .next t) ∧
    held.resetN = true ∧ HeldOk held ∧ ∃ t, step held = .next t :=
  ⟨⟨nofun, by decide +kernel, sound_table, by decide +kernel, sound_steps⟩, rfl, held_ok, _, rfl⟩
theorem test_witness_SoundAtReset : ∃ t, exec .resetN writing = .next t := ⟨_, rfl⟩
theorem test_witness_RingCountersAlways : sound.recov = Recovery.off ∧ RingsOk sound ∧ ∃ t, step sound = .next t :=
  ⟨by decide +kernel, fun a => by
    cases a <;> exact ⟨by decide +kernel, by decide +kernel, by decide +kernel, by decide +kernel, fun r h => by
      have : sound.ck.run = none := by decide +kernel
      simp [this] at h⟩, sound_steps⟩
theorem test_witness_SequencesNeverFall : sound.recov = Recovery.off ∧ ¬ Resets .dataPull ∧
    (∀ w, Instr.dataPull ≠ .format w) ∧ ∃ t, exec .dataPull sound = .next t :=
  ⟨by decide +kernel, dataPull_resets_not, nofun, _, rfl⟩

theorem test_witness_ResetsLeaveThePartFresh : ready.hears (toPart []).addr ∧ (toPart []).payload = [] ∧
    ready.resetN = false := ⟨ready_hears, rfl, by decide +kernel⟩

/-- The move of LBA 100 from slot 15 of segment 0 of cache ring A, in a state. -/
def moveIn (st : MoveState) : Move := ⟨100, ⟨cacheSeg, 15⟩, st, none⟩

/-- A running cache job of actuator A with these entries. -/
def jobOf (moves : List Move) : Job := { Job.fresh .idle .A none with running := true, moves := moves }

/-- A part with a job. -/
def withJob (j : Job) (s : State) : State := { s with rc := { s.rc with job := some j } }

/-- A job whose one block, LBA 100, is HELD in the source frame 0, with frame 1 open in lane 7 in band 0 of actuator A: this
many slots of it are filled, each a run of its own. -/
def handing (fill : Nat) : State :=
  let f := { frameOf (.lane 7) .reclaim bandSeg 0 with
    fill := fill, runs := (List.range fill).map (fun k => ⟨200 + 2 * k, 1, k, some ⟨cacheSeg, k⟩⟩) }
  let s := (withFrame (frameOf .reclaim .reclaim cacheSeg 0) ready).modFrame 1 (fun _ => f)
  let s := (s.modLane 7 (fun c => { c with state := .opened, act := some .A, band := some 0, openFrame := some 1 })).modBand .A 0
    (fun b => { b with state := .opened, owner := some 7, reserved := 1, bound := 1 })
  let s := withJob (jobOf [moveIn .held]) { s with extents := [⟨100, 1, .media ⟨cacheSeg, 15⟩⟩] }
  { s with rc := { s.rc with sources := [⟨cacheSeg, 0, some 0, .ready, true⟩] } }

/-- The part of `handing` with another job and no source read. -/
def passing (j : Job) : State := withJob j { handing 1 with rc := { (handing 1).rc with sources := [] } }

/-- The part of `passing` under the gate. -/
def protecting (moves : List Move) : State := { passing (jobOf moves) with wprot := true, gate := true }

theorem test_witness_WprotMovesTheGate : (writing.resetN = false ∧ writing.gate = false ∧ writing.lanes.length = 8) ∧
    (after .resetN ready).resetN = true ∧ ({ ready with seqLimit := true } : State).seqLimit = true ∧
    (let s := protecting [moveIn .pending]
     s.resetN = false ∧ s.gate = true ∧ (after .wprotDeasserted s).gate = false ∧ s.rc.job.isSome = true ∧
      s.rc.sources = [] ∧ (s.lane 7).openFrame = some 1 ∧ s.lanes.length = 8) ∧
    (let s := (protecting [moveIn .inLane]).modLane 7 (fun c => { c with openFrame := none })
     s.rc.job = some (jobOf [moveIn .inLane]) ∧ (moveIn .inLane).dst = none ∧ (s.lane 7).openFrame = none) ∧
    (handing 1).gate = false ∧ (∃ e ∈ (handing 1).rc.sources, e.live = true ∧ e.state = .ready) ∧
    pumpStep (withJob { jobOf [moveIn .inLane] with pauseProtect := true } (handing 1)) = none :=
  ⟨by decide +kernel, by decide +kernel, by decide +kernel, by decide +kernel, by decide +kernel, by decide +kernel,
    ⟨_, .head _, by decide +kernel⟩, by decide +kernel⟩

theorem not_fits {r : Arrival} (hk : r.kind ≠ .flush)
    (h : r.count = 0 ∨ (if r.kind = .release then 65536 else 256) < r.count ∨ 1048576 < r.lba + r.count) :
    ¬ ready.fits r := by
  rintro (h' | ⟨h1, h2, g, hg, h3⟩)
  · exact hk h'
  · have hg' : ready.geom = some geom := by decide +kernel
    have : g.lcap = 1048576 := by rw [hg'] at hg; cases hg; rfl
    omega

/-- A request that passes every check: the highest tag, the most blocks, a range that ends at LCAP. -/
theorem ready_admits (k : ReqKind) (hk : k ≠ .release) : ready.admits 63 ⟨k, 1048320, 256, false⟩ :=
  ⟨by decide, by decide +kernel, by decide +kernel,
    .inr ⟨by simp, by simp [hk], geom, by decide +kernel, by simp [geom]⟩, fun _ => by decide +kernel⟩

theorem test_witness_ArrivingRequestsAreChecked :
    Requests (.read 64 0 1) 64 ⟨.read, 0, 1, false⟩ ∧ (63 < 64 ∧ (writing.tag 3).isSome = true) ∧
    (Requests (.flush 63) 63 ⟨.flush, 0, 0, false⟩ ∧ State.reset.tag 63 = none ∧ State.reset.service ≠ .ready) ∧
    (Requests (.write 63 1048321 256 1) 63 ⟨.write, 1048321, 256, true⟩ ∧
      ¬ ready.fits ⟨.write, 1048321, 256, true⟩ ∧ ¬ ready.fits ⟨.read, 0, 257, false⟩ ∧
      ¬ ready.fits ⟨.release, 0, 65537, false⟩ ∧ ¬ ready.fits ⟨.read, 0, 0, false⟩) ∧
    (let s := { ready with wprot := true, gate := true };
      s.tag 63 = none ∧ s.service = .ready ∧ s.gate = true) ∧
    Requests (.write 63 1048320 256 0) 63 ⟨.write, 1048320, 256, false⟩ ∧
    ready.admits 63 ⟨.write, 1048320, 256, false⟩ :=
  ⟨.read 64 0 1, ⟨by decide, by decide +kernel⟩, ⟨.flush 63, by decide +kernel⟩,
    ⟨.write 63 1048321 256 1, not_fits nofun (.inr (.inr (by decide))), not_fits nofun (.inr (.inl (by decide))),
      not_fits nofun (.inr (.inl (by decide))), not_fits nofun (.inl rfl)⟩, by decide +kernel,
    .write 63 1048320 256 0, ready_admits .write nofun⟩

/-- Two blocks at LBA 100, the first MEDIA and the second LOST. -/
def halfLost : State := { ready with extents := [⟨100, 1, .media ⟨bandSeg, 0⟩⟩, ⟨101, 1, .lost⟩] }

/-- A segment of band 0 of actuator A. -/
def inBand (seg : Nat) : SegLoc := ⟨.A, .band, 0, seg⟩

/-- A part under CONTINUOUS with 64 blocks at LBA 100 in four segments of band 0: a READ reads the first, the second was
fetched ahead, the third is on the media alone and the fourth still in its frame. -/
def streaming : State :=
  let s := withFrame { frameOf .readServer .read (inBand 0) 0 with pins := 0 } ready
  let s := s.modFrame 1 (fun _ => frameOf .readServer .read (inBand 1) 0)
  let s := s.modFrame 2 (fun _ => frameOf (.lane 0) .write (inBand 3) 16)
  { s.modBand .A 0 (fun b => { b with state := .full, written := 256, valid := 64, extents := 1 }) with
    maint := { ready.maint with work := { ready.work with readAhead := .continuous } }
    extents := [⟨100, 64, .media ⟨inBand 0, 0⟩⟩]
    tags := ready.tags.set 3 (some (entry .read 100 1 .reading))
    rs := { ready.rs with
      reads := [⟨3, 100, 1, [.media ⟨inBand 0, 0⟩], 0, none, none⟩], order := 2
      entries := [⟨inBand 0, false, .ready, 0, some 0, [3], 0, 0, false⟩, ⟨inBand 1, true, .ready, 0, some 1, [], 1, 0, false⟩]
      ahead := ⟨⟨some 100, some 0, some 0⟩, ⟨none, none, none⟩⟩ } }

/-- The READ whose next block lies in the second segment of band 0, and its last in the first. -/
def stallingRead : ReadRec := ⟨3, 100, 2, [.media ⟨inBand 1, 0⟩, .media ⟨inBand 0, 0⟩], 0, none, none⟩

/-- An entry of `stallingRead`. -/
def stallingEntry (seg : Nat) (st : EntryState) (frame : Option Nat) : ReadEntry :=
  ⟨inBand seg, false, st, 0, frame, [3], seg, 0, false⟩

/-- A part where the entry of the first segment is READY and the second waits for a frame. -/
def stalling : State :=
  { withFrame (frameOf .readServer .read (inBand 0) 0) ready with
    pool := (withFrame (frameOf .readServer .read (inBand 0) 0) ready).pool.setQueue .read [.readEntry (inBand 1)]
    rs := { ready.rs with reads := [stallingRead]
                          entries := [stallingEntry 0 .ready (some 0), stallingEntry 1 .waitingFrame none] } }

theorem test_witness_ReadResolvesEachBlock :
    (halfLost.admits 63 ⟨.read, 100, 2, false⟩ ∧ ∀ r ∈ halfLost.rs.reads, r.tag ≠ 63) ∧
    lookup halfLost.extents 101 = .lost ∧
    ((∀ i < 1, lookup halfLost.extents (100 + i) ≠ .lost) ∧ lookup halfLost.extents (100 + 1) = .lost) ∧
    (∀ i < 2, lookup ready.extents (100 + i) ≠ .lost) ∧
    (streaming.admits 63 ⟨.read, 100, 64, false⟩ ∧ (∀ r ∈ streaming.rs.reads, r.tag ≠ 63) ∧ streaming.calm ∧
      (streaming.rs.entries.map (fun e => e.loc)).Nodup ∧
      ∀ e ∈ streaming.rs.entries, ∀ id, e.frame = some id → (streaming.frame id).state = .inUse) ∧
    (-- joined, taken over, new and ready to be pinned in its frame
      (∀ k < 64, lookup streaming.extents (100 + k) = .media ⟨inBand (k / 16), k % 16⟩) ∧
      (streaming.entry (inBand 0)).map (fun e => e.ahead) = some false ∧
      (streaming.entry (inBand 1)).map (fun e => e.ahead) = some true ∧
      streaming.holder (inBand 2) = none ∧ streaming.entry (inBand 2) = none ∧ streaming.holder (inBand 3) = some 2 ∧
      -- sequential, and the segment after it may be fetched
      (streaming.rs.ahead.get .A).endLba = some 100 ∧ streaming.work.readAhead = .continuous ∧
      4 < (streaming.bandRec .A 0).written ∧ (streaming.bandRec .A 0).state = .full ∧
      -- the queue empty with room for one entry, and not empty
      streaming.pool.waitRead = [] ∧ 1 ≤ 64 - streaming.pool.held .read ∧
      1 ≤ streaming.pool.freeCount - ((16 - streaming.pool.held .reclaim) + (4 - streaming.pool.held .metadata)) ∧
      stalling.pool.waitRead ≠ []) ∧
    (.readEntry (inBand 1) ∈ stalling.pool.waitRead ∧ stalling.rs.entries[0]? = some (stallingEntry 0 .ready (some 0)) ∧
      stalling.rs.entries[1]? = some (stallingEntry 1 .waitingFrame none) ∧
      stalling.readRec 3 = some stallingRead ∧ stallingRead.next < stallingRead.count ∧
      stallingRead.sources[stallingRead.next]? = some (.media ⟨inBand 1, 0⟩) ∧
      (∀ r ∈ stalling.rs.reads, r.sources.length = r.count) ∧ (stalling.frame 0).state = .inUse ∧
      (stalling.frame 0).pins = 0 ∧ 0 < stalling.pool.frames.length) ∧ ready.pool.waitRead = [] := by
  refine ⟨⟨⟨by decide, by decide +kernel, by decide +kernel, .inr ⟨by decide, by decide, geom, by decide +kernel⟩,
    fun _ => by decide +kernel⟩, by decide +kernel⟩, by decide +kernel, by decide +kernel, by decide +kernel,
    ⟨⟨by decide, by decide +kernel, by decide +kernel, .inr ⟨by decide, by decide, geom, by decide +kernel⟩,
    fun _ => by decide +kernel⟩, by decide +kernel, ⟨by decide +kernel, by decide +kernel⟩, by decide +kernel, ?_⟩,
    by decide +kernel, by decide +kernel, by decide +kernel⟩
  rintro e (_ | ⟨_, _ | ⟨_, h⟩⟩) id he
  · cases he; decide +kernel
  · cases he; decide +kernel
  · cases h

/-- A READ of two blocks at LBA 100 with its first block still to be delivered; one block lies on a DOWN port. -/
def keptBack (sources : List Source) : State :=
  { ready with
    ports := Two.both Port.fresh, tags := ready.tags.set 3 (some (entry .read 100 2 .reading))
    rs := { ready.rs with reads := [⟨3, 100, 2, sources, 0, none, some 95000⟩]
                          entries := [⟨bandSeg, false, .queued, 0, none, [3], 0, 0, false⟩] } }

theorem test_witness_EventsNotDueChangeNothing :
    (∀ o, (ready.port .A).op = some o → o.issue ≠ 7) ∧ (∀ p, ready.phase = some p → p.tag = 3 → p.unanswered = []) ∧
    (∀ t e, writing.intake.head? = some t → writing.tag t = some e → e.kind ≠ .write ∨ writing.phase ≠ none) ∧
    (∀ t e, writing.intake.head? = some t → writing.tag t = some e → e.kind ≠ .release) ∧
    (∀ t e, writing.intake.head? = some t → writing.tag t = some e → e.kind ≠ .flush) ∧ ready.phase = none ∧
    (State.reset.port .A).up = false ∧ (ready.port .A).up = true ∧
    (∀ t, (({ withOp .A .segmentRead .read bandSeg none ready with now := 99999 } : State).port .A).timer = some t →
      99999 - t < 20000) ∧
    (let s := (withOp .B .stampScan .scanner bandSeg none ready).modPort .B (fun p => { p with timer := some 40001 })
     (∀ t, (s.port .B).timer = some t → s.now - t < 60000) ∧ (s.port .B).op.map (fun o => o.kind) = some .stampScan) ∧
    (∀ r ∈ (keptBack [.zero, .zero]).rs.reads, r.tag = 3 ∧ r.waitTimer = some 95000 ∧
      ({ keptBack [.zero, .zero] with now := 99999 } : State).now - 95000 < (keptBack [.zero, .zero]).work.holdLimit) ∧
    (∀ t, ((ready.modLane 2 (fun c => { c with idleTimer := some 99801, releaseTimer := some 70001 })).lane 2).idleTimer =
      some t → ready.now - t < ready.work.idleLimit) ∧
    (∀ t, ((ready.modLane 2 (fun c => { c with idleTimer := some 99801, releaseTimer := some 70001 })).lane 2).releaseTimer =
      some t → ready.now - t < ready.work.laneRelease * 1000) ∧
    (∀ p t, writing.phase = some p → p.holdTimer = some t → writing.now - t < writing.work.holdLimit) ∧
    ∀ t, ({ ready with rc := { ready.rc with idleClock := some 95001 } } : State).rc.idleClock = some t →
      ready.now - t < ready.work.idleMigrate * 1000 := by
  have e1 : (ready.port .A).op = none := by decide +kernel
  have e2 : ready.phase = none := by decide +kernel
  have e3 : writing.intake.head? = some 3 := by decide +kernel
  have e4 : writing.tag 3 = some (entry .write 100 2 .inTurn) := by decide +kernel
  have e5 : writing.phase = some phase := by decide +kernel
  refine ⟨by simp [e1], by simp [e2], ?_, ?_, ?_, e2, by decide +kernel, by decide +kernel, ?_, ⟨?_, by decide +kernel⟩, by decide +kernel,
    ?_, ?_, ?_, ?_⟩
  · exact fun _ _ _ _ => .inr (by rw [e5]; nofun)
  · rintro t e h1 h2; cases e3.symm.trans h1; cases e4.symm.trans h2; decide
  · rintro t e h1 h2; cases e3.symm.trans h1; cases e4.symm.trans h2; decide
  · rintro t h; cases (show some 80000 = some t from h); decide
  · rintro t h; cases (show some 40001 = some t from h); decide +kernel
  · rintro t h; cases (show some 99801 = some t from h); decide +kernel
  · rintro t h; cases (show some 70001 = some t from h); decide +kernel
  · rintro p t h1 h2; cases e5.symm.trans h1; cases h2
  · rintro t h; cases (show some 95001 = some t from h); decide +kernel

theorem test_witness_WriteDataPlacesBlock :
    writing.phase = some phase ∧ phase.tag = (3 : Byte).toNat ∧ phase.unanswered = ⟨100, 0, 0, 6⟩ :: [] ∧
    (writing.frame 0).bound = some cacheSeg ∧ 1 ≤ writing.earmarks ∧
    writing.extents.length + 2 * writing.earmarks ≤ 262144 ∧ TableOk writing.extents ∧ writing.unfaulted ∧
    (after (.writeData 3 9) writing).phase ≠ none ∧ writing.rc.job = none ∧ writing.rs.entries = [] ∧ SizesOk writing ∧
    (writing.frame 0).payload.length = 16 ∧ 0 < (writing.frame 0).fill :=
  ⟨by decide +kernel, rfl, rfl, by decide +kernel, by decide +kernel, by decide +kernel, empty_table, writing_unfaulted,
    by decide +kernel, by decide +kernel, by decide +kernel, ⟨by decide +kernel, by decide +kernel⟩, by decide +kernel⟩

/-- A READ of two blocks at LBA 100 with this source for both, at its first or its last block. -/
def reading (next : Nat) (src : Source) : State :=
  { withFrame { frameOf .readServer .read bandSeg 0 with pins := 1 } ready with
    tags := ready.tags.set 3 (some (entry .read 100 2 .reading))
    rs := { ready.rs with reads := [⟨3, 100, 2, [src, src], next, none, none⟩]
                          entries := [⟨bandSeg, false, .ready, 0, some 0, [3], 0, 0, false⟩] } }

/-- A READ of three blocks, zeros, a block of an entry that is READY and one at which this failure is recorded. -/
def cutShort (next : Nat) (f : ReadFail) : ReadRec := ⟨3, 100, 3, [.zero, .media ⟨bandSeg, 15⟩, .absent], next, some (2, f, .B), none⟩

/-- The part of `reading` with that READ. -/
def cutting (next : Nat) (f : ReadFail) : State :=
  let s := reading 0 .zero
  { s with rs := { s.rs with reads := [cutShort next f] } }

-- R124: the block below the failing LBA is delivered, then the outcome; READ_FAILED for MEDIA_ERROR alone
theorem test_failed_read_ends :
    (after (.readDataDelivery 3) (cutting 1 .lost)).frontOut = [.readData 3 101 0, .completion 3 .lost 102] ∧
    (after (.readDataDelivery 3) (cutting 1 .lost)).exceptions = [] ∧
    (after (.readDataDelivery 3) (cutting 1 .mediaError)).exceptions = [⟨.readFailed, .B, 1, 10, 102, 1⟩] := by decide +kernel

theorem test_witness_ReadDeliversNextBlock :
    (∀ next ≤ 1, ∀ src ∈ [Source.zero, .frame 0 ⟨bandSeg, 15⟩, .media ⟨bandSeg, 15⟩],
      (reading next src).readRec (3 : Byte).toNat = some ⟨3, 100, 2, [src, src], next, none, none⟩) ∧
    (∀ next ≤ 1, ∀ f ∈ [ReadFail.lost, .mediaError], (cutting next f).readRec (3 : Byte).toNat = some (cutShort next f) ∧
      next < 2 ∧ (cutShort next f).failing = some (2, f, .B) ∧ ((cutShort next f).sources[next]?).isSome = true) ∧
    ((reading 0 .zero).entry bandSeg = some ⟨bandSeg, false, .ready, 0, some 0, [3], 0, 0, false⟩) ∧
    (∀ e, (reading 0 .zero).entry cacheSeg = some e → e.state ≠ .ready) := by
  refine ⟨by decide +kernel, by decide +kernel, by decide +kernel, ?_⟩
  have h : (reading 0 .zero).entry cacheSeg = none := by decide +kernel
  simp [h]

theorem test_witness_PortWaitExpiryFailsRead :
    (let s := keptBack [.media ⟨bandSeg, 0⟩, .zero];
      s.work.holdLimit ≤ s.now - 95000 ∧ (s.readRec 3).bind s.blockedAt = some (0, .A)) ∧
    (let s := keptBack [.zero, .media ⟨bandSeg, 0⟩];
      s.work.holdLimit ≤ s.now - 95000 ∧ (s.readRec 3).bind s.blockedAt = some (1, .A)) := by decide +kernel

theorem test_witness_FrontLinkResetDropsRequests : PullsOk writing :=
  show writing.earmarks = phase.unanswered.length ∧ phase.next = phase.accepted + phase.unanswered.length ∧
    phase.next ≤ phase.count ∧ phase.unanswered.length ≤ Config.pullWindow by decide +kernel

/-- A WRITE of this many blocks at LBA 100 at the head of the intake, with every lane of 0 to 5 in a state. -/
def turnOf (count : Nat) (st : LaneState) (last : Nat) : State :=
  queued (entry .write 100 count .queued) { ready with
    lanes := ready.lanes.map (fun c => { c with state := st, lastAccept := some last }) }

theorem test_witness_WriteStartsPhaseInItsLane :
    (SizesOk (turnOf 64 .closed 0) ∧ (turnOf 64 .closed 0).intake.head? = some 3 ∧
      (turnOf 64 .closed 0).tag 3 = some (entry .write 100 64 .queued) ∧ (turnOf 64 .closed 0).phase = none ∧
      (turnOf 64 .closed 0).gate = false) ∧
    (((turnOf 64 .opened 0).modLane 5 (fun c => { c with nextLba := some 100 })).lane 5).nextLba = some 100 ∧
    (∀ n < 6, ((turnOf 64 .opened 0).lane n).nextLba ≠ some 100) ∧
    ([(⟨96, 0xF8, 2, true⟩ : Window)].find? (fun w => w.enabled && decide (100 &&& w.mask = w.base &&& w.mask)) =
      some ⟨96, 0xF8, 2, true⟩) ∧
    ((turnOf 64 .closed 0).work.windows.find? (fun w => w.enabled && decide (100 &&& w.mask = w.base &&& w.mask)) = none) ∧
    63 < (turnOf 63 .closed 0).work.streamMin ∧ (turnOf 64 .closed 0).work.streamMin ≤ 64 ∧
    ((turnOf 64 .closed 0).work.windowBound 0 = false ∧ ((turnOf 64 .closed 0).lane 0).state = .closed) ∧
    (∀ n < 6, ((turnOf 64 .waiting 0).lane n).state = .waiting) ∧
    (∀ n < 6, ((turnOf 64 .opened 99800).lane n).state = .opened ∧
      ((turnOf 64 .opened 99800).work.idleLimit ≤
        (turnOf 64 .opened 99800).now - ((turnOf 64 .opened 99800).lane n).lastAccept.getD 0) ∧
      (turnOf 64 .opened 99801).now - ((turnOf 64 .opened 99801).lane n).lastAccept.getD 0 <
        (turnOf 64 .opened 99801).work.idleLimit) :=
  ⟨⟨⟨by decide +kernel, by decide +kernel⟩, by decide +kernel⟩, by decide +kernel⟩

theorem test_witness_ProtectedTurnRefused : ∀ k ∈ [ReqKind.write, .release],
    let s := queued (entry k 100 2 .queued) { ready with wprot := true, gate := true }
    s.intake = 3 :: [] ∧ s.tag 3 = some (entry k 100 2 .queued) ∧ s.phase = none ∧ s.gate = true := by decide +kernel

theorem test_witness_PullPromisesSlot :
    writing.phase = some phase ∧ phase.stopped = false ∧ phase.next < phase.count ∧ phase.unanswered.length < 16 ∧
    writing.laneLost phase.lane = false ∧ (writing.lane phase.lane).openFrame = some 0 ∧ (writing.frame 0).fill < 16 ∧
    needsNinthRun (writing.frame 0).runs (phase.lba + phase.next) none = false ∧ writing.creditPasses phase 0 = true ∧
    66 ≤ { writing with earmarks := 131039 }.freeRecords := by decide +kernel

/-- The WRITE of `writing` with no open frame in its lane. -/
def frameless (st : LaneState) : State := writing.modLane 6 (fun c => { c with openFrame := none, state := st })

/-- The WRITE of `writing` under band pressure in a band of actuator A without credit. -/
def creditless : State :=
  let s := withFrame { frameOf (.lane 0) .write bandSeg 1 with promises := 1 } writing
  { s.modLane 0 (fun c => { c with state := .opened, act := some .A, band := some 0, openFrame := some 0 }) with
    phase := some { phase with lane := 0 }, credit := ⟨⟨true, 0⟩, ⟨false, 0⟩⟩ }

/-- The WRITE of `writing` in stream lane 0 with frame 1 granted to it and no band to be had on either actuator. -/
def bandless : State :=
  let s := writing.modFrame 1 (fun _ => { Frame.free with state := .inUse, cls := some .write, owner := some (.lane 0) })
  { s.modLane 0 (fun c => { c with state := .opened, granted := some 1 }) with
    phase := some { phase with lane := 0 }, bm := Two.both ⟨List.replicate 64 { Band.blank with state := .full }, [], ⟨0, 0, 0, 0, []⟩⟩ }

/-- The WRITE of `frameless` with both cache rings full and every stream lane in use by a stream just served. -/
def ringless : State :=
  let s := ((frameless .opened).modRing .A (fun r => { r with tail := 1024 })).modRing .B (fun r => { r with tail := 1024 })
  { s with lanes := s.lanes.map (fun c => { c with state := .opened, lastAccept := some 99801 }) }

/-- The WRITE of `writing` in stream lane 0, which is OPEN with this actuator and band and no open frame. -/
def opening (act : Option Actuator) (band : Option Nat) : State :=
  { writing.modLane 0 (fun c => { c with state := .opened, act := act, band := band }) with phase := some { phase with lane := 0 } }

/-- `opening` in band 0 of actuator A, owned by lane 0, with this reserved pointer. -/
def appending (reserved : Nat) : State :=
  (opening (some .A) (some 0)).modBand .A 0 (fun b => { b with state := .opened, owner := some 0, reserved := reserved, written := 3 })

/-- `opening` with band 5 parked on actuator A at this pointer. -/
def continuing (act : Option Actuator) (reserved : Nat) : State :=
  let s := (opening act none).modBand .A 5 (fun b => { b with state := .parked, reserved := reserved, written := reserved })
  s.modMgr .A (fun m => { m with parked := [5] })

/-- `opening` with no band to be had on actuator A. -/
def fallingBack : State :=
  let s := opening (some .A) none
  { s with bm := ⟨⟨List.replicate 64 { Band.blank with state := .full }, [], s.bm.a.ring⟩, s.bm.b⟩ }

/-- The WRITE of `ringless` where the stream lane 3 has accepted nothing for IDLE_LIMIT and holds a band, or where it is CLOSED. -/
def overflowing (st : LaneState) (bound : Nat) : State :=
  let s := ringless.modLane 3 (fun c => if st = .closed then Lane.fresh
    else { c with lastAccept := some 99800, act := some .B, band := some 7, nextLba := some 9 })
  s.modBand .B 7 (fun b => { b with state := .opened, owner := some 3, reserved := 4, written := 4 - bound, bound := bound })

/-- Whether the block at the gate of a state waits for its OPEN lane to open a frame, frame 1 being the first FREE one. -/
def opensFrame (s : State) : Bool :=
  decide (s.phase.map (fun p => (p.stopped, p.next, p.count, p.unanswered.length, s.laneLost p.lane)) =
    some (false, 1, 2, 1, false)) &&
  decide (s.phase.map (fun p => ((s.lane p.lane).granted, (s.lane p.lane).openFrame, (s.lane p.lane).state)) =
    some (none, none, .opened)) &&
  decide (s.lanes.length = 8) && !s.gate && !s.seqLimit && decide (s.ck.dComplete < 2 * s.work.ckSegments) &&
  decide (1 < s.pool.frames.length) && s.pool.waitWrite.isEmpty && s.pool.passes .write && decide ((s.frame 1).state = .free) &&
  decide ((s.frame 0).state ≠ .free) && decide (s.service = .ready)

/-- `opening` with lane 0 back in CLOSED, and no band to be had for it. -/
def returned : State :=
  let full := List.replicate 64 { Band.blank with state := .full }
  let s := (opening none none).modLane 0 (fun _ => Lane.fresh)
  { s with now := 700, bm := ⟨⟨full, [], s.bm.a.ring⟩, ⟨full, [], s.bm.b.ring⟩⟩ }

-- R65: a lane that leaves CLOSED for WAITING is assigned, and a lane in OPEN keeps its last acceptance (log 7)
theorem test_waiting_lane_has_a_last_acceptance :
    (let t := after .dataPull returned
     (((t.lane 0).state, (t.lane 0).lastAccept), t.phase.bind (fun p => p.hold)) = ((.waiting, some 700), some .place)) ∧
    (let t := after .dataPull (returned.modLane 0 (fun c => { c with state := .opened, lastAccept := some 40 }))
     ((t.lane 0).state, (t.lane 0).lastAccept) = (.waiting, some 40)) := by
  decide +kernel

theorem test_witness_PullPromisesSlot_frames :
    ∀ s ∈ [appending 0, appending 255, continuing none 254, continuing (some .A) 255, opening none none, fallingBack,
      frameless .opened, overflowing .closed 0, overflowing .opened 0, overflowing .opened 1], opensFrame s = true := by
  decide +kernel

theorem test_witness_PullPromisesSlot_opens :
    -- the band that the lane owns, at its first and at its last segment
    (∀ r ∈ [0, 255], ((appending r).bandRec .A 0).state = .opened ∧ ((appending r).bandRec .A 0).owner = some 0 ∧
      ((appending r).bandRec .A 0).reserved = r ∧ r < (appending r).spb) ∧
    -- a parked band of the lane's actuator, or of the one with more room; a BLANK one; the other actuator's
    (((continuing (some .A) 255).bm.get .A).parked.head? = some 5 ∧ ((continuing none 254).bm.get .A).parked.head? = some 5 ∧
      (continuing none 254).blankCount .A + (continuing none 254).countIn .A .parked = 64 ∧
      (continuing none 254).blankCount .B = 64) ∧
    ((opening none none).work.reserve < (opening none none).blankCount .A ∧ ((opening none none).bandRec .A 0).state = .blank) ∧
    (fallingBack.bm.a.parked = [] ∧ fallingBack.blankCount .A ≤ fallingBack.work.reserve ∧ (fallingBack.port .B).up = true ∧
      (fallingBack.bandRec .B 0).state = .blank ∧ fallingBack.work.reserve < fallingBack.blankCount .B) ∧
    -- a frame granted before
    (let s := bandless; (s.lane 0).granted = some 1 ∧ (s.frame 1).fill = 0 ∧ (s.frame 1).runs = [] ∧ (s.frame 1).pins = 0) ∧
    -- a ring with room, and one with more
    ((frameless .opened).mcs = 1024 ∧ ((frameless .opened).ring .A).tail = 1 ∧ ((frameless .opened).ring .B).tail = 0) ∧
    -- a FAULTED lane, and one whose port is DOWN
    (let s := (opening none none).modLane 0 (fun c => { c with state := .faulted })
     s.laneLost 0 = true ∧ (s.lane 6).state ≠ .closed) ∧
    (let s := { opening (some .A) none with ports := Two.both Port.fresh }.modLane 6 (fun _ => Lane.fresh)
     s.laneLost 0 = true ∧ (s.lane 6).state = .closed) ∧
    -- no segment on either ring
    (∀ st ∈ [LaneState.closed, .opened], ∀ a ∈ [Actuator.A, .B],
      (overflowing st 0).mcs - (((overflowing st 0).ring a).tail - ((overflowing st 0).ring a).freeHead) = 0) ∧
    (((overflowing .closed 0).lane 3).state = .closed ∧ ((overflowing .closed 0).lane 3).act = none ∧
      ((overflowing .closed 0).lane 3).openFrame = none ∧ (∀ k < 3, ((overflowing .closed 0).lane k).state = .opened)) ∧
    (∀ b ≤ 1, (overflowing .opened b).work.idleLimit ≤ (overflowing .opened b).now - 99800 ∧
      (∀ k < 6, ((overflowing .opened b).lane k).state = .opened ∧ (k ≠ 3 → ((overflowing .opened b).lane k).lastAccept = some 99801)) ∧
      (overflowing .opened b).work.windowBound 3 = false ∧ ((overflowing .opened b).lane 3).band = some 7 ∧
      ((overflowing .opened b).bandRec .B 7).owner = some 3 ∧ ((overflowing .opened b).bandRec .B 7).bound = b) := by
  refine ⟨?_, ?_, ?_, ?_, ?_, ?_, ?_, ?_, ?_, ?_, ?_⟩ <;> decide +kernel

-- R43, R45, R70: where the block goes
theorem test_pull_opens_frames :
    ((after .dataPull (appending 255)).bandRec .A 0).state = .draining ∧ ((after .dataPull (appending 255)).lane 0).band = none ∧
    ((after .dataPull (continuing (some .A) 200)).frame 1).bound = some ⟨.A, .band, 5, 200⟩ ∧
    ((after .dataPull fallingBack).frame 1).bound = some ⟨.B, .band, 0, 0⟩ ∧
    ((after .dataPull (frameless .opened)).frame 1).bound = some ⟨.B, .cache, 0, 0⟩ ∧
    ((after .dataPull (overflowing .opened 0)).lane 3).act = some .A ∧
    ((after .dataPull (overflowing .opened 0)).bandRec .B 7).state = .parked := by
  refine ⟨?_, ?_, ?_, ?_, ?_, ?_, ?_⟩ <;> decide +kernel

theorem test_witness_HeldBlockNamesCause :
    (writing.phase = some phase ∧ phase.stopped = false ∧ phase.next < phase.count ∧ phase.unanswered.length < 16 ∧
      writing.laneLost phase.lane = false) ∧
    ((frameless .opened).laneLost 6 = false ∧ ((frameless .opened).lane 6).openFrame = none ∧
      (frameless .opened).rc.job = none ∧ ∀ n < 8, ((frameless .opened).lane n).state ≠ .faulted) ∧
    (let s := { frameless .opened with wprot := true, gate := true }; s.gate = true ∧ s.gateLevel = true) ∧
    ((frameless .waiting).gate = false ∧ (frameless .waiting).gateLevel = false ∧
      ((frameless .waiting).lane 6).state = .waiting) ∧
    (let s := { frameless .opened with
      pool := { ready.pool with frames := List.replicate 256 (frameOf (.lane 6) .write cacheSeg 1) } }
     s.gate = false ∧ (s.lane 6).state ≠ .waiting ∧ (s.lane 6).granted = none ∧ s.pool.passes .write = false) ∧
    ((frameless .opened).lanes.length = 8 ∧ ((frameless .opened).lane 6).state = .opened ∧
      (frameless .opened).pool.queue .write = [] ∧ (frameless .opened).pool.passes .write = true) ∧
    (let s := { frameless .opened with ck := { ready.ck with dComplete := 65536 } }; 2 * s.work.ckSegments ≤ s.ck.dComplete) ∧
    (let s := bandless
     s.phase = some { phase with lane := 0 } ∧ s.laneLost 0 = false ∧ (s.lane 0).openFrame = none ∧
      (s.lane 0).state = .opened ∧ (s.lane 0).granted = some 1 ∧ 1 < s.pool.frames.length ∧ (s.frame 1).state = .inUse ∧
      (s.frame 1).pins = 0 ∧ (s.lane 0).band = none ∧ s.gate = false ∧ s.gateLevel = false ∧ s.rc.job = none ∧
      (∀ n < 8, (s.lane n).state ≠ .faulted) ∧
      ∀ a ∈ [Actuator.A, .B], (s.bm.get a).parked = [] ∧ s.blankCount a ≤ s.work.reserve) ∧
    (let s := ringless; (∀ a ∈ [Actuator.A, .B], s.ringFree a = 0) ∧ (s.lane 6).openFrame = none ∧
      (s.lane 6).state = .opened ∧ ∀ n < 6, (s.lane n).state = .opened ∧
        s.now - (s.lane n).lastAccept.getD 0 < s.work.idleLimit) ∧
    (creditless.phase = some { phase with lane := 0 } ∧ (creditless.lane 0).openFrame = some 0 ∧
      (creditless.frame 0).fill < 16 ∧ needsNinthRun (creditless.frame 0).runs 101 none = false ∧
      creditless.rc.job = none ∧ (∀ n < 8, (creditless.lane n).state ≠ .faulted) ∧ creditless.gate = creditless.gateLevel ∧
      creditless.laneLost 0 = false ∧ creditless.creditPasses { phase with lane := 0 } 0 = false) ∧
    (writing.creditPasses phase 0 = true ∧ { writing with earmarks := 131040 }.freeRecords < 66) := by
  refine ⟨?_, ?_, ?_, ?_, ?_, ?_, ?_, ?_, ?_, ?_, ?_⟩ <;> decide +kernel

theorem test_witness_ReleaseUnmapsAndJoinsBatch :
    let s := queued (entry .release 100 2 .queued) ready
    (s.intake.head? = some 3 ∧ s.tag 3 = some (entry .release 100 2 .queued) ∧ s.gate = false) ∧
    (66 ≤ s.freeRecords ∧ (s.port .A).up = true ∧ 98 ≤ s.ckFree ∧ s.ck.batch.length < 4096 ∧ s.extents = [] ∧
      ∀ n < 8, (s.lane n).state ≠ .faulted) ∧
    { s with earmarks := 131040 }.freeRecords < 66 ∧ ({ s with ports := Two.both Port.fresh }.port .A).up = false ∧
    { s with ck := { s.ck with ringTail := 415 } }.ckFree < 98 ∧ (List.replicate 4096 (0 : Nat)).length = 4096 := by
  decide +kernel

/-- A FLUSH at the head of the intake of a part with one unwritten DATA frame. -/
def flushing : State :=
  withFrame { frameOf (.lane 6) .write cacheSeg 1 with closed := true } (queued (entry .flush 0 0 .queued) ready)

theorem flushing_quiet : flushing.quiet := ⟨⟨by decide +kernel, by decide +kernel⟩, by decide +kernel⟩

theorem test_witness_FlushClosesAndCompletes :
    (flushing.intake = 3 :: [] ∧ flushing.tag 3 = some (entry .flush 0 0 .queued) ∧ flushing.lanes.length = 8) ∧
    (let s := queued (entry .flush 0 0 .queued) ready;
      (∀ n < 7, (s.lane n).openFrame = none) ∧ (∀ f ∈ s.pool.frames, f.state ≠ .inUse ∧ 3 ∉ f.waiters) ∧
      s.openReleases = []) ∧
    (∀ n < 7, (flushing.lane n).openFrame = none) ∧ flushing.gate = false ∧ flushing.quiet ∧
    ({ queued (entry .flush 0 0 .queued) ready with
      tags := (queued (entry .flush 0 0 .queued) ready).tags.set 4 (some (entry .release 0 1 .accepted)) } : State).openReleases =
      [4] ∧
    ({ flushing with wprot := true, gate := true } : State).quiet ∧
    ∃ f ∈ flushing.pool.frames, f.state = .inUse ∧ (∃ n ≤ 6, f.owner = some (.lane n)) ∧ f.bound.isSome ∧
      f.written = false :=
  ⟨by decide +kernel, by decide +kernel, by decide +kernel, by decide +kernel, flushing_quiet, by decide +kernel,
    ⟨⟨by decide +kernel, by decide +kernel⟩, by decide +kernel⟩, { frameOf (.lane 6) .write cacheSeg 1 with closed := true },
    List.mem_iff_getElem?.mpr ⟨0, by decide +kernel⟩, rfl, ⟨6, by decide, rfl⟩, rfl, rfl⟩

theorem test_witness_HoldExpiryEndsWrite :
    (({ phase with hold := some .frame, holdTimer := some 95000 } : DataPhase).holdTimer = some 95000 ∧
      writing.work.holdLimit ≤ writing.now - 95000 ∧ phase.unanswered ≠ [] ∧ phase.accepted ≠ phase.count) ∧
    (∀ n ≤ 2, ({ phase with accepted := n, next := n, unanswered := [] } : DataPhase).unanswered = []) ∧
    writing.tag phase.tag = some (entry .write 100 2 .inTurn) ∧ (entry .write 100 2 .inTurn).count = phase.count := by
  decide +kernel

/-- An open frame of lane 6 and a stream lane 2 whose timers run. -/
def timed : State :=
  ((withFrame (frameOf (.lane 6) .write cacheSeg 1) ready).modLane 6
    (fun c => { c with state := .opened, openFrame := some 0, idleTimer := some 99800 })).modLane 2
    (fun c => { c with state := .opened, releaseTimer := some 70000 })

/-- `timed` with a band of actuator B that its lane 2 owns, with this many frames bound in it. -/
def owning (bound : Nat) : State :=
  (timed.modLane 2 (fun c => { c with act := some .B, band := some 7 })).modBand .B 7
    (fun b => { b with state := .opened, owner := some 2, reserved := 4, written := 4 - bound, bound := bound })

-- R46: with a frame bound the band drains, and without one it is parked
theorem test_given_up_band :
    (List.range 2).map (fun b => (((after (.releaseTimerExpiry 2) (owning b)).bandRec .B 7).state,
      ((after (.releaseTimerExpiry 2) (owning b)).bm.get .B).parked)) = [(.parked, [7]), (.draining, [])] := by decide +kernel

theorem test_witness_TimersThatRunOutAct :
    (timed.lanes.length = 8 ∧ (timed.lane 6).idleTimer = some 99800 ∧ timed.work.idleLimit ≤ timed.now - 99800 ∧
      (timed.lane 6).openFrame = some 0 ∧ 0 < timed.pool.frames.length ∧ (timed.frame 0).promises = 0 ∧
      (timed.frame 0).bound.isSome ∧ timed.gate = timed.gateLevel ∧ timed.stuckLanes = [] ∧ timed.rc.job = none ∧
      timed.rs.reads = [] ∧ timed.seq.getD 0 + 1 < 2 ^ 48 - 65536) ∧
    ((timed.lane 2).state = .opened ∧ (timed.lane 2).releaseTimer = some 70000 ∧
      timed.work.laneRelease * 1000 ≤ timed.now - 70000) ∧
    (timed.work.idleMigrate ≠ 0 ∧ timed.work.idleMigrate * 1000 ≤ timed.now - 95000) ∧
    (∀ b ≤ 1, ((owning b).lane 2).state = .opened ∧ ((owning b).lane 2).act = some .B ∧ ((owning b).lane 2).band = some 7 ∧
      ((owning b).bandRec .B 7).state = .opened ∧ ((owning b).bandRec .B 7).owner = some 2 ∧
      ((owning b).bandRec .B 7).bound = b ∧ (owning b).gate = (owning b).gateLevel ∧ (owning b).stuckLanes = [] ∧
      (owning b).rc.job = none) ∧ (timed.lane 2).band = none := by decide +kernel

/-- A part whose pool has these lanes waiting. -/
def waitingLane (n : Nat) : State :=
  { ready with pool := ready.pool.setQueue (if n = 7 then .reclaim else .write) [.lane n] }

theorem test_witness_FrameGrantServesFirstHead :
    (ready.quiet ∧ ∀ c ∈ frameClasses, ready.pool.queue c = []) ∧
    ((waitingLane 6).quiet ∧ (waitingLane 6).pool.queue .write = .lane 6 :: [] ∧ (waitingLane 6).pool.passes .write = true ∧
      (waitingLane 6).pool.queue .metadata = [] ∧ (waitingLane 6).pool.queue .reclaim = [] ∧
      (waitingLane 6).pool.queue .read = []) ∧
    ((waitingLane 7).quiet ∧ (waitingLane 7).pool.queue .reclaim = .lane 7 :: [] ∧
      (waitingLane 7).pool.passes .reclaim = true ∧ (waitingLane 7).pool.queue .metadata = []) ∧
    ((waitingLane 6).frame 0).state = .free ∧ 0 < (waitingLane 6).pool.frames.length :=
  ⟨⟨ready_quiet, by decide +kernel⟩,
    ⟨⟨⟨by decide +kernel, by decide +kernel⟩, by decide +kernel⟩, by decide +kernel⟩,
    ⟨⟨⟨by decide +kernel, by decide +kernel⟩, by decide +kernel⟩, by decide +kernel⟩, by decide +kernel⟩

/-- A part in which the requests of the class of one requester wait behind it. -/
def asking (r : Requester) (q : List Requester) : State := { ready with pool := ready.pool.setQueue r.cls (r :: q) }

/-- `asking` with a checkpoint running that has captured this many pages of the 2 bound at 7 and 8, at this band. -/
def capturing (r : Requester) (q : List Requester) (cursor : Option (Actuator × Nat)) (done ext : Nat) : State :=
  { asking r q with
    extents := [⟨100, 16, .media ⟨cacheSeg, 0⟩⟩, ⟨200, 4, .lost⟩]
    ck := { ready.ck with
      ringTail := 9
      run := some ⟨8, 7, ⟨⟨0, 0, 0⟩, ⟨0, 0, 0⟩⟩, cursor, 104, 1, 1, ext, [7, 8], done, .page, none, none, false, 0, false⟩ } }

-- R156, R157: the band page of B follows that of A, and the extent page starts at its cursor
theorem test_pages_follow_cursors :
    ((offerFrame (capturing .page [.notice] (some (.A, 0)) 0 0)).ck.run.map (fun r => (r.bandCursor, r.pagesA, r.pages))) =
      some (some (.B, 0), 2, [7, 8, 9]) ∧
    ((offerFrame (capturing .page [.notice] none 0 0)).ck.run.map (fun r => (r.extCursor, r.pagesExt, r.ask))) =
      some (204, 1, .close) ∧
    loadExtent (recordAt ((offerFrame (capturing .page [.notice] none 0 0)).frame 0).payload 0) (some geom) =
      some ⟨104, 12, .media ⟨cacheSeg, 4⟩⟩ := by decide +kernel

theorem test_witness_FrameGrantServesFirstHead_heads :
    (∀ r ∈ [Requester.lane 3, .lane 7, .readEntry bandSeg, .source cacheSeg, .scanner .A, .notice, .close, .page],
      (asking r []).pool.queue r.cls = r :: [] ∧ (asking r []).pool.passes r.cls = true ∧
      (∀ c ∈ frameClasses, c ≠ r.cls → (asking r []).pool.queue c = [])) ∧
    ((ready.frame 0).state = .free ∧ 0 < ready.pool.frames.length ∧ 98 ≤ ready.ckFree) ∧
    ({ asking .notice [] with ck := { ready.ck with
        ringTail := 415, notice := some ⟨[⟨100, 2, 9, some 3⟩], none, false, 0⟩ } } : State).ckFree < 98 ∧
    (∀ r ∈ [Requester.page, .close], ∀ cursor ∈ [some (Actuator.A, 0), none], ∀ done ∈ [1, 2],
      let s := capturing r [.notice] cursor done 63
      1 ≤ s.ckFree ∧ s.geom = some geom ∧ s.ck.run.map (fun k => (k.bandCursor, k.pagesDone, k.pages.length, k.closeBound)) =
        some (cursor, done, 2, false) ∧ extentsFrom s.extents 104 ≠ [] ∧ (extentsFrom s.extents 104).length ≤ 4096) ∧
    TableOk (capturing .page [] none 0 0).extents ∧ 64 ≤ 63 + 1 ∧
    4096 < (extentsFrom ((List.range 4097).map (fun k => (⟨2 * k, 1, .lost⟩ : Extent))) 0).length := by
  refine ⟨?_, ?_, ?_, ?_, ⟨?_, ?_⟩, ?_, ?_⟩ <;> decide +kernel

theorem test_witness_ArbiterServesCheckpointFirst :
    (let s := { withFrame (frameOf .ckpt .metadata ⟨.A, .ckring, 0, 4⟩ 0) ready with
      ck := { ready.ck with queue := [⟨.close, 0, 4⟩] } }
     (s.port .A).up = true ∧ (s.port .A).op = none ∧ s.ck.queue = ⟨.close, 0, 4⟩ :: [] ∧
      (s.frame 0).bound = some ⟨.A, .ckring, 0, 4⟩) ∧ (ready.port .B).op = none := by decide +kernel

/-- A part with a segment read and a segment of lane 0 queued at port B, the first of them with its latch set. -/
def contended : State :=
  let s := withFrame { frameOf (.lane 6) .write ⟨.B, .cache, 0, 0⟩ 16 with closed := true, seq := some 9 } ready
  (s.modLane 6 (fun c => { c with state := .opened, queues := ⟨[], [0]⟩ })).modPort .B
    (fun p => { p with latches := List.replicate 10 true })

theorem test_witness_ArbiterServesFixedOrder :
    (({ ready with ports := Two.both Port.fresh } : State).port .A).up = false ∧
    ((withOp .A .segmentRead .read bandSeg none ready).port .A).op.isSome = true ∧
    ((ready.port .B).up = true ∧ (ready.port .B).op = none ∧ ∀ k < 10, (ready.requests .B).getD k none = none) ∧
    ((contended.port .B).up = true ∧ (contended.port .B).op = none ∧
      ((contended.requests .B).getD 7 none).isSome = true ∧ (∀ j < 10, j ≠ 7 → (contended.requests .B).getD j none = none) ∧
      (∀ j < 10, (contended.port .B).latches.getD j false = true) ∧ ¬ contended.blankCount .B ≤ contended.work.reserve) ∧
    ((contended.modPort .B (fun p => { p with latches := p.latches.set 7 false })).port .B).latches.getD 7 false = false := by
  decide +kernel

/-- SEGMENT WRITE in flight for frame 0 of a lane, in band 0 of actuator A in a state. -/
def bandWrite (n : Nat) (st : BandState) (written : Nat) : State :=
  withOp .A .segmentWrite (.lane n) bandSeg (some 0)
    (withFrame { frameOf (.lane n) .write bandSeg 16 with closed := true, seq := some 9 }
      (ready.modBand .A 0 (fun b => { b with state := st, reserved := written + 1, written := written, bound := 1 })))

/-- The operation in flight of `bandWrite`. -/
def bandWriteOp (n : Nat) : Op := ⟨.segmentWrite, 7, .lane n, bandSeg, 1, .through, 0, some 0, none, false, true, false⟩

/-- A part with a segment of the checkpoint ring in flight, of this kind, and the notice of one RELEASE after this many failed
attempts. -/
def ringWrite (k : RingKind) (attempts : Nat) : State :=
  let s := withOp .A .segmentWrite .ckpt ⟨.A, .ckring, 0, 4⟩ (some 0)
    (withFrame (frameOf .ckpt .metadata ⟨.A, .ckring, 0, 4⟩ 1) ready)
  { s with
    tags := s.tags.set 3 (some (entry .release 100 2 .accepted))
    ck := { s.ck with ringTail := 5, queue := [⟨k, 0, 4⟩], notice := some ⟨[⟨100, 2, 9, some 3⟩], some 0, true, attempts⟩ } }

/-- The operation in flight of `ringWrite`. -/
def ringWriteOp : Op := ⟨.segmentWrite, 7, .ckpt, ⟨.A, .ckring, 0, 4⟩, 1, .through, 0, some 0, none, false, true, false⟩

theorem test_witness_SegmentWriteDoneAdvancesBand :
    (bandWrite 0 .opened 0).awaits .A 7 (bandWriteOp 0) ∧
    (bandSeg.region = .band ∧ 0 < ((bandWrite 0 .opened 0).bm.get .A).bands.length ∧
      0 ∉ ((bandWrite 0 .opened 0).bm.get .A).parked ∧ ((bandWrite 0 .opened 0).bandRec .A 0).state = .opened) ∧
    (((bandWrite 0 .draining 255).bandRec .A 0).state = .draining ∧
      ((bandWrite 0 .draining 255).bandRec .A 0).written + 1 = (bandWrite 0 .draining 255).spb) ∧
    (((bandWrite 0 .draining 254).bandRec .A 0).written + 1 ≠ (bandWrite 0 .draining 254).spb ∧
      ((bandWrite 0 .draining 254).bandRec .A 0).bound ≤ 1 ∧ (bandWrite 0 .draining 254).quiet) ∧
    (bandWrite 7 .opened 0).awaits .A 7 (bandWriteOp 7) ∧
    (let s := { bandWrite 0 .opened 0 with
      tags := ready.tags.set 3 (some { entry .write 100 16 .accepted with durable := true, accepted := 16 })
      pool := { ready.pool with frames := [{ frameOf (.lane 0) .write bandSeg 16 with closed := true, waiters := [3] }] } }
     (s.frame 0).waiters = [3] ∧ (∀ j < 4, j ≠ 0 → 3 ∉ (s.frame j).waiters) ∧ (s.tag 3).map (fun e => e.durable) = some true) ∧
    ((bandWrite 0 .opened 0).frame 0).pins = 0 ∧
    ((ringWrite .notice 0).awaits .A 7 ringWriteOp ∧
      (ringWrite .notice 0).ck.queue.find? (fun x => decide (x.frame = 0)) = some ⟨.notice, 0, 4⟩ ∧
      (ringWrite .notice 0).ck.notice = some ⟨[⟨100, 2, 9, some 3⟩], some 0, true, 0⟩ ∧
      (ringWrite .notice 0).tag 3 = some (entry .release 100 2 .accepted) ∧ (ringWrite .notice 0).ck.batch = []) :=
  ⟨⟨rfl, rfl, rfl⟩, by decide +kernel, by decide +kernel, ⟨by decide +kernel, by decide +kernel,
    ⟨by decide +kernel, by decide +kernel⟩, by decide +kernel⟩, ⟨rfl, rfl, rfl⟩, by decide +kernel,
    by decide +kernel, ⟨rfl, rfl, rfl⟩, by decide +kernel⟩

/-- A part whose FLUSH, tag 5, waits for the RELEASE of the notice of `ringWrite`, and one where it waits for frame 0. -/
def releasing (attempts : Nat) : State :=
  let s := ringWrite .notice attempts
  { s with tags := s.tags.set 5 (some { entry .flush 0 0 .accepted with releases := [3] }) }

@[inherit_doc releasing]
def draining : State :=
  let s := (bandWrite 0 .opened 0).modFrame 0 (fun f => { f with waiters := [5] })
  { s with tags := s.tags.set 5 (some (entry .flush 0 0 .accepted)) }

-- R183: the FLUSH completes with its last RELEASE, or with its last frame
theorem test_flush_completes_last :
    (after (.segmentWriteResult .A 7 .done) (releasing 0)).frontOut = [.completion 3 .good 2, .completion 5 .good 0] ∧
    (after (.segmentWriteResult .A 7 .writeFault) (releasing 3)).frontOut =
      [.completion 3 .mediaError 100, .completion 5 .mediaError 0] ∧
    (after (.segmentWriteResult .A 7 .done) draining).frontOut = [.completion 5 .good 0] := by decide +kernel

theorem test_witness_FlushClosesAndCompletes_waits :
    (let s := queued (entry .flush 0 0 .queued) timed
     (s.lane 6).openFrame = some 0 ∧ s.lanes.length = 8 ∧ (s.frame 0).state = .inUse ∧ (s.frame 0).owner = some (.lane 6) ∧
      (s.frame 0).bound.isSome = true ∧ (s.frame 0).written = false ∧ (s.frame 1).state ≠ .inUse ∧ 1 < s.pool.frames.length) ∧
    (draining.awaits .A 7 (bandWriteOp 0) ∧ (draining.frame 0).waiters = [5] ∧ (∀ j < 256, j ≠ 0 → 5 ∉ (draining.frame j).waiters) ∧
      draining.tag 5 = some (entry .flush 0 0 .accepted) ∧
      5 ∈ ((draining.modFrame 1 (fun f => { f with waiters := [5] })).frame 1).waiters) ∧
    ∀ n ∈ [0, 3], (releasing n).awaits .A 7 ringWriteOp ∧
      (releasing n).ck.queue.find? (fun x => decide (x.frame = 0)) = some ⟨.notice, 0, 4⟩ ∧
      (releasing n).ck.notice = some ⟨[⟨100, 2, 9, some 3⟩], some 0, true, n⟩ ∧
      (releasing n).tag 5 = some { entry .flush 0 0 .accepted with releases := [3] } ∧ ((releasing n).tag 3).isSome = true ∧
      (∀ i < 256, 5 ∉ ((releasing n).frame i).waiters) ∧ (some 4 : Option Nat) ≠ some 3 := by
  refine ⟨by decide +kernel, ⟨⟨rfl, rfl, rfl⟩, by decide +kernel⟩, ?_⟩
  rintro n (_ | ⟨_, _ | ⟨_, h⟩⟩)
  · exact ⟨⟨rfl, rfl, rfl⟩, by decide +kernel⟩
  · exact ⟨⟨rfl, rfl, rfl⟩, by decide +kernel⟩
  · cases h

/-- A checkpoint that the CHECKPOINT command asked for, with its close in flight, and bands EVACUATED before and after its
start. -/
def closing : State :=
  let s := (withOp .A .segmentWrite .ckpt ⟨.A, .ckring, 0, 4⟩ (some 0)
    (withFrame (frameOf .ckpt .metadata ⟨.A, .ckring, 0, 4⟩ 1) ready)).modBand .A 0
      (fun b => { b with state := .evacuated, evacSeq := some 7 })
  let s := s.modBand .A 1 (fun b => { b with state := .evacuated, evacSeq := some 7, health := 3 })
  { s with
    maint := { s.maint with busy := true, status := .busy }
    ck := { s.ck with
      ringTail := 5, queue := [⟨.close, 0, 4⟩]
      run := some ⟨8, 2, ⟨⟨0, 0, 0⟩, ⟨0, 0, 0⟩⟩, none, 0, 1, 1, 0, [], 2, .nothing, none, some 0, true, 0, true⟩ } }

theorem test_witness_FailedWriteTruncatesBand :
    (bandWrite 0 .opened 3).awaits .A 7 (bandWriteOp 0) ∧ (bandWriteOp 0).kind = .segmentWrite ∧
    (bandWriteOp 0).req = .lane 0 ∧ (bandWriteOp 0).frame = some 0 ∧
    ((bandWriteOp 0).loc.region = .band ∧ 0 < ((bandWrite 0 .opened 3).bm.get .A).bands.length ∧
      0 ∉ ((bandWrite 0 .opened 3).bm.get .A).parked) ∧
    (withOp .A .segmentWrite (.lane 6) cacheSeg (some 0) ready).awaits .A 7
      { bandWriteOp 6 with loc := cacheSeg } ∧ cacheSeg.region ≠ .band ∧
    (∀ n < 4, (ringWrite .notice n).ck.notice = some ⟨[⟨100, 2, 9, some 3⟩], some 0, true, n⟩) ∧ 2 + 1 < 4 ∧ 4 ≤ 3 + 1 ∧
    (98 ≤ (ringWrite .notice 0).ckFree ∧
      ({ ringWrite .notice 0 with ck := { (ringWrite .notice 0).ck with ringTail := 415 } } : State).ckFree < 98) ∧
    (closing.awaits .A 7 ringWriteOp ∧ closing.ck.queue.find? (fun x => decide (x.frame = 0)) = some ⟨.close, 0, 4⟩ ∧
      closing.ck.run.isSome = true ∧ closing.ck.notice = none ∧ closing.service = .ready ∧ (closing.port .A).up = true ∧
      closing.gate = false ∧ closing.ck.formatTries = none ∧
      ({ closing with gate := true } : State).gate ≠ false) :=
  ⟨⟨rfl, rfl, rfl⟩, rfl, rfl, rfl, by decide +kernel, ⟨rfl, rfl, rfl⟩, by decide, by decide +kernel, by decide, by decide,
    by decide +kernel, ⟨⟨rfl, rfl, rfl⟩, by decide +kernel⟩⟩

/-- The page of a checkpoint abandoned during its write: its frame is in flight and no longer in the ring queue. -/
def abandoned : State :=
  let s := ringWrite .page 0
  { s with ck := { s.ck with queue := [], notice := none } }

-- R104, R113: the frame is as it was until the result, and free after it
theorem test_abandoned_page_keeps_frame :
    (abandonCheckpoint { closing with ports := (ringWrite .page 0).ports }).ck.queue = [] ∧
    (abandonCheckpoint { closing with ports := (ringWrite .page 0).ports }).frame 0 = closing.frame 0 ∧
    ((after (.segmentWriteResult .A 7 .supplyLate) abandoned).frame 0).state = .free := by decide +kernel

theorem test_witness_FailedWriteTruncatesBand_abandoned :
    abandoned.awaits .A 7 ringWriteOp ∧ abandoned.ck.queue = [] ∧ 0 < abandoned.pool.frames.length ∧
    (abandoned.frame 0).state = .inUse ∧ (abandoned.frame 0).pins = 0 :=
  ⟨⟨rfl, rfl, rfl⟩, by decide +kernel⟩

/-- Frame 0 of lane 6 with a block of LBA 100 mapped to its slot 0. -/
def rebound : State :=
  { withFrame { frameOf (.lane 6) .write cacheSeg 16 with closed := true, seq := some 9 } ready with
    extents := [⟨100, 16, .media ⟨cacheSeg, 0⟩⟩] }

/-- `rebound` with frame 1 of lane 6 in flight at the head of its queue for port A. -/
def behind : State :=
  let s := rebound.modFrame 1 (fun _ => { frameOf (.lane 6) .write ⟨.A, .cache, 0, 3⟩ 16 with closed := true, seq := some 8 })
  withOp .A .segmentWrite (.lane 6) ⟨.A, .cache, 0, 3⟩ (some 1) (s.modLane 6 (fun c => { c with queues := ⟨[1, 2], []⟩ }))

-- R113, R77: the frame in flight stays at the head; at an idle port the rebound frame takes its place
theorem test_rebound_behind_frame_in_flight :
    ((moveFrame 6 0 ⟨.A, .band, 1, 0⟩ 0 behind).lane 6).queues.a = [1, 0, 2] ∧
    ((moveFrame 6 0 ⟨.A, .band, 1, 0⟩ 0 { behind with ports := rebound.ports }).lane 6).queues.a = [0, 1, 2] := by
  decide +kernel

theorem test_witness_ReboundFrameTakesItsBlocks :
    0 < rebound.pool.frames.length ∧ (rebound.frame 0).bound = some cacheSeg ∧ bandSeg ≠ cacheSeg ∧
    (rebound.frame 0).fill ≤ 16 ∧ TableOk rebound.extents ∧ 34 ≤ rebound.freeRecords ∧
    (15 < (rebound.frame 0).fill ∧ runsLba (rebound.frame 0).runs 15 = some 115 ∧
      lookup rebound.extents 115 = .media ⟨cacheSeg, 15⟩) ∧ (rebound.frame 0).closed = true ∧
    ((behind.lane 6).queues.a = 1 :: [2] ∧ behind.writing .A 1 = true) :=
  ⟨by decide +kernel, by decide +kernel, by decide, by decide +kernel, ⟨by decide +kernel, by decide +kernel⟩, by decide +kernel⟩

/-- Lane 0's segment 3 of band 0 in flight after this many failed attempts, its frame full of the blocks from LBA 100, of which
the last is superseded, for a FLUSH; with segment 4 queued, segment 5 in a close that waits and segment 6 open. -/
def failing (attempts : Nat) : State :=
  let s := ((bandWrite 0 .opened 3).modFrame 0 (fun f =>
    { f with bound := some (inBand 3), attempts := attempts, waiters := [5] })).modPort .A (fun p =>
      { p with op := p.op.map (fun o => { o with loc := inBand 3 }) })
  let other := fun (seg : Nat) (s : State) => s.modFrame seg (fun _ => frameOf (.lane 0) .write (inBand seg) 0)
  let s := ((other 4 (other 5 (other 6 s))).modFrame 5 (fun f => { f with closePending := true, promises := 1 })).modLane 0
    (fun c => { c with state := .opened, act := some .A, band := some 0, openFrame := some 6, queues := ⟨[0, 4], []⟩ })
  { s with
    extents := [⟨100, 15, .media ⟨inBand 3, 0⟩⟩, ⟨115, 1, .media ⟨cacheSeg, 2⟩⟩]
    tags := s.tags.set 5 (some (entry .flush 0 0 .accepted)) }

-- R84: the queued frame, the pending one and the open one follow; R85: the fourth failure loses what is still there
theorem test_failed_frame_and_the_later_ones :
    (failing 0).laterFrames 0 (inBand 3) = [4, 5, 6] ∧
    ((after (.segmentWriteResult .A 7 .writeFault) (failing 0)).frame 0).attempts = 1 ∧
    (∀ n ∈ [4, 5, 6], ((after (.segmentWriteResult .A 7 .writeFault) (failing 0)).frame n).attempts = 0 ∧
      ((after (.segmentWriteResult .A 7 .writeFault) (failing 0)).frame n).bound = some ⟨.A, .band, 1, n - 3⟩) ∧
    (after (.segmentWriteResult .A 7 .writeFault) (failing 3)).extents =
      [⟨100, 15, .lost⟩, ⟨115, 1, .media ⟨cacheSeg, 2⟩⟩] ∧
    (after (.segmentWriteResult .A 7 .writeFault) (failing 3)).frontOut = [.completion 5 .lost 0] := by decide +kernel

theorem test_witness_ReboundFrameTakesItsBlocks_failed :
    ((failing 0).awaits .A 7 { bandWriteOp 0 with loc := inBand 3 } ∧ (failing 0).lanes.length = 8 ∧
      ((failing 0).frame 0).bound = some (inBand 3) ∧ 6 < (failing 0).pool.frames.length) ∧
    (let s := (failing 4).modLane 0 (fun c => { c with rebind := [0, 4] })
     4 ≤ (s.frame 0).attempts ∧ (s.frame 4).attempts < 4 ∧ 0 ∉ [4] ∧ (s.frame 4).bound.isSome = true ∧
      (laneLocation 0 s).1 = some (⟨.A, .band, 1, 0⟩, 0) ∧
      (laneLocation 0 { s with ports := Two.both Port.fresh, lanes := s.lanes.map (fun c => { c with band := none }) }).1 = none) ∧
    (let f := (failing 4).frame 0
     TableOk (failing 4).extents ∧ f.runs = [⟨100, 16, 0, none⟩] ∧ f.state = .inUse ∧ f.pins = 0 ∧ f.waiters = [5] ∧
      2 * 16 ≤ (failing 4).freeRecords ∧ lookup (failing 4).extents 114 = .media ⟨inBand 3, 14⟩ ∧
      (∀ x ∈ [99, 115, 116], ∀ k < 16, lookup (failing 4).extents x ≠ .media ⟨inBand 3, k⟩) ∧
      (∀ i < 256, i ≠ 0 → 5 ∉ ((failing 4).frame i).waiters)) ∧
    (let s := withJob (jobOf [moveIn .inLane]) (handing 1)
     (s.frame 1).bound.isSome = true ∧ s.rc.job.isSome = true) ∧
    -- a lower, a higher and no frame of the band in the queue
    (let s := (failing 0).modFrame 0 (fun f => { f with closed := true })
     let q := (s.lane 0).queues.get .A
     q = [0, 4] ∧ 6 ∉ q ∧ (s.frame 6).bound = some (inBand 6) ∧ (s.lane 0).rebind = [] ∧
      ((sealFrame 0 6 s).lane 0).queues.a = [0, 4, 6] ∧
      ((sealFrame 0 0 (leaveQueue 0 0 { s with ports := ready.ports })).lane 0).queues.a = [0, 4] ∧
      ((moveFrame 0 0 ⟨.A, .band, 9, 0⟩ 0 (leaveQueue 0 0 s)).lane 0).queues.a = [0, 4] ∧
      ((sealFrame 0 6 (s.modFrame 6 (fun f => { f with bound := some ⟨.A, .band, 9, 0⟩ }))).lane 0).queues.a = [0, 4, 6]) := by
  refine ⟨⟨⟨rfl, rfl, rfl⟩, ?_⟩, ?_, ⟨⟨?_, ?_⟩, ?_⟩, ?_, ?_⟩ <;> decide +kernel

/-- The stamp of a segment of 16 blocks from LBA 100 in band 0, closed at sequence 9, over a payload of zeros: its check
word is the sequence (R12). -/
def zeroStamp : Stamp := ⟨.data, 1, 9, bandSeg, 0, [⟨100, 16, 0, none⟩], 0, 16, 9⟩

/-- A segment read in flight for a READ of LBA 100, with this many attempts behind it. -/
def readInFlight (attempts : Nat) : State :=
  withOp .A .segmentRead .read bandSeg (some 0) { withFrame (frameOf .readServer .read bandSeg 0) ready with
    tags := ready.tags.set 3 (some (entry .read 100 1 .reading))
    rs := { ready.rs with reads := [⟨3, 100, 1, [.media ⟨bandSeg, 0⟩], 0, none, none⟩]
                          entries := [⟨bandSeg, false, .inFlight, attempts, some 0, [3], 0, 0, false⟩] } }

-- R105, R121: an UNREADABLE attempt counts
theorem test_segment_read_unreadable :
    ((after (.segmentReadResult .A 7 .unreadable) (readInFlight 0)).entry bandSeg).map (fun e => e.attempts) = some 1 := by
  decide +kernel

/-- A source read in flight, after this many attempts, for a cache job with a current block, LBA 100, and one superseded. -/
def sourceInFlight (attempts : Nat) : State :=
  withOp .A .segmentRead .reclaim bandSeg (some 0) { withFrame (frameOf .reclaim .reclaim bandSeg 0) ready with
    extents := [⟨100, 1, .media ⟨bandSeg, 0⟩⟩]
    rc := { ready.rc with
      job := some { Job.fresh .idle .A none with
        running := true, moves := [⟨100, ⟨bandSeg, 0⟩, .pending, none⟩, ⟨101, ⟨bandSeg, 1⟩, .pending, none⟩] }
      sources := [⟨bandSeg, attempts, some 0, .inFlight, true⟩], srcQueue := ⟨[bandSeg], []⟩ } }

-- R139, R140: the third failed attempt makes the current block LOST, and the other entry is DEAD
theorem test_third_source_failure :
    (after (.segmentReadResult .A 7 .unreadable) (sourceInFlight 2)).extents = [⟨100, 1, .lost⟩] ∧
    (after (.segmentReadResult .A 7 .unreadable) (sourceInFlight 1)).extents = (sourceInFlight 1).extents := by
  decide +kernel

theorem test_witness_SegmentReadResultsReachEntry :
    (readInFlight 0).awaits .A 7 ⟨.segmentRead, 7, .read, bandSeg, 1, .through, 0, some 0, none, false, true, false⟩ ∧
    (∀ n < 3, (readInFlight n).entry bandSeg = some ⟨bandSeg, false, .inFlight, n, some 0, [3], 0, 0, false⟩) ∧
    ((judge (readInFlight 0).geom (readInFlight 0).epoch bandSeg (some zeroStamp.bytes) (some zeroStamp.bytes)
        (payloadFold (List.replicate 16 0))).verdict = .good ∧
      (judge (readInFlight 0).geom (readInFlight 0).epoch bandSeg (some zeroStamp.bytes) (some zeroStamp.bytes)
        (payloadFold (List.replicate 16 0))).stamp = some zeroStamp ∧
      (readInFlight 0).agreesAll ⟨bandSeg, false, .inFlight, 0, some 0, [3], 0, 0, false⟩ zeroStamp = true ∧
      (readInFlight 0).pool.waitRead = [] ∧ (readInFlight 0).calm) ∧
    (readInFlight 0).unfaulted ∧ ((readInFlight 0).port .A).up = true ∧
    ((readInFlight 2).readRec 3 = some ⟨3, 100, 1, [.media ⟨bandSeg, 0⟩], 0, none, none⟩ ∧
      ((⟨3, 100, 1, [.media ⟨bandSeg, 0⟩], 0, none, none⟩ : ReadRec).needs bandSeg).head? = some (0, 0)) ∧
    (judge (readInFlight 0).geom (readInFlight 0).epoch bandSeg none none 0).verdict ≠ .good ∧
    ((sourceInFlight 2).awaits .A 7 ⟨.segmentRead, 7, .reclaim, bandSeg, 1, .through, 0, some 0, none, false, true, false⟩ ∧
      (∀ n < 3, (sourceInFlight n).source bandSeg = some ⟨bandSeg, n, some 0, .inFlight, true⟩ ∧
        (sourceInFlight n).flying bandSeg = some ⟨bandSeg, n, some 0, .inFlight, true⟩) ∧
      (((sourceInFlight 0).moves.map (fun m => m.lba)).Nodup ∧
      (zeroStamp.agrees 100 0 = true ∧ { zeroStamp with runs := [⟨99, 16, 0, none⟩] }.agrees 100 0 = false) ∧
      lookup (sourceInFlight 0).extents 100 = .media ⟨bandSeg, 0⟩ ∧ lookup (sourceInFlight 0).extents 101 = .unmapped) ∧
      TableOk (sourceInFlight 0).extents ∧ 2 * 2 ≤ (sourceInFlight 0).freeRecords) :=
  ⟨⟨rfl, rfl, rfl⟩, by decide +kernel, ⟨by decide +kernel, by decide +kernel, by decide +kernel, by decide +kernel,
    ⟨by decide +kernel, by decide +kernel⟩⟩, show ∀ n < 8, _ by decide +kernel, by decide +kernel,
    by decide +kernel, by decide, ⟨rfl, rfl, rfl⟩, by decide +kernel, by decide +kernel, ⟨by decide +kernel, by decide +kernel⟩,
    by decide +kernel⟩

/-- A segment read in flight at a DOWN entry's port for an AHEAD entry, or for one that no READ is interested in any longer: the
band is EVACUATED, has passed a checkpoint, and keeps this many pins of dropped READs. -/
def aheadInFlight (ahead dropped : Bool) (pins : Nat) : State :=
  let s := (readInFlight 0).modBand .A 0 (fun b =>
    { b with state := .evacuated, written := 256, evacSeq := some 7, readPins := pins })
  { s with
    tags := ready.tags, cleared := some 8
    rs := { ready.rs with queues := ⟨[bandSeg], []⟩
                          entries := [⟨bandSeg, ahead, .inFlight, 0, some 0, [], 0, pins, dropped⟩] } }

/-- `aheadInFlight` for a segment of cache ring A that a dropped READ pins. -/
def cacheInFlight : State :=
  let s := aheadInFlight false false 1
  { (s.modPort .A (fun p => { p with op := p.op.map (fun o => { o with loc := cacheSeg }) })).modRing .A
      (fun r => { r with tail := 3, migrateHead := 2, freeTarget := 2, pins := [(0, 1)] }) with
    rs := { s.rs with entries := [⟨cacheSeg, false, .inFlight, 0, some 0, [], 0, 1, false⟩] } }

-- R130, R126, R54: the AHEAD entry becomes READY or is dropped; the last pin of the dropped READs blanks the band or lets
-- free_head go on
theorem test_results_of_ahead_and_dropped_entries :
    (after (.segmentReadResult .A 7 .unreadable) (aheadInFlight true false 0)).rs.entries = [] ∧
    ((after (.segmentReadResult .A 7 .unreadable) (aheadInFlight true false 0)).frame 0).state = .free ∧
    ((after (.segmentReadResult .A 7 .unreadable) (aheadInFlight false false 2)).bandRec .A 0).state = .blank ∧
    ((after (.segmentReadResult .A 7 .unreadable) cacheInFlight).ring .A).freeHead = 2 ∧
    ((after (.segmentReadResult .A 7 (.done (some zeroStamp.bytes) (some zeroStamp.bytes) (List.replicate 16 0)))
      (aheadInFlight true false 0)).entry bandSeg).map (fun e => (e.state, e.ahead)) = some (.ready, true) := by
  refine ⟨?_, ?_, ?_, ?_, ?_⟩ <;> decide +kernel

theorem test_witness_SegmentReadResultsReachEntry_ahead :
    let op : Op := ⟨.segmentRead, 7, .read, bandSeg, 1, .through, 0, some 0, none, false, true, false⟩
    (∀ x ∈ [(true, false, 0), (true, true, 0), (false, false, 2)],
      let s := aheadInFlight x.1 x.2.1 x.2.2
      s.awaits .A 7 op ∧ s.entry bandSeg = some ⟨bandSeg, x.1, .inFlight, 0, some 0, [], 0, x.2.2, x.2.1⟩ ∧
      (s.rs.entries.map (fun e => e.loc)).Nodup ∧ (s.frame 0).state = .inUse ∧ (s.frame 0).pins = 0 ∧
      0 < (s.bm.get .A).bands.length ∧ (s.port .A).up = true ∧
      ((s.bandRec .A 0).state = .evacuated ∧ (s.bandRec .A 0).readPins = x.2.2 ∧
        (s.bandRec .A 0).evacSeq.getD 0 < s.cleared.getD 0 ∧ (s.bandRec .A 0).health < 3)) ∧
    (cacheInFlight.awaits .A 7 { op with loc := cacheSeg } ∧
      (cacheInFlight.entry cacheSeg).map (fun e => (e.interested, e.droppedPins)) = some ([], 1)) ∧
    (judge (some geom) (some 1) bandSeg (some zeroStamp.bytes) (some zeroStamp.bytes)
      (payloadFold (List.replicate 16 0))).verdict = .good ∧ (judge (some geom) (some 1) bandSeg none none 0).verdict ≠ .good := by
  refine ⟨?_, ⟨⟨rfl, rfl, rfl⟩, by decide +kernel⟩, by decide +kernel⟩
  rintro x (_ | ⟨_, _ | ⟨_, _ | ⟨_, h⟩⟩⟩)
  · exact ⟨⟨rfl, rfl, rfl⟩, by decide +kernel⟩
  · exact ⟨⟨rfl, rfl, rfl⟩, by decide +kernel⟩
  · exact ⟨⟨rfl, rfl, rfl⟩, by decide +kernel⟩
  · cases h

theorem test_witness_PortsGoDownAndUp :
    ((ready.port .A).up = true ∧ ready.lanes.length = 8) ∧ (State.reset.port .B).up = false ∧
    (let s := readInFlight 0; (s.port .A).timer = some 80000 ∧ 20000 ≤ s.now - 80000 ∧ (s.port .A).up = true ∧
      (s.port .A).op.map (fun o => (o.kind, o.beforeUp)) = some (.segmentRead, false)) ∧
    (let s := (withOp .B .stampScan .scanner bandSeg none ready).modPort .B (fun p =>
        { p with timer := some 40000, op := p.op.map (fun o => { o with beforeUp := true }) })
     60000 ≤ s.now - 40000 ∧ (s.port .B).op.map (fun o => (o.kind, o.beforeUp)) = some (.stampScan, true)) ∧
    ((handing 1).rc.job = some (jobOf [moveIn .held]) ∧ (jobOf [moveIn .held]).act = .A ∧
      ((handing 1).port .A).up = true ∧ (after (.portDown .A) (handing 1)).rc.job.isSome = true) ∧
    (let j := { jobOf [moveIn .inLane] with pausePort := true }
     (passing j).rc.job = some j ∧ (pumpStep (passing j)).isSome = true) := by
  decide +kernel

theorem test_witness_CheckpointStartCaptures :
    (let s := { ready with ck := { ready.ck with wanted := true } }
     s.ck.run = none ∧ s.ck.wanted = true ∧ s.service = .ready ∧ (s.port .A).up = true ∧ s.gate = false) ∧
    (let s := { ready with ck := { ready.ck with restart := true } }; s.ck.wanted = false ∧ s.ck.restart = true) ∧
    (let s := { ready with pool := { ready.pool with
        frames := List.replicate 256 (frameOf .ckpt .metadata ⟨.A, .ckring, 0, 4⟩ 1) } }
     s.pool.passes .metadata = false ∧ s.rs.reads = []) ∧
    (ready.gate = ready.gateLevel ∧ ready.stuckLanes = [] ∧ ready.rc.job = none ∧ ready.rs.reads = [] ∧
      ready.seq.getD 0 + 8 < 2 ^ 48 - 65536 ∧ ready.pool.queue .metadata = [] ∧ ready.pool.passes .metadata = true ∧
      1 ≤ ready.ckFree) ∧
    ready.ck.wanted = false ∧ ready.ck.restart = false := by decide +kernel

theorem test_witness_CheckpointCompletionClears :
    closing.awaits .A 7 ⟨.segmentWrite, 7, .ckpt, ⟨.A, .ckring, 0, 4⟩, 1, .through, 0, some 0, none, false, true, false⟩ ∧
    closing.ck.queue.find? (fun x => decide (x.frame = 0)) = some ⟨.close, 0, 4⟩ ∧
    closing.ck.run.map (fun r => (r.sStart, r.answers)) = some (8, true) ∧ closing.stuckLanes = [] ∧
    closing.rc.job = none ∧
    (∀ b ≤ 1, (closing.bandRec .A b).state = .evacuated ∧ (closing.bandRec .A b).readPins = 0 ∧
      (closing.bandRec .A b).evacSeq.getD 0 < 8) ∧ (closing.bandRec .A 0).health < 3 ∧ 3 ≤ (closing.bandRec .A 1).health ∧
    (closing.bandRec .A 2).state ≠ .evacuated ∧ { closing with service := .formatting }.service = .formatting :=
  ⟨⟨rfl, rfl, rfl⟩, by decide +kernel⟩

/-- `closing` before its close is bound: the last of its pages in flight, the close's frame granted as frame 1. -/
def paging : State :=
  let s := closing.modFrame 1 (fun _ => Frame.granted .metadata .ckpt)
  { s with ck := { s.ck with
      queue := [⟨.page, 0, 4⟩]
      run := some ⟨8, 3, ⟨⟨0, 0, 0⟩, ⟨0, 0, 0⟩⟩, none, 0, 1, 1, 0, [3, 4], 1, .nothing, none, some 1, false, 0, true⟩ } }

-- R158: the close follows the last page at ring_tail
theorem test_last_page_binds_the_close :
    (after (.segmentWriteResult .A 7 .done) paging).ck.queue = [⟨.close, 1, 5⟩] ∧
    ((after (.segmentWriteResult .A 7 .done) paging).frame 1).stamp.map (fun t => (t.kind, t.own.seg, t.filled)) =
      some (.close, 5, 1) ∧ ((after (.segmentWriteResult .A 7 .done) paging).frame 0).state = .free := by decide +kernel

theorem test_witness_CheckpointCompletionClears_page :
    paging.awaits .A 7 ringWriteOp ∧ paging.ck.queue.find? (fun x => decide (x.frame = 0)) = some ⟨.page, 0, 4⟩ ∧
    (paging.frame 0).state = .inUse ∧ (paging.frame 0).pins = 0 ∧ paging.geom = some geom ∧ 1 ≤ paging.ckFree ∧
    1 < paging.pool.frames.length ∧
    paging.ck.run.map (fun r => (r.closeFrame, r.closeBound, r.pagesDone + 1, r.pages.length)) = some (some 1, false, 2, 2) ∧
    (0 : Nat) + 1 ≠ 2 :=
  ⟨⟨rfl, rfl, rfl⟩, by decide +kernel⟩

theorem test_witness_FreeHeadStopsAtPin :
    let r : Ring := ⟨4, 9, 12, 20, [(2, 1), (6, 3)]⟩
    (6, 3) ∈ r.pins ∧ r.freeHead ≤ 6 := by decide

/-- A part with two FULL bands of actuator A, of 16 and 32 valid blocks, and no BLANK band there. -/
def starved : State :=
  { ready with
    bm := ⟨{ ready.bm.a with bands :=
        [{ Band.blank with state := .full, written := 256, reserved := 256, valid := 16, extents := 1, closeSeq := some 3 },
          { Band.blank with state := .full, written := 256, reserved := 256, valid := 32, extents := 1, closeSeq := some 3 }] },
      ready.bm.b⟩ }

/-- A part whose cache ring A holds three segments, the last bound to a frame, and whose migration latch is set. -/
def migrating : State :=
  let s := withFrame (frameOf (.lane 6) .write ⟨.A, .cache, 0, 6⟩ 1) ready
  { (s.modRing .A (fun r => { r with freeHead := 0, migrateHead := 4, tail := 7 })) with
    extents := [⟨100, 1, .media ⟨⟨.A, .cache, 0, 5⟩, 3⟩⟩]
    rc := { s.rc with latch := ⟨true, false⟩, idleExpired := true } }

-- R133, R145: trigger 5 takes the two segments below the bound one, the empty one resolved at once and passed
theorem test_idle_job_takes_segments :
    (after .reclaimTriggerTest migrating).rc.job.map (fun j => (j.trigger, j.segs.map (fun x => x.1), j.moves.length)) =
      some (.idle, [4, 5], 1) ∧ ((after .reclaimTriggerTest migrating).ring .A).migrateHead = 5 := by decide +kernel

/-- `starved` and `migrating` where lane 7 outlived its last job, of actuator B, whose port is DOWN: it is FAULTED, with a frame
to rebind. -/
def outlived (s : State) : State :=
  let s := (s.modLane 7 (fun c => { c with state := .faulted, act := some .B, wasClosed := true, rebind := [9] })).modPort .B
    (fun p => { p with up := false })
  s.modFrame 9 (fun _ => { frameOf (.lane 7) .reclaim ⟨.B, .band, 3, 0⟩ 1 with closed := true, attempts := 1 })

-- R71, R137: told the new job's actuator, lane 7 rebinds its frame there, and returns to CLOSED
theorem test_lane_seven_told_the_actuator :
    (let t := after .reclaimTriggerTest (outlived migrating)
     (t.rc.job.map (fun j => j.act), (t.frame 9).bound, (t.lane 7).state) = (some .A, some ⟨.A, .band, 0, 0⟩, .closed)) ∧
    (let t := after .reclaimTriggerTest { outlived starved with extents := [⟨100, 16, .media ⟨bandSeg, 0⟩⟩] }
     (t.rc.job.bind (fun j => j.victim), (t.lane 7).state, (t.lane 7).act) = (some 0, .faulted, some .A)) := by
  refine ⟨?_, ?_⟩ <;> decide +kernel

theorem test_witness_TriggerTestStartsDueJob_told :
    ∀ s ∈ [outlived starved, outlived migrating], (s.lane 7).state = .faulted ∧ (s.lane 7).band = none ∧
      s.laneActuator 7 = some .B ∧ (s.port .B).up = false ∧ s.lanes.length = 8 ∧ s.rc.job = none ∧ s.service = .ready ∧
      s.gate = false ∧ (starved.lane 7).state = .closed ∧ (s.bandRec .A 0).valid = (if s.rc.idleExpired then 0 else 16) := by
  decide +kernel

theorem test_witness_TriggerTestStartsDueJob :
    (starved.rc.job = none ∧ starved.service = .ready ∧ starved.gate = false ∧ (starved.port .A).up = true ∧
      starved.blankCount .A ≤ starved.work.reserve ∧ starved.blankCount .A < starved.blankCount .B ∧
      starved.work.reserve < starved.blankCount .B ∧ ∀ n < 8, (starved.lane n).state ≠ .faulted ∧ (starved.lane n).band = none) ∧
    (∀ b < 2, (starved.bandRec .A b).state = .full ∧ (starved.bandRec .A b).bound = 0 ∧
      starved.cap / 16 ≤ starved.cap - (starved.bandRec .A b).valid ∧ b ∉ starved.bm.a.parked) ∧
    (victimScore starved.cap 32 1 < victimScore starved.cap 16 1 ∧ (starved.bandRec .A 0).valid ≠ 0) ∧
    ((starved.modBand .A 0 (fun b => { b with valid := 0 })).bandRec .A 0).valid = 0 ∧
    (let s := { starved with bm := ⟨ready.bm.b, starved.bm.a⟩, mapPressure := true }
     s.work.reserve < s.blankCount .A ∧ s.blankCount .B ≤ s.work.reserve ∧ s.urgentOn .A = false) ∧
    (let s := { starved with maint := { starved.maint with work := { starved.work with reserve := 0, blankLow := 4 } },
                             mapPressure := true, credit := ⟨⟨true, 9⟩, ⟨false, 0⟩⟩,
                             bm := ⟨{ starved.bm.a with bands := Band.blank :: starved.bm.a.bands }, starved.bm.b⟩ }
     s.urgentOn .A = false ∧ s.urgentOn .B = false ∧ s.pressureOn .A = true ∧ s.pressureOn .B = false ∧
      s.cacheHighOn .A = false ∧ s.cacheHighOn .B = false ∧ (s.bandRec .A 1).state = .full) ∧
    (migrating.idleOn .A = true ∧ migrating.idleOn .B = false ∧ migrating.cacheHighOn .A = false ∧
      migrating.urgentOn .A = false ∧ migrating.urgentOn .B = false ∧ migrating.mapPressure = false ∧
      migrating.pressureOn .A = false ∧ migrating.pressureOn .B = false) ∧
    (let s := migrating.modRing .A (fun r => { r with tail := 1024 })
     s.cacheHighOn .A = true ∧ s.cacheHighOn .B = false) ∧
    (let s := { starved with bm := ⟨{ ready.bm.a with bands := [] }, ready.bm.b⟩ }
     s.bm.a.bands.length = 0 ∧ s.urgentOn .A = true ∧ s.urgentOn .B = false ∧ s.pressureOn .B = false ∧
      s.mapPressure = false ∧ s.cacheHighOn .A = false ∧ s.cacheHighOn .B = false ∧ s.idleOn .A = false ∧
      s.idleOn .B = false ∧ s.rc.noVictim.a = false) ∧
    (let s := { ready with mapPressure := true }
     (∀ b < 64, (s.bandRec .A b).state ≠ .full ∧ (s.bandRec .B b).state ≠ .full) ∧ s.urgentOn .A = false ∧
      s.urgentOn .B = false ∧ s.pressureOn .A = false ∧ s.pressureOn .B = false ∧ s.rc.noVictimMap = false) ∧
    State.reset.service ≠ .ready :=
  ⟨by decide +kernel, by decide +kernel⟩

/-- Earlier triggers, and the actuator tried first, hold without a candidate. -/
theorem test_witness_TriggerTestStartsDueJob_fallThrough :
    (let s := { starved with bm := ⟨{ ready.bm.a with bands := [] }, starved.bm.a⟩ }
     s.urgentOn .A = true ∧ s.urgentOn .B = true ∧ s.bm.a.bands = [] ∧ (s.bandRec .B 0).state = .full ∧
      s.blankCount .A ≤ s.blankCount .B) ∧
    (let s := { starved with bm := ⟨{ ready.bm.a with bands := [] }, { ready.bm.b with bands :=
        (starved.bm.a.bands ++ ready.bm.b.bands) }⟩, mapPressure := true, credit := ⟨⟨true, 9⟩, ⟨true, 0⟩⟩ }
     s.urgentOn .A = true ∧ s.bm.a.bands = [] ∧ s.rc.noVictim.a = false ∧ s.urgentOn .B = false ∧
      (s.bandRec .B 0).state = .full ∧ s.cap / 16 ≤ s.cap - (s.bandRec .B 0).valid ∧ s.pressureOn .A = true ∧
      s.pressureOn .B = true) ∧
    (let s := { migrating with bm := ⟨{ migrating.bm.a with bands := [] }, migrating.bm.b⟩, mapPressure := true }
     s.urgentOn .A = true ∧ s.mapPressure = true ∧ s.bm.a.bands = [] ∧ s.idleOn .A = true ∧
      (∀ b < 64, (s.bandRec .B b).state ≠ .full) ∧ s.rc.noVictimMap = false) := by
  refine ⟨?_, ?_, ?_⟩ <;> decide +kernel

theorem test_witness_EmptyBandOutscoresOthers :
    (1 ≤ 4096 ∧ 4096 ≤ 4096 ∧ 1 ≤ 65536 ∧ 65536 ≤ 4096 * 16 ∧ 4096 ≤ 4096) ∧ (0 ≤ 65536 ∧ 65536 ≤ 65536 ∧ 1 ≤ 4096) := by
  decide

/-- A frame of lane 7 at the head of the commit queue with one move of LBA 100. -/
def committing : State :=
  let s := withFrame { frameOf (.lane 7) .reclaim bandSeg 1 with runs := [⟨100, 1, 0, some ⟨cacheSeg, 15⟩⟩], written := true }
    ready
  { s with rc := { s.rc with commitQ := [0] }, extents := [⟨100, 1, .media ⟨cacheSeg, 15⟩⟩] }

theorem test_witness_CommitLeavesTheQueue :
    (committing.rc.commitQ = 0 :: [] ∧ (committing.frame 0).bound = some bandSeg ∧ (committing.frame 0).fill ≤ 16 ∧
      34 ≤ committing.freeRecords) ∧
    ((committing.frame 0).runs = [⟨100, 1, 0, some ⟨cacheSeg, 15⟩⟩] ∧ (committing.frame 0).fill = 1 ∧
      (committing.frame 0).void = 0 ∧ committing.rc.commitAt = 0 ∧ (∀ n < 8, (committing.lane n).state ≠ .faulted) ∧
      lookup committing.extents 100 = .media ⟨cacheSeg, 15⟩ ∧
      lookup ({ committing with extents := [⟨100, 1, .lost⟩] } : State).extents 100 ≠ .media ⟨cacheSeg, 15⟩) ∧
    TableOk committing.extents ∧
    (runsLba (committing.frame 0).runs 0 = some 100 ∧ runsSource (committing.frame 0).runs 0 = some ⟨cacheSeg, 15⟩ ∧
      { committing with earmarks := 131071 }.freeRecords < 2) ∧
    (let s := { migrating with rc := { migrating.rc with
        job := some { Job.fresh .idle .A none with running := true, segs := [(4, true), (5, false)] } } }
     4 < (s.ring .A).tail ∧ s.holder (s.cacheLoc .A 4) = none ∧
      (4, true) ∈ (s.rc.job.map (fun j => j.segs)).getD [] ∧ (s.ring .A).migrateHead = 4) ∧
    (let s := withJob (jobOf [moveIn .inLane]) committing
     s.rc.job = some (jobOf [moveIn .inLane]) ∧ (commitHead s).moves = [moveIn .committed]) :=
  ⟨by decide +kernel, by decide +kernel, ⟨by decide +kernel, by decide +kernel⟩, by decide +kernel⟩

/-- `handing` with its frame granted to lane 7 and not yet open. -/
def granting : State :=
  let s := ((handing 0).modFrame 1 (fun f => { f with bound := none })).modBand .A 0 (fun b => { b with reserved := 255 })
  s.modLane 7 (fun c => { c with openFrame := none, granted := some 1 })

/-- The jobs at the end of a pass: one of a band, and a cache job that goes on where idle time still holds. -/
def passed : List Job :=
  [{ jobOf [moveIn .committed] with victim := some 5, told := true }, { jobOf [moveIn .dead] with told := true }]

theorem test_witness_CommitLeavesTheQueue_handing :
    (∀ n ∈ [1, 8, 15], (handing n).rc.job = some (jobOf [moveIn .held]) ∧ advanceMigrate (handing n) = none ∧
      ((handing n).lane 7).state = .opened ∧ ((handing n).lane 7).openFrame = some 1 ∧ ((handing n).frame 1).fill = n ∧
      ((handing n).source cacheSeg).map (fun e => e.frame) = some (some 0) ∧
      lookup (handing n).extents 100 = .media ⟨cacheSeg, 15⟩ ∧ (handing n).pool.frames.length = 256) ∧
    (needsNinthRun ((handing 1).frame 1).runs 100 (some ⟨cacheSeg, 15⟩) = false ∧
      needsNinthRun ((handing 8).frame 1).runs 100 (some ⟨cacheSeg, 15⟩) = true) ∧
    lookup { handing 1 with extents := [] }.extents 100 ≠ .media ⟨cacheSeg, 15⟩ ∧
    (((handing 1).modLane 7 (fun c => { c with state := .waiting })).lane 7).state = .waiting ∧
    (let s := granting
     (s.lane 7).openFrame = none ∧ (s.lane 7).granted = some 1 ∧ s.lanes.length = 8 ∧ (s.frame 1).fill = 0 ∧
      (s.frame 1).runs = [] ∧ (s.lane 7).act = some .A ∧ (s.lane 7).band = some 0 ∧ (s.bandRec .A 0).owner = some 7 ∧
      (s.bandRec .A 0).state = .opened ∧ (s.bandRec .A 0).reserved = 255 ∧ s.spb = 256 ∧
      s.ck.dComplete < 2 * s.work.ckSegments ∧ .lane 7 ∉ s.pool.waitReclaim) ∧
    (let s := passing (jobOf [moveIn .inLane])
     advanceMigrate s = none ∧ s.rc.sources = [] ∧ (jobOf [moveIn .inLane]).told = false) ∧
    (∀ j ∈ passed, (passing j).rc.job = some j ∧ j.running = true ∧ j.told = true ∧ advanceMigrate (passing j) = none) ∧
    (let s := withJob { jobOf [moveIn .dead] with told := true } migrating
     (s.ring .A).migrateHead < (s.ring .A).tail ∧ s.idleOn .A = true ∧ advanceMigrate s = none ∧
      ∀ a ∈ [Actuator.A, .B], s.urgentOn a = false ∧ s.cacheHighOn a = false ∧ s.pressureOn a = false) := by
  refine ⟨?_, ?_, ?_, ?_, ?_, ?_, ?_, ?_⟩ <;> decide +kernel

-- R147: under the gate no pass begins; with its frames written the job takes the pause
theorem test_no_pass_under_the_gate :
    let s := ((passing { jobOf [moveIn .dead] with victim := some 5, told := true }).modLane 7 (fun c => { c with openFrame := none }))
    (pumpStep s).map (fun t => t.rc.job.map (fun j => (j.pass, j.pauseProtect))) = some (some (1, false)) ∧
    (pumpStep { s with wprot := true, gate := true }).map (fun t => t.rc.job.map (fun j => (j.pass, j.pauseProtect))) =
      some (some (0, true)) := by decide +kernel

theorem test_witness_CommitLeavesTheQueue_gate :
    (∀ m ∈ [moveIn .inLane, moveIn .pending, moveIn .dead], (protecting [m]).gate = true ∧ (protecting [m]).rc.sources = [] ∧
      m.state ≠ .held ∧ advanceMigrate (protecting [m]) = none) ∧
    ({ jobOf [moveIn .dead] with told := true } : Job).told = true ∧
    ∀ j ∈ passed, (passing j).gate = false := by decide +kernel

theorem test_witness_MaintenanceWritesNotTaken :
    (SentTo (.identify ⟨89, []⟩) 89 ∧ ¬ ready.hears 89 ∧ ¬ { ready with maint := { ready.maint with busy := true } }.hears 88) ∧
    (Takes (.setSetting (toPart [1])) (toPart [1]) 9 ∧ ready.hears (toPart [1]).addr ∧ (toPart [1]).payload.length ≠ 9) :=
  ⟨⟨.identify ⟨89, []⟩, fun h => by revert h; rintro ⟨h, -⟩; revert h; decide +kernel, fun h => by
    rcases h with ⟨-, h⟩; cases h⟩, .setSetting _, ready_hears, by decide⟩

theorem test_witness_IdentifyAndCensusAnswer :
    (ready.hears (toPart []).addr ∧ (toPart []).payload = []) ∧ ready.service = .ready ∧
    ({ ready with service := .halted } : State).geom.isSome = true ∧
    ({ ready with service := .halted, geom := none } : State).geom.isSome = false ∧ bandStates[7]? = some .retired :=
  ⟨⟨ready_hears, rfl⟩, by decide +kernel⟩

theorem test_witness_LaneAndBandReportsAnswer :
    (ready.hears (toPart [BitVec.ofNat 8 7]).addr ∧ (toPart [BitVec.ofNat 8 7]).payload = [BitVec.ofNat 8 7]) ∧
    State.reset.service = .recovering ∧ ready.service ≠ .recovering ∧
    (∃ j, ({ ready with rc := { ready.rc with job := some ⟨.urgent, .A, some 1, 1, 0, false, true, [], false, false, [],
      false, false, 0, 0, 0, 0⟩ } } : State).rc.job = some j) ∧ ready.rc.job = none ∧
    ((ready.lane 0).openFrame = none ∧ (writing.lane 6).openFrame = some 0) ∧
    (({ writing with phase := some { phase with hold := some .credit, holdTimer := some 1 } } : State).phase.map
      (fun q => (q.lane, q.hold)) = some (6, some .credit) ∧ writing.phase.bind (fun q => q.hold) = none) ∧
    (∀ b ∈ [0, 63, 64, 65535], (toPart (BitVec.ofNat 8 1 :: leBytes 2 b)).payload = BitVec.ofNat 8 1 :: leBytes 2 b) ∧
    actuatorOf 2 = none ∧ actuatorOf 1 = some .B ∧ 63 < ready.bpa .B ∧ ready.bpa .B ≤ 64 :=
  ⟨⟨ready_hears, rfl⟩, by decide +kernel, by decide +kernel, ⟨_, rfl⟩, by decide +kernel, by decide +kernel,
    by decide +kernel, fun _ _ => rfl, by decide +kernel⟩

theorem test_witness_SettingWrittenIsReadBack :
    (ready.hears (toPart (BitVec.ofNat 8 1 :: leBytes 8 63)).addr ∧ ready.maint.pend.windows.length = 8) ∧
    (∀ v ∈ [0, 63, 2 ^ 64 - 1], (toPart (BitVec.ofNat 8 1 :: leBytes 8 v)).payload = BitVec.ofNat 8 1 :: leBytes 8 v) ∧
    State.reset.service = .recovering ∧ ready.service ≠ .recovering ∧
    ((rangeOf 0x01).isSome = true ∧ (rangeOf 0x30).isSome = true ∧ (rangeOf 0x35).isSome = true) ∧
    ({ ready with geom := none } : State).geom = none ∧ (rangeOf 0x0C = none ∧ rangeOf 0xFF = none) ∧
    ((toPart [BitVec.ofNat 8 0x35]).payload = [BitVec.ofNat 8 0x35] ∧ ready.geom = some geom ∧ geom.lcap = 1048576 ∧
      ready.maint.pend.value 0x0B = some 2 ∧ ready.maint.work.value 0x01 = some 64) ∧
    State.reset.hears 88 ∧ Settings.default.windows[7]?.isSome = true ∧
    -- 127 is no multiple of 10 and 255 is above 253; SPB 255 rounds down to 0, below its range
    (rangeOf 0x02 = some ⟨10, 2550, 10⟩ ∧ rangeOf 0x06 = some ⟨1, 253, 1⟩ ∧ rangeOf 0x30 = some ⟨256, 4096, 256⟩ ∧
      127 - 127 % 10 = 120 ∧ 253 < 255 - 255 % 1 ∧ 255 - 255 % 256 < 256) :=
  ⟨⟨ready_hears, by decide +kernel⟩, fun _ _ => rfl, by decide +kernel, by decide +kernel, by decide, rfl, by decide,
    by decide +kernel, ⟨by decide +kernel, by decide +kernel⟩, by decide +kernel, by decide⟩

theorem test_witness_ApplyBringsAgreement :
    (ready.hears (toPart []).addr ∧ (toPart []).payload = []) ∧ State.reset.service = .recovering ∧
    ready.service ≠ .recovering ∧ (let p := { Settings.default with blankLow := 6, reserve := 5 }; p.blankLow - 2 < p.reserve) ∧
    (let p := { Settings.default with blankLow := 6, reserve := 4 }; ¬ p.blankLow - 2 < p.reserve) ∧
    (let s := readInFlight 0; (s.rs.entries.map (fun e => e.loc)).Nodup) :=
  ⟨⟨ready_hears, rfl⟩, by decide +kernel⟩

/-- An unformatted part with FMT_EN high. -/
def unformatted : State := { State.reset with service := .unformatted, straps := ⟨false, false, true⟩, recov := Recovery.off }

theorem test_witness_FormatStartsAfresh :
    let limit := fun s : State =>
      (s.pendGeom.bpaA + s.pendGeom.bpaB - 2 * s.work.blankLow) * (s.pendGeom.spb * 16) * 7 / 8
    (unformatted.hears (toPart []).addr ∧ (toPart []).payload = []) ∧ ready.straps.fmtEn ≠ true ∧
    (unformatted.straps.fmtEn = true ∧ unformatted.service ≠ .recovering ∧ unformatted.service ≠ .formatting ∧
      (∀ e ∈ unformatted.tags, e = none) ∧ unformatted.intake = [] ∧ unformatted.wprot = false ∧
      unformatted.highEpoch.getD 0 < 65535 ∧ 2 ^ 20 ≤ limit unformatted ∧ unformatted.pool.frames.length = 256) ∧
    ¬ ({ unformatted with highEpoch := some 65535 } : State).highEpoch.getD 0 < 65535 ∧ ¬ (∀ e ∈ writing.tags, e = none) ∧
    -- 292 bands are one too few and 293 enough (section 1.4)
    ¬ 2 ^ 20 ≤ limit { unformatted with pendGeom := ⟨256, 164, 160, 4096, 512, 2 ^ 40⟩ } ∧
    2 ^ 20 ≤ limit { unformatted with pendGeom := ⟨256, 165, 160, 4096, 512, 2 ^ 40⟩ } :=
  ⟨⟨⟨by decide +kernel, by decide +kernel⟩, rfl⟩, by decide +kernel⟩

theorem test_witness_CheckpointAndCloseLanesCommands :
    (ready.hears (toPart []).addr ∧ (toPart []).payload = []) ∧ ready.service = .ready ∧ State.reset.service ≠ .ready ∧
    ready.lanes.length = 8 ∧ ((timed.lane 2).state = .opened ∧ timed.phase = none) ∧
    ((writing.lane 6).state = .opened ∧ writing.phase.map (fun p => p.lane) = some 6) ∧
    (∀ b ≤ 1, (owning b).hears 88 ∧ (owning b).service = .ready ∧ (owning b).phase = none ∧ ((owning b).lane 2).band = some 7 ∧
      ((owning b).bandRec .B 7).owner = some 2 ∧ ((owning b).bandRec .B 7).bound = b) ∧ (timed.lane 2).band = none := by
  refine ⟨⟨ready_hears, rfl⟩, by decide +kernel, by decide +kernel, by decide +kernel, by decide +kernel, by decide +kernel,
    fun b h => ?_, by decide +kernel⟩
  obtain rfl | rfl : b = 0 ∨ b = 1 := by omega
  all_goals exact ⟨⟨by decide +kernel, by decide +kernel⟩, by decide +kernel⟩

theorem test_witness_ReadExceptionTakesHead :
    (ready.hears (toPart []).addr ∧ (toPart []).payload = []) ∧ ready.exceptions = [] ∧
    sound.exceptions = ⟨.portDown, .B, 255, 3, 0, 0⟩ :: [] ∧ ExceptionsOk sound.exceptions :=
  ⟨⟨ready_hears, rfl⟩, by decide +kernel, by decide +kernel, by decide +kernel, by decide +kernel⟩

theorem test_witness_ExtentMapRefinesLookup :
    TableOk rebound.extents ∧ 15 < 16 ∧ 2 ≤ ({ rebound with earmarks := 131070 } : State).freeRecords ∧
    2 * [(100, (⟨cacheSeg, 0⟩ : Loc))].length ≤ ({ rebound with earmarks := 131070 } : State).freeRecords ∧
    lookup rebound.extents 100 = .media ⟨cacheSeg, 0⟩ ∧ lookup rebound.extents 101 ≠ .media ⟨cacheSeg, 0⟩ ∧
    (⟨100, 16, .media ⟨cacheSeg, 0⟩⟩ ∈ rebound.extents ∧ 100 < 101 ∧ 101 + 1 < 116 ∧
      ({ rebound with earmarks := 131072 } : State).freeRecords = 0) ∧
    -- a sweep that reaches its limit, and one that does not
    ((sweep rebound.extents (.cacheSeg .A 0) 4 5).1.map (fun x => x.1) = [104, 105, 106, 107, 108] ∧
      (sweep rebound.extents (.cacheSeg .A 0) 4 5).2 = true ∧ (sweep rebound.extents (.cacheSeg .A 0) 4 4096).2 = false) :=
  ⟨⟨by decide +kernel, by decide +kernel⟩, by decide +kernel⟩

theorem test_witness_ConditionalMoveMovesOnlyCurrent :
    lookup rebound.extents 115 = .media ⟨cacheSeg, 15⟩ ∧ lookup rebound.extents 116 ≠ .media ⟨cacheSeg, 15⟩ ∧
    2 ≤ rebound.freeRecords ∧ TableOk rebound.extents :=
  ⟨by decide +kernel, by decide +kernel, by decide +kernel, by decide +kernel, by decide +kernel⟩

/-- A part whose band 0 of actuator A holds the one extent. -/
def counted : State :=
  { ready.modBand .A 0 (fun b => { b with state := .full, valid := 16, extents := 1 }) with
    extents := [⟨100, 16, .media ⟨bandSeg, 0⟩⟩] }

theorem test_witness_BandCountsFollowTable : counted.recov = Recovery.off ∧ counted.service ≠ .recovering ∧ TableOk counted.extents ∧ CountsOk counted ∧
    TableOk [⟨100, 15, .media ⟨bandSeg, 0⟩⟩] :=
  ⟨by decide +kernel, by decide +kernel, ⟨by decide +kernel, by decide +kernel⟩,
    fun a => by cases a <;> exact show ∀ b < 64, _ by decide +kernel, ⟨by decide, by decide⟩⟩

theorem test_witness_PressuresFollowTheirCounts :
    ready.service ≠ .recovering ∧ ({ ready with earmarks := 126977 } : State).freeRecords < 8192 ∧
    8192 ≤ ({ ready with earmarks := 126976 } : State).freeRecords ∧ State.reset.service = .recovering ∧
    starved.blankCount .A ≤ starved.work.blankLow ∧ (starved.credit.get .A).pressure = false ∧
    (creditless.credit.get .A).pressure = true ∧ creditless.work.blankLow < creditless.blankCount .A := by decide +kernel

theorem test_witness_StampsAndRecordsReadBack :
    StampOk geom zeroStamp ∧
    (2 ^ 40 - 1 < 2 ^ 40 ∧ 1 ≤ 65536 ∧ 65536 ≤ 65536 ∧ 2 ^ 48 - 1 < 2 ^ 48) ∧
    ((⟨bandSeg, 15⟩ : Loc).Fits ∧ (⟨bandSeg, 15⟩ : Loc).valid (some geom) = true) ∧
    ({ Band.blank with state := .opened, written := 256 } : Band).written ≤ 256 ∧
    (({ Band.blank with state := .evacuated, evacSeq := some 7 } : Band).evacSeq.getD 0 < 8) ∧
    (7 ≤ ({ Band.blank with state := .evacuated, evacSeq := some 7 } : Band).evacSeq.getD 0 ∧ 7 < 2 ^ 48) ∧
    (∀ x ∈ [List.replicate 16 (0 : Byte)], x.length = 16) ∧
    (let w := Settings.default
     [2, 3].length = 1 + 1 + 0 ∧ (∀ p ∈ [2, 2 ^ 64 - 1], p < 2 ^ 64) ∧ geom.lcap < 2 ^ 64 ∧ geom.spb < 2 ^ 32 ∧ geom.bpaA < 2 ^ 32 ∧
      geom.mcs < 2 ^ 32 ∧ geom.cks < 2 ^ 32 ∧ w.streamMin < 2 ^ 16 ∧ w.idleLimit < 2 ^ 16 ∧ w.laneRelease < 256 ∧
      w.holdLimit < 2 ^ 16 ∧ w.blankLow < 256 ∧ w.reserve < 256 ∧ w.cacheHigh < 256 ∧ w.cacheLow < 256 ∧
      w.ckSegments < 2 ^ 32 ∧ w.idleMigrate < 256 ∧ w.windows.length = 8 ∧
      ∀ x ∈ w.windows, x.base < 2 ^ 40 ∧ x.mask < 2 ^ 40 ∧ x.lane < 256) := by
  refine ⟨⟨by decide, by decide, by decide, by decide, by decide, ⟨by decide, by decide⟩, ?_⟩,
    by decide, ⟨⟨by decide, by decide⟩, by decide⟩, by decide, by decide, by decide, by decide, by decide, by decide⟩
  refine ⟨by decide, by decide, by decide, ?_, by decide, ?_⟩
  · rintro (_ | k) r h
    · cases h; rfl
    · cases h
  · rintro r (_ | ⟨_, h⟩)
    · exact ⟨by decide, by decide, by decide, by decide, fun _ => rfl, nofun⟩
    · cases h

theorem test_witness_VerdictsFollowTheTable :
    rawStamp zeroStamp.bytes = rawStamp zeroStamp.bytes ∧ rawStamp { zeroStamp with seq := 8 }.bytes ≠ rawStamp zeroStamp.bytes ∧
    (rawStamp zeroStamp.bytes).check = payloadFold (List.replicate 16 0) ^^^ BitVec.ofNat 32 (rawStamp zeroStamp.bytes).seq ∧
    (rawStamp { zeroStamp with check := 8 }.bytes).check ≠ 0 ^^^ BitVec.ofNat 32 (rawStamp zeroStamp.bytes).seq ∧
    (rawStamp zeroStamp.bytes).toStamp (some geom) = some zeroStamp ∧
    (rawStamp { zeroStamp with filled := 17 }.bytes).toStamp (some geom) = none ∧ zeroStamp.own ≠ cacheSeg ∧ 1023 < 1024 := by
  decide +kernel

/-- Recovery at the last scan of the checkpoint ring, with these entries found before. -/
def lastScan (ring : List ScanEntry) : State :=
  { State.reset with
    ports := ⟨{ Port.fresh with
      up := true
      op := some ⟨.stampScan, 7, .scanner, ⟨.A, .ckring, 0, 3840⟩, 256, .through, 0, none, none, false, true, false⟩ }, Port.fresh⟩
    recov := { Recovery.start with work := ⟨[⟨.ring 3840, 0, none⟩], []⟩, ring := ring } }

/-- A page of the checkpoint whose close is `closeStamp`, at this ring index, over a payload of zeros. -/
def pageStamp (k : SegKind) (idx : Nat) : Stamp := ⟨k, 1, 7, ⟨.A, .ckring, 0, idx⟩, 0, [], 0, 1, 7⟩

/-- Slot 0 of a close at S_start 5 that lists a band page for each actuator, at the counters 2 and 3. -/
def closeSlot : Block := closeBlock 5 1 2 1 1 0 geom ⟨⟨0, 1, 3⟩, ⟨0, 0, 1024⟩⟩ Settings.default [2, 3]

/-- A close of epoch 1 at sequence 9 in the checkpoint ring, over `closeSlot`. -/
def closeStamp : Stamp :=
  ⟨.close, 1, 9, ⟨.A, .ckring, 0, 4⟩, 0, [], 0, 1, checkWord (payloadFold (closeSlot :: List.replicate 15 0)) 9⟩

/-- A notice of two release records, and its stamp. -/
def noticePayload : List Block := recordSlots ([⟨100, 2, 9, none⟩, ⟨0, 65536, 7, none⟩].map ReleaseRec.bytes)

@[inherit_doc noticePayload]
def noticeStamp : Stamp := ⟨.notice, 1, 10, ⟨.A, .ckring, 0, 5⟩, 0, [], 0, 1, checkWord (payloadFold noticePayload) 10⟩

/-- The close `closeStamp` chosen. -/
def chosen : CloseInfo := loadClose closeStamp closeSlot

/-- The segment that a read for this task reads; a band's for the tasks that scan. -/
def spot : RecTask → SegLoc
  | .close t => t.own
  | .notice t => t.own
  | .page k => (pageStamp .bandpage (2 + k)).own
  | _ => bandSeg

/-- Recovery with this operation in flight for the head task at port A and a blank-band scan behind it. -/
def scanning (k : OpKind) (w : RecWork) : State :=
  let found := fun t : Stamp => (⟨some .good, true, 1, t.seq, some t⟩ : ScanEntry)
  withOp .A k .scanner (spot w.task) w.frame { withFrame (frameOf .scanner .read bandSeg 0) State.reset with
    geom := some geom, epoch := some 1
    recov := { Recovery.start with
      phase := .scans, work := ⟨[w, ⟨.blank 5, 0, none⟩], []⟩, chosen := some chosen, floor := 5
      ring := [found (pageStamp .bandpage 0), found (pageStamp .bandpage 1), found (pageStamp .bandpage 2),
        found (pageStamp .bandpage 3), found closeStamp, found noticeStamp]
      walks := [⟨.A, 0, 0, 0, false, false, false⟩], derivedTail := ⟨3, 1024⟩ } }

/-- Whether a segment with this stamp and payload is judged GOOD at a location while `scanning` recovers. -/
def goodAt (l : SegLoc) (t : Stamp) (payload : List Block) : Bool :=
  decide ((judge (some geom) (some 1) l (some t.bytes) (some t.bytes) (payloadFold payload)).stamp = some t)

/-- Slot 0 of a close that counts `a` pages of actuator A and one of B, every one with the counter 2. -/
def crowdedSlot (a : Nat) : Block :=
  closeBlock 5 1 2 a 1 0 geom ⟨⟨0, 1, 3⟩, ⟨0, 0, 1024⟩⟩ Settings.default (List.replicate (a + 1) 2)

/-- Section 13.3, R194: the counter past the 96 places stands in bytes no field occupies, and is ignored. -/
theorem test_witness_StampsAndRecordsReadBack_close :
    let b := crowdedSlot 96
    let b' : Block := BitVec.ofNat 32768 (b.toNat % 2 ^ (8 * 992))
    b ≠ b' ∧ (∀ i < 992, fieldAt b.toNat i 1 = fieldAt b'.toNat i 1) ∧
    loadClose closeStamp b = loadClose closeStamp b' ∧ (loadClose closeStamp b).pages.length = 96 := by decide +kernel

/-- Log 38: a close whose 96 listed pages pass every test is complete, and not when it counts a 97th. -/
theorem test_close_counts_past_its_places :
    let ring := (scanning .segmentRead ⟨.close closeStamp, 0, some 0⟩).recov.ring
    closeComplete ring (loadClose closeStamp (crowdedSlot 95)) = true ∧
    closeComplete ring (loadClose closeStamp (crowdedSlot 96)) = false := by decide +kernel

theorem test_witness_StampScanDrivesRecovery :
    ((lastScan []).awaits .A 7 ⟨.stampScan, 7, .scanner, ⟨.A, .ckring, 0, 3840⟩, 256, .through, 0, none, none, false, true, false⟩ ∧
      (lastScan []).task .A = some ⟨.ring 3840, 0, none⟩ ∧ (lastScan []).recov.phase = .ringScan ∧ 4096 ≤ 3840 + 256 ∧
      (lastScan []).quiet) ∧
    (3584 + 256 < 4096) ∧
    (let torn : ScanEntry := ⟨some .torn, true, 2, 11, none⟩
     let stamped := [torn].filter (fun e => e.stamped)
     stamped ≠ [] ∧ [torn].filter (fun e => decide (e.verdict = some .good)) = [] ∧ (∃ e ∈ stamped, e.epoch = 2) ∧
      ∀ e ∈ stamped, e.epoch ≤ 2) ∧
    (let good : ScanEntry := ⟨some .good, true, 1, 9, some closeStamp⟩
     (∃ x ∈ [good], x.stamp = some closeStamp) ∧ closeStamp.kind = .close ∧ closeStamp.epoch = 1 ∧
      ∀ x ∈ [good], x.verdict = some .good ∧ x.stamp = some closeStamp) ∧
    (∀ x ∈ [(⟨some .good, true, 1, 9, some (pageStamp .bandpage 2)⟩ : ScanEntry)], ∀ st, x.stamp = some st →
      st.kind = .close → st.epoch ≠ 1) ∧
    (∀ w ∈ [(⟨.close closeStamp, 0, some 0⟩ : RecWork), ⟨.page 0, 1, some 0⟩, ⟨.page 1, 2, some 0⟩, ⟨.notice noticeStamp, 2, some 0⟩],
      (scanning .segmentRead w).awaits .A 7 ⟨.segmentRead, 7, .scanner, spot w.task, 1, .through, 0, w.frame, none, false, true, false⟩ ∧
      (scanning .segmentRead w).recov.work.a = w :: [⟨.blank 5, 0, none⟩] ∧ (scanning .segmentRead w).quiet ∧
      w.frame = some 0 ∧ w.task.reads = true) ∧
    (goodAt closeStamp.own closeStamp (closeSlot :: List.replicate 15 0) ∧
      (let c := loadClose closeStamp closeSlot
       c.pages = [2, 3] ∧ closeStamp.own.seg < c.geom.cks ∧ c.sStart = 5 ∧
        closeComplete (scanning .segmentRead ⟨.close closeStamp, 0, some 0⟩).recov.ring c = true ∧
        closeComplete [] c = false)) ∧
    (goodAt (pageStamp .bandpage 2).own (pageStamp .bandpage 2) (List.replicate 16 0) ∧
      (let s := scanning .segmentRead ⟨.page 0, 1, some 0⟩
       s.recov.chosen = some chosen ∧ s.geom = some chosen.geom ∧ chosen.pages = [2, 3] ∧
        s.expected (.page 0) = some (pageStamp .bandpage 2) ∧ s.expected (.page 1) = some (pageStamp .bandpage 3) ∧
        (loadPage 0 1 (List.replicate 16 0) chosen s).isSome = true ∧
        (loadPage 1 1 (List.replicate 16 0) chosen s).isSome = true)) ∧
    (goodAt noticeStamp.own noticeStamp noticePayload ∧
      (filledRecords releaseWidth noticePayload noticeStamp.filled).map loadRelease = [(⟨100, 2, 9, none⟩ : ReleaseRec), ⟨0, 65536, 7, none⟩].map some) ∧
    goodAt (pageStamp .bandpage 2).own noticeStamp noticePayload = false := by
  refine ⟨⟨⟨rfl, rfl, rfl⟩, by decide +kernel, by decide +kernel, by decide,
    ⟨⟨by decide +kernel, by decide +kernel⟩, by decide +kernel⟩⟩, by decide, by decide, by decide +kernel, ?_, ?_,
    by decide +kernel⟩
  · rintro x hx st hst hk
    simp only [List.mem_singleton] at hx
    subst hx
    cases hst
    cases hk
  · intro w hw
    refine ⟨⟨rfl, rfl, rfl⟩, rfl, ⟨⟨rfl, rfl, rfl⟩, rfl⟩, ?_⟩
    revert w
    decide

theorem test_witness_ReplayAppliesItems :
    TableOk rebound.extents ∧ 34 ≤ ({ rebound with earmarks := 131054 } : State).freeRecords ∧
    zeroStamp.runs = [⟨100, 16, 0, none⟩] ∧ 0 + 16 ≤ 16 ∧ zeroStamp.kind = .data ∧
    (let r : Run := ⟨100, 1, 15, some ⟨cacheSeg, 15⟩⟩
     r.first + r.len ≤ 16 ∧ r.source = some ⟨cacheSeg, 15⟩) ∧
    (∀ w ∈ [(⟨.band 0 0, 0, none⟩ : RecWork), ⟨.blank 0, 0, none⟩, ⟨.verify 1 2, 0, none⟩, ⟨.collect 3 1022, 0, none⟩],
      (scanning .stampScan w).awaits .A 7 ⟨.stampScan, 7, .scanner, spot w.task, 1, .through, 0, w.frame, none, false, true, false⟩ ∧
      (scanning .stampScan w).recov.work.get .A = w :: [⟨.blank 5, 0, none⟩] ∧ (scanning .stampScan w).quiet ∧
      (scanning .stampScan w).recov.items.length + 256 ≤ 131072 ∧
      (∃ v ∈ (scanning .stampScan w).recov.walks, v.act = .A ∧ v.band = 0) ∧
      (∀ v ∈ (scanning .stampScan w).recov.walks, v.act = .A → v.band = 0 → v.ended = false) ∧
      (scanning .stampScan w).recov.collectDone.get .A = false) := by
  refine ⟨⟨by decide +kernel, by decide +kernel⟩, by decide +kernel, rfl, by decide, rfl, by decide, fun w _ => ?_⟩
  exact ⟨⟨rfl, rfl, rfl⟩, rfl, ⟨⟨rfl, rfl, rfl⟩, rfl⟩,
    (show 0 + 256 ≤ 131072 by decide), ⟨_, .head _, rfl, rfl⟩, fun v hv _ _ => by cases List.mem_singleton.mp hv; rfl, rfl⟩

/-- A round of recovery that ends with two releases found, and with this ceiling. -/
def roundEnd (ceiling : Option Nat) : State :=
  let s := scanning .stampScan ⟨.collect 3 1022, 0, none⟩
  { s with recov := { s.recov with
    items := [.release 200 1 7, .release 100 1 6], ceiling := ceiling, notices := [noticeStamp]
    walks := [⟨.A, 0, 0, 2, false, false, false⟩] } }

/-- `counted` at the end of a recovery's replay, its band with this written pointer. -/
def settling (written : Nat) : State :=
  { counted.modBand .A 0 (fun b => { b with written := written }) with
    service := .recovering, recov := { Recovery.start with phase := .round } }

/-- A full list of recovery items. -/
def fullList : List ReplayItem := List.replicate 131072 (.release 0 1 5)

theorem test_witness_RecoveryEndDerivesState_rounds :
    (131072 ≤ fullList.length ∧ (∀ y ∈ fullList, y.seq ≤ (ReplayItem.release 0 1 5).seq) ∧ .release 0 1 5 ∈ fullList ∧
      (ReplayItem.release 0 1 5).seq < (ReplayItem.release 0 1 6).seq ∧
      (ReplayItem.release 0 1 4).seq ≤ (ReplayItem.release 0 1 5).seq) ∧
    Recovery.start.items.length < 131072 ∧
    (∀ k ∈ [none, some 9], (roundEnd k).recov.chosen = some chosen ∧ (roundEnd k).recov.ceiling = k ∧
      [ReplayItem.release 100 1 6, .release 200 1 7].Perm (roundEnd k).recov.items ∧
      [ReplayItem.release 100 1 6, .release 200 1 7].Pairwise (fun x y => x.seq < y.seq)) ∧
    (∃ w ∈ (roundEnd (some 9)).recov.walks, w.act = .A ∧ w.start < w.derived) ∧
    ∀ n ≤ 1, TableOk (settling n).extents ∧ (settling n).service = .recovering ∧
      lookup (settling n).extents 100 = .media ⟨bandSeg, 0⟩ ∧ ((settling n).bandRec .A 0).written = n ∧
      (settling n).recov.found = [] ∧ (settling n).recov.walks = [] ∧ 2 * (16 + 0) ≤ (settling n).freeRecords := by
  refine ⟨⟨Nat.le_of_eq List.length_replicate.symm, fun y hy => by rw [List.eq_of_mem_replicate hy],
    List.mem_replicate.mpr ⟨by decide, rfl⟩, by decide, by decide⟩,
    by decide, ?_, ⟨_, .head _, by decide⟩, fun n _ => ⟨⟨?_, ?_⟩, rfl, ?_, ?_, rfl, rfl, ?_⟩⟩
  · rintro k -
    exact ⟨rfl, rfl, .swap .., by simp [ReplayItem.seq]⟩
  all_goals (obtain rfl | rfl : n = 0 ∨ n = 1 := by omega) <;> decide +kernel

/-- The end of recovery with one walked band and one recorded EVACUATED that still holds blocks. -/
def ending : State :=
  let s := { counted with service := .recovering, recov := { Recovery.start with
    phase := .round, walks := [⟨.A, 1, 2, 5, true, true, false⟩, ⟨.A, 2, 0, 3, true, false, false⟩] } }
  s.modBand .A 0 (fun b => { b with state := .evacuated, evacSeq := some 9 })

theorem test_witness_RecoveryEndDerivesState :
    ((∀ b < 3, b < (ending.bm.get .A).bands.length) ∧
    ending.recov.walks.find? (fun w => decide (w.act = .A) && decide (w.band = 1)) = some ⟨.A, 1, 2, 5, true, true, false⟩ ∧
    ending.recov.walks.find? (fun w => decide (w.act = .A) && decide (w.band = 2)) = some ⟨.A, 2, 0, 3, true, false, false⟩ ∧
    ¬ ((3 : Nat) = ending.spb) ∧
    ending.recov.walks.find? (fun w => decide (w.act = .A) && decide (w.band = 0)) = none ∧
    ((ending.bandRec .A 0).state = .evacuated ∧ 0 < homeBlocks ending.extents .A 0)) ∧
    (let s := { scanning .stampScan ⟨.collect 3 1022, 0, none⟩ with pending := [.stampScanResult .A 7 (.entries [])] }
     HeldOk s ∧ ScansOk s ∧ s.service = .recovering ∧ (∀ c, s.recov.chosen = some c → c.Sound) ∧
      ∃ t, step s = .next t) ∧
    (endReady chosen (scanning .stampScan ⟨.collect 3 1022, 0, none⟩)).service = .ready := by
  refine ⟨by decide +kernel, ⟨nofun, fun _ => ⟨rfl, rfl, fun c hc => ?_⟩, rfl, fun c hc => ?_, _, rfl⟩, by decide +kernel⟩
  · cases hc
    refine ⟨by decide +kernel, fun _ _ a => ?_⟩
    cases a
    · refine ⟨by decide +kernel, ?_⟩
      rintro w (_ | ⟨_, _ | ⟨_, h⟩⟩) ctr left hw
      · cases hw
        decide +kernel
      · cases hw
      · cases h
    · exact ⟨by decide +kernel, nofun⟩
  · cases hc
    intro a
    cases a <;> decide +kernel

/-- `ending` with band 5 recorded PARKED; band 2 of its walks becomes PARKED. -/
def endingParked : State := ending.modBand .A 5 (fun b => { b with state := .parked })

theorem test_witness_RecoveryEndDerivesState_lists :
    (∀ n ∈ [2, 513], chosen.startPos ≤ n ∧ n < chosen.startPos + chosen.geom.cks ∧
      ∃ e, (scanning .stampScan ⟨.collect 3 1022, 0, none⟩).recov.ring[n % chosen.geom.cks]? = some e ∧
        e.verdict = some .good ∧ e.epoch = chosen.stamp.epoch ∧ chosen.sStart ≤ e.seq) ∧
    (5 < (endingParked.bm.get .A).bands.length ∧ ((endReady chosen endingParked).bandRec .A 5).state = .parked ∧
      (endingParked.bandRec .A 5).state = .parked) ∧
    2 < (endingParked.bm.get .A).bands.length ∧ ((endReady chosen endingParked).bandRec .A 2).state = .parked ∧
      (endingParked.bandRec .A 2).state ≠ .parked := by
  refine ⟨fun n hn => ?_, by decide +kernel, by decide +kernel⟩
  obtain rfl | rfl : n = 2 ∨ n = 513 := by simpa using hn
  · exact ⟨by decide +kernel, by decide +kernel, ⟨some .good, true, 1, 7, some (pageStamp .bandpage 2)⟩, by decide +kernel⟩
  · exact ⟨by decide +kernel, by decide +kernel, ⟨some .good, true, 1, 7, some (pageStamp .bandpage 1)⟩, by decide +kernel⟩

/-- R170: ring_tail follows the last entry of the epoch at or above S_start, also past the end of the ring, where the stamps
of an earlier time lie once S_start is above them. R174: the band recorded PARKED comes before the one that became so. -/
theorem test_recovery_end_ring_and_parked :
    (endReady chosen (scanning .stampScan ⟨.collect 3 1022, 0, none⟩)).ck.ringTail = 514 ∧
    (endReady { chosen with sStart := 8 } (scanning .stampScan ⟨.collect 3 1022, 0, none⟩)).ck.ringTail = 6 ∧
    ((endReady chosen endingParked).bm.get .A).parked = [5, 2] := by
  decide +kernel

end Sys2Proof.Tests
end

section
/-! The extent map's operations block by block (O52, O53): what Lookup answers after each step that the operations are
made of, and how many records a step can add. -/

namespace Sys2Proof.Machine

/-! ## Lookup and the records that cover a block (R17, R22) -/

/-- What a record of kind k maps the block i blocks into it to (R18). -/
def ExtKind.block : ExtKind → Nat → Mapped
  | .media l, i => .media (l.further i)
  | .lost, _ => .lost

/-- What a record maps an LBA it covers to. -/
def Extent.mapped (e : Extent) (x : Nat) : Mapped := e.kind.block (x - e.start)

theorem Extent.covers_iff {e : Extent} {x : Nat} : e.covers x = true ↔ e.start ≤ x ∧ x < e.stop := by
  simp [Extent.covers]

theorem ExtKind.block_further (k : ExtKind) (i j : Nat) : (k.further i).block j = k.block (i + j) := by
  cases k <;> simp [ExtKind.further, ExtKind.block, Loc.further_further]

theorem ExtKind.block_ne_unmapped (k : ExtKind) (i : Nat) : k.block i ≠ .unmapped := by
  cases k <;> simp [ExtKind.block]

theorem Loc.further_zero {l : Loc} (h : l.slot < 16) : l.further 0 = l := by
  obtain ⟨⟨a, r, b, k⟩, n⟩ := l
  simp only [Loc.further, Loc.offset, Loc.mk.injEq, SegLoc.mk.injEq, true_and] at *
  omega

theorem lookup_eq_mapped (t : List Extent) (x : Nat) :
    lookup t x = ((covering t x).map (fun e => e.mapped x)).getD .unmapped := by
  unfold lookup
  cases h : covering t x with
  | none => rfl
  | some e => cases hk : e.kind <;> simp [Extent.mapped, ExtKind.block, hk]

/-- Two records of a table in order that cover one block are the same. -/
theorem TableOk.unique {t : List Extent} (h : TableOk t) {e f : Extent} (he : e ∈ t) (hf : f ∈ t) {x : Nat}
    (hex : e.covers x = true) (hfx : f.covers x = true) : e = f := by
  by_contra hne
  have := h.apart he hf hne
  rw [Extent.covers_iff] at hex hfx
  omega

theorem TableOk.covering_eq {t : List Extent} (h : TableOk t) {e : Extent} (he : e ∈ t) {x : Nat} (hx : e.covers x = true) :
    covering t x = some e := by
  cases hc : covering t x with
  | none => exact absurd (List.find?_eq_none.1 hc e he) (by simpa using hx)
  | some f =>
    have hf := covering_some hc
    rw [h.unique he hf.1 hx (Extent.covers_iff.2 hf.2)]

/-- Lookup answers what the covering record says. -/
theorem TableOk.lookup_of_mem {t : List Extent} (h : TableOk t) {e : Extent} (he : e ∈ t) {x : Nat} (hx : e.covers x = true) :
    lookup t x = e.mapped x := by
  rw [lookup_eq_mapped, h.covering_eq he hx]
  rfl

/-- Lookup answers UNMAPPED for a block that no record covers, and for no other. -/
theorem lookup_eq_unmapped {t : List Extent} {x : Nat} : lookup t x = .unmapped ↔ ∀ e ∈ t, e.covers x = false := by
  rw [lookup_eq_mapped]
  cases hc : covering t x with
  | none => simpa using List.find?_eq_none.1 hc
  | some e =>
    have he := covering_some hc
    simp only [Option.map_some, Option.getD_some, Extent.mapped, ExtKind.block_ne_unmapped, false_iff]
    intro h
    have := h e he.1
    rw [Extent.covers_iff.2 he.2] at this
    cases this

/-- Lookup answers MEDIA or LOST from a record of the table. -/
theorem exists_of_lookup {t : List Extent} {x : Nat} (h : lookup t x ≠ .unmapped) :
    ∃ e ∈ t, e.covers x = true ∧ lookup t x = e.mapped x := by
  rw [lookup_eq_mapped] at *
  cases hc : covering t x with
  | none => simp [hc] at h
  | some e =>
    have he := covering_some hc
    exact ⟨e, he.1, Extent.covers_iff.2 he.2, by simp⟩

/-- Two tables whose records say the same of a block answer the same for it. -/
theorem lookup_congr {t u : List Extent} (hu : TableOk u) {x : Nat}
    (h1 : ∀ e ∈ t, e.covers x = true → ∃ f ∈ u, f.covers x = true ∧ f.mapped x = e.mapped x)
    (h2 : ∀ f ∈ u, f.covers x = true → ∃ e ∈ t, e.covers x = true) : lookup u x = lookup t x := by
  by_cases h : lookup t x = .unmapped
  · rw [h, lookup_eq_unmapped]
    intro f hf
    by_contra hc
    obtain ⟨e, he, hec⟩ := h2 f hf (by simpa using hc)
    rw [lookup_eq_unmapped.1 h e he] at hec
    cases hec
  · obtain ⟨e, he, hec, hl⟩ := exists_of_lookup h
    obtain ⟨f, hf, hfc, hfe⟩ := h1 e he hec
    rw [hu.lookup_of_mem hf hfc, hl, hfe]

/-! ## Taking LBAs out (R24, R28) -/

/-- What is left of a record says of the blocks outside the range what the record said. -/
theorem Extent.exists_cut {e : Extent} {lo hi x : Nat} (hx : x < lo ∨ hi ≤ x) (h : e.covers x = true) :
    ∃ f ∈ e.cut lo hi, f.covers x = true ∧ f.mapped x = e.mapped x := by
  rw [Extent.covers_iff] at h
  unfold Extent.cut
  split
  · exact ⟨e, by simp, Extent.covers_iff.2 h, rfl⟩
  · rename_i hn
    rcases hx with hx | hx
    · refine ⟨{ e with len := lo - e.start }, ?_, ?_, rfl⟩
      · rw [if_pos (by omega : e.start < lo)]; simp
      · rw [Extent.covers_iff]; simp only [Extent.stop] at *; omega
    · refine ⟨⟨hi, e.stop - hi, e.kind.further (hi - e.start)⟩, ?_, ?_, ?_⟩
      · rw [if_pos (by omega : hi < e.stop)]; simp
      · rw [Extent.covers_iff]; simp only [Extent.stop] at *; omega
      · simp only [Extent.mapped, ExtKind.block_further]
        congr 1
        omega

theorem lookup_cutTable {t : List Extent} (h : TableOk t) {lo hi : Nat} (hl : lo ≤ hi) (x : Nat) :
    lookup (cutTable t lo hi) x = if lo ≤ x ∧ x < hi then .unmapped else lookup t x := by
  split
  · rename_i hx
    rw [lookup_eq_unmapped]
    intro e he
    have := cutTable_clear h hx.1 hx.2 he
    by_contra hc
    have := Extent.covers_iff.1 (by simpa using hc : e.covers x = true)
    omega
  · refine lookup_congr (cutTable_ok h hl) ?_ ?_
    · intro e he hc
      obtain ⟨f, hf, hfc⟩ := Extent.exists_cut (lo := lo) (hi := hi) (by omega) hc
      exact ⟨f, List.mem_flatMap.2 ⟨e, he, hf⟩, hfc⟩
    · intro f hf hc
      obtain ⟨e, he, hfe⟩ := List.mem_flatMap.1 hf
      have := Extent.mem_cut (h.2 e he).1 hfe
      have := Extent.covers_iff.1 hc
      exact ⟨e, he, Extent.covers_iff.2 (by omega)⟩

/-- A cut leaves at most one record more, and one more only where a record reaches over both ends of the range. -/
theorem Extent.length_cut_le (e : Extent) (lo hi : Nat) :
    (e.cut lo hi).length ≤ 1 + (if e.start < lo ∧ hi < e.stop then 1 else 0) := by
  unfold Extent.cut
  split
  · simp
  · by_cases h1 : e.start < lo <;> by_cases h2 : hi < e.stop <;> simp [h1, h2]

theorem length_cutTable_eq (t : List Extent) (lo hi : Nat) :
    (cutTable t lo hi).length = (t.map (fun e => (e.cut lo hi).length)).sum := by
  simp [cutTable, List.length_flatMap]

/-- A table that no record of which reaches over both ends of the range does not grow. -/
theorem length_cutTable_le_of {t : List Extent} {lo hi : Nat} (h : ∀ e ∈ t, ¬ (e.start < lo ∧ hi < e.stop)) :
    (cutTable t lo hi).length ≤ t.length := by
  rw [length_cutTable_eq]
  refine le_trans (List.sum_le_card_nsmul _ 1 ?_) (by simp)
  intro n hn
  obtain ⟨e, he, rfl⟩ := List.mem_map.1 hn
  have := e.length_cut_le lo hi
  rwa [if_neg (h e he)] at this

/-- Taking LBAs out of a table in order adds at most one record. -/
theorem length_cutTable_le {t : List Extent} (h : TableOk t) {lo hi : Nat} (hl : lo ≤ hi) :
    (cutTable t lo hi).length ≤ t.length + 1 := by
  obtain ⟨hp, hlen⟩ := h
  induction t with
  | nil => simp [cutTable]
  | cons e t ih =>
    rw [List.pairwise_cons] at hp
    have hcons : (cutTable (e :: t) lo hi).length = (e.cut lo hi).length + (cutTable t lo hi).length := by
      simp [cutTable]
    have hcut := e.length_cut_le lo hi
    by_cases hs : e.start < lo ∧ hi < e.stop
    · have hrest := length_cutTable_le_of (t := t) (lo := lo) (hi := hi) (fun f hf => by
        have := hp.1 f hf
        omega)
      simp only [if_pos hs] at hcut
      simp only [List.length_cons]
      omega
    · have ih := ih hp.2 (fun f hf => hlen f (by simp [hf]))
      simp only [if_neg hs] at hcut
      simp only [List.length_cons]
      omega

/-! ## Putting a record in (R25) -/

theorem length_insertRecord (x : Extent) (t : List Extent) : (insertRecord x t).length = t.length + 1 := by
  induction t with
  | nil => rfl
  | cons e t ih =>
    unfold insertRecord
    split <;> simp [ih]

theorem length_insertMapping_le (g : Option Geometry) (t : List Extent) (lba : Nat) (k : ExtKind) :
    (insertMapping g t lba k).length ≤ t.length + 1 := by
  unfold insertMapping
  split
  · rw [length_insertRecord]
  · simp
  · simp
  · split
    · rw [List.length_map]
      exact le_trans (List.length_filter_le _ _) (by omega)
    · simp

/-- A predecessor that absorbs a mapping says of the block after its last what the mapping says (R6, R25). -/
theorem Extent.absorbsAfter_kind {p : Extent} {g : Option Geometry} {lba : Nat} {k : ExtKind} (hl : 1 ≤ p.len)
    (h : p.absorbsAfter g lba k = true) : k = p.kind.further p.len := by
  simp only [Extent.absorbsAfter, Bool.and_eq_true] at h
  have h := h.2
  cases hp : p.kind <;> cases k <;> simp only [hp, Bool.false_eq_true, Loc.contiguous, Bool.and_eq_true,
    decide_eq_true_eq] at h
  · rw [h.1, ExtKind.further, Loc.further_further, Nat.sub_add_cancel hl]
  · rfl

/-- A successor that absorbs a mapping goes on from it (R6, R25). -/
theorem Extent.absorbsBefore_kind {q : Extent} {g : Option Geometry} {lba : Nat} {k : ExtKind}
    (h : q.absorbsBefore g lba k = true) : q.kind = k.further 1 := by
  simp only [Extent.absorbsBefore, Bool.and_eq_true] at h
  have h := h.2
  cases hq : q.kind <;> cases k <;> simp only [hq, Bool.false_eq_true, Loc.contiguous, Bool.and_eq_true,
    decide_eq_true_eq] at h
  · rw [h.1, ExtKind.further]
  · rfl

/-- A table where one record n took the place of some, and took the blocks R besides: the blocks R are as n says, and the
others as before. -/
theorem lookup_replaced {t u : List Extent} (hu : TableOk u) {n : Extent} (hn : n ∈ u) (R : Nat → Prop)
    (hnew : ∀ x, R x → n.covers x = true)
    (hold : ∀ e ∈ t, e ∈ u ∨ ∀ x, ¬ R x → e.covers x = true → n.covers x = true ∧ n.mapped x = e.mapped x)
    (hrest : ∀ f ∈ u, f = n ∨ f ∈ t)
    (hin : ∀ x, ¬ R x → n.covers x = true → ∃ e ∈ t, e.covers x = true) (x : Nat) :
    (R x → lookup u x = n.mapped x) ∧ (¬ R x → lookup u x = lookup t x) := by
  refine ⟨fun hx => hu.lookup_of_mem hn (hnew x hx), fun hx => lookup_congr hu ?_ ?_⟩
  · intro e he hc
    rcases hold e he with h | h
    · exact ⟨e, h, hc, rfl⟩
    · exact ⟨n, hn, h x hx hc⟩
  · intro f hf hc
    rcases hrest f hf with rfl | h
    · exact hin x hx hc
    · exact ⟨f, h, hc⟩

/-- Record n of the table u stands for the mapping k of lba, and for the records of t that u lacks (R25). -/
structure StandsFor (t u : List Extent) (lba : Nat) (k : ExtKind) (n : Extent) : Prop where
  mem : n ∈ u
  covers : n.covers lba = true
  mapped : n.mapped lba = k.block 0
  old : ∀ e ∈ t, e ∈ u ∨ ∀ x, e.covers x = true → n.covers x = true ∧ n.mapped x = e.mapped x
  rest : ∀ f ∈ u, f = n ∨ f ∈ t
  only : ∀ x, x ≠ lba → n.covers x = true → ∃ e ∈ t, e.covers x = true

theorem StandsFor.lookup {t u : List Extent} {lba : Nat} {k : ExtKind} {n : Extent} (h : StandsFor t u lba k n)
    (hu : TableOk u) (x : Nat) : lookup u x = if x = lba then k.block 0 else lookup t x := by
  have hr := lookup_replaced hu h.mem (fun x => x = lba) (fun x hx => hx ▸ h.covers)
    (fun e he => (h.old e he).imp_right (fun h y _ => h y)) h.rest h.only x
  split
  · rename_i hx
    rw [hr.1 hx, hx, h.mapped]
  · rename_i hx
    exact hr.2 hx

theorem insertRecord_standsFor (t : List Extent) (lba : Nat) (k : ExtKind) :
    StandsFor t (insertRecord ⟨lba, 1, k⟩ t) lba k ⟨lba, 1, k⟩ where
  mem := mem_insertRecord.2 (.inl rfl)
  covers := by simp [Extent.covers, Extent.stop]
  mapped := by simp [Extent.mapped]
  old e he := .inl (mem_insertRecord.2 (.inr he))
  rest _ hf := mem_insertRecord.1 hf
  only x hx hc := by
    rw [Extent.covers_iff] at hc
    simp only [Extent.stop] at hc
    omega

/-- The predecessor grown over the mapping stands for both. -/
theorem grow_standsFor {t : List Extent} {p : Extent} (hp : p ∈ t) (hl : 1 ≤ p.len) {g : Option Geometry} {lba : Nat}
    {k : ExtKind} (ha : p.absorbsAfter g lba k = true) :
    StandsFor t (t.map (fun e => if e = p then { e with len := e.len + 1 } else e)) lba k { p with len := p.len + 1 } where
  mem := List.mem_map.2 ⟨p, hp, by simp⟩
  covers := by
    have hs := (Extent.absorbsAfter_spec ha).1
    rw [Extent.covers_iff]
    simp only [Extent.stop] at *
    omega
  mapped := by
    have hs := (Extent.absorbsAfter_spec ha).1
    rw [Extent.absorbsAfter_kind hl ha, ExtKind.block_further, Extent.mapped]
    simp only [Extent.stop] at *
    congr 1
    omega
  old e he := by
    by_cases hep : e = p
    · subst hep
      refine .inr (fun y hy => ⟨?_, rfl⟩)
      rw [Extent.covers_iff] at *
      simp only [Extent.stop] at *
      omega
    · exact .inl (List.mem_map.2 ⟨e, he, by simp [hep]⟩)
  rest f hf := by
    obtain ⟨e, he, rfl⟩ := List.mem_map.1 hf
    split
    · rename_i hep
      exact .inl (by rw [hep])
    · exact .inr he
  only x hx hc := by
    have hs := (Extent.absorbsAfter_spec ha).1
    refine ⟨p, hp, ?_⟩
    rw [Extent.covers_iff] at *
    simp only [Extent.stop] at *
    omega

/-- The successor begun one block earlier with the mapping stands for both. -/
theorem prepend_standsFor {t : List Extent} {q : Extent} (hq : q ∈ t) {g : Option Geometry} {lba : Nat} {k : ExtKind}
    (ha : q.absorbsBefore g lba k = true) :
    StandsFor t (t.map (fun e => if e = q then ⟨lba, e.len + 1, k⟩ else e)) lba k ⟨lba, q.len + 1, k⟩ where
  mem := List.mem_map.2 ⟨q, hq, by simp⟩
  covers := by simp [Extent.covers, Extent.stop]
  mapped := by simp [Extent.mapped]
  old e he := by
    have hs := (Extent.absorbsBefore_spec ha).1
    by_cases hep : e = q
    · subst hep
      refine .inr (fun y hy => ?_)
      rw [Extent.covers_iff] at *
      refine ⟨by simp only [Extent.stop] at *; omega, ?_⟩
      rw [Extent.mapped, Extent.mapped, Extent.absorbsBefore_kind ha, ExtKind.block_further]
      congr 1
      dsimp only
      omega
    · exact .inl (List.mem_map.2 ⟨e, he, by simp [hep]⟩)
  rest f hf := by
    obtain ⟨e, he, rfl⟩ := List.mem_map.1 hf
    split
    · rename_i hep
      exact .inl (by rw [hep])
    · exact .inr he
  only x hx hc := by
    have hs := (Extent.absorbsBefore_spec ha).1
    refine ⟨q, hq, ?_⟩
    rw [Extent.covers_iff] at *
    simp only [Extent.stop] at *
    omega

/-- The predecessor grown over the mapping and the successor stands for all three. -/
theorem join_standsFor {t : List Extent} {p q : Extent} (hp : p ∈ t) (hq : q ∈ t) (hl : 1 ≤ p.len) {g : Option Geometry} {lba : Nat}
    {k : ExtKind} (ha : p.absorbsAfter g lba k = true) (hb : q.absorbsBefore g lba k = true) :
    StandsFor t ((t.filter (fun e => e ≠ q)).map (fun e => if e = p then { e with len := p.len + 1 + q.len } else e)) lba k
      { p with len := p.len + 1 + q.len } where
  mem := by
    refine List.mem_map.2 ⟨p, List.mem_filter.2 ⟨hp, ?_⟩, by simp⟩
    have h1 := (Extent.absorbsAfter_spec ha).1
    have h2 := (Extent.absorbsBefore_spec hb).1
    simp only [ne_eq, decide_not, Bool.not_eq_eq_eq_not, Bool.not_true, decide_eq_false_iff_not]
    rintro rfl
    simp only [Extent.stop] at *
    omega
  covers := by
    have hs := (Extent.absorbsAfter_spec ha).1
    rw [Extent.covers_iff]
    simp only [Extent.stop] at *
    omega
  mapped := by
    have hs := (Extent.absorbsAfter_spec ha).1
    rw [Extent.absorbsAfter_kind hl ha, ExtKind.block_further, Extent.mapped]
    simp only [Extent.stop] at *
    congr 1
    omega
  old e he := by
    have h1 := (Extent.absorbsAfter_spec ha).1
    have h2 := (Extent.absorbsBefore_spec hb).1
    by_cases hep : e = p
    · subst hep
      refine .inr (fun y hy => ⟨?_, rfl⟩)
      rw [Extent.covers_iff] at *
      simp only [Extent.stop] at *
      omega
    · by_cases heq : e = q
      · subst heq
        refine .inr (fun y hy => ?_)
        rw [Extent.covers_iff] at *
        simp only [Extent.stop] at *
        refine ⟨by omega, ?_⟩
        rw [Extent.mapped, Extent.mapped, Extent.absorbsBefore_kind hb, Extent.absorbsAfter_kind hl ha,
          ExtKind.block_further, ExtKind.block_further]
        congr 1
        dsimp only
        omega
      · exact .inl (List.mem_map.2 ⟨e, List.mem_filter.2 ⟨he, by simpa using heq⟩, by simp [hep]⟩)
  rest f hf := by
    obtain ⟨e, he, rfl⟩ := List.mem_map.1 hf
    split
    · rename_i hep
      exact .inl (by rw [hep])
    · exact .inr (List.mem_filter.1 he).1
  only x hx hc := by
    have h1 := (Extent.absorbsAfter_spec ha).1
    have h2 := (Extent.absorbsBefore_spec hb).1
    rw [Extent.covers_iff] at hc
    simp only [Extent.stop] at *
    by_cases hx : x < lba
    · exact ⟨p, hp, by rw [Extent.covers_iff]; simp only [Extent.stop]; omega⟩
    · exact ⟨q, hq, by rw [Extent.covers_iff]; simp only [Extent.stop]; omega⟩

theorem lookup_insertMapping {t : List Extent} (h : TableOk t) (g : Option Geometry) {lba : Nat} (k : ExtKind)
    (hc : ∀ e ∈ t, lba < e.start ∨ e.stop ≤ lba) (x : Nat) :
    lookup (insertMapping g t lba k) x = if x = lba then k.block 0 else lookup t x := by
  have hu := insertMapping_ok h g k hc
  suffices ∃ n, StandsFor t (insertMapping g t lba k) lba k n by
    obtain ⟨n, hn⟩ := this
    exact hn.lookup hu x
  unfold insertMapping
  split
  · exact ⟨_, insertRecord_standsFor t lba k⟩
  · rename_i p hp _
    have hpm := List.mem_of_find?_eq_some hp
    exact ⟨_, grow_standsFor hpm (h.2 p hpm).1 (List.find?_some (p := fun e => Extent.absorbsAfter e g lba k) hp)⟩
  · rename_i q _ hq
    exact ⟨_, prepend_standsFor (List.mem_of_find?_eq_some hq)
      (List.find?_some (p := fun e => Extent.absorbsBefore e g lba k) hq)⟩
  · rename_i p q hp hq
    have hpm := List.mem_of_find?_eq_some hp
    have ha := List.find?_some (p := fun e => Extent.absorbsAfter e g lba k) hp
    split
    · exact ⟨_, join_standsFor hpm (List.mem_of_find?_eq_some hq) (h.2 p hpm).1 ha (List.find?_some (p := fun e => Extent.absorbsBefore e g lba k) hq)⟩
    · exact ⟨_, grow_standsFor hpm (h.2 p hpm).1 ha⟩

/-! ## The removal and insertion steps together (R24, R25) -/

theorem lookup_remap {t u : List Extent} (h : TableOk t) {g : Option Geometry} {free lba : Nat} {k : ExtKind}
    (hr : remap g free t lba k = some u) (x : Nat) : lookup u x = if x = lba then k.block 0 else lookup t x := by
  simp only [remap] at hr
  split at hr
  · cases hr
  · split at hr
    · cases hr
    · cases hr
      rw [lookup_insertMapping (cutTable_ok h (by omega)) g k (fun e he => cutTable_clear h (le_refl lba) (by omega) he),
        lookup_cutTable h (by omega)]
      split
      · rfl
      · rw [if_neg (by omega)]

/-- With two records free a block can be mapped anew (R24, R25, R35). -/
theorem exists_remap {t : List Extent} (h : TableOk t) (g : Option Geometry) {free : Nat} (hf : 2 ≤ free) (lba : Nat)
    (k : ExtKind) : ∃ u, remap g free t lba k = some u := by
  have h1 := length_cutTable_le h (Nat.le_add_right lba 1)
  simp only [remap]
  rw [if_neg (by omega), if_neg (by omega)]
  exact ⟨_, rfl⟩

/-- A mapping takes no more records than are free (R39). -/
theorem length_remap_le {t u : List Extent} (h : TableOk t) {g : Option Geometry} {free lba : Nat} {k : ExtKind}
    (hr : remap g free t lba k = some u) : u.length ≤ t.length + free ∧ u.length ≤ t.length + 2 := by
  have h1 := length_cutTable_le h (Nat.le_add_right lba 1)
  have h2 := length_insertMapping_le g (cutTable t lba (lba + 1)) lba k
  simp only [remap] at hr
  split at hr
  · cases hr
  · split at hr
    · cases hr
    · cases hr
      omega

/-! ## Conversion to LOST (R39) -/

/-- A LOST record n with the records u beside it stands for the table t with the blocks of its record e lost (R39). -/
structure LostFor (t u : List Extent) (e n : Extent) : Prop where
  kind : n.kind = .lost
  covers : ∀ x, e.covers x = true → n.covers x = true
  old : ∀ f ∈ t, f ∈ u ∨ ∀ x, e.covers x = false → f.covers x = true → n.covers x = true ∧ f.kind = .lost
  rest : ∀ f ∈ u, f ∈ t
  only : ∀ x, e.covers x = false → n.covers x = true → ∃ f ∈ t, f.covers x = true
  length : u.length + 1 ≤ t.length

theorem length_filter_ne_lt {t : List Extent} {e : Extent} (he : e ∈ t) : (t.filter (fun r => r ≠ e)).length + 1 ≤ t.length := by
  have := List.length_filter_lt_length_iff_exists (l := t) (p := fun r => decide (r ≠ e))
  have := this.2 ⟨e, he, by simp⟩
  omega

theorem converted_lostFor {t : List Extent} {e : Extent} (he : e ∈ t) :
    LostFor t (t.filter (fun r => r ≠ e)) e ⟨e.start, e.len, .lost⟩ where
  kind := rfl
  covers _ hx := hx
  old f hf := by
    by_cases hfe : f = e
    · subst hfe
      exact .inr (fun x h1 h2 => absurd h2 (by simp [h1]))
    · exact .inl (List.mem_filter.2 ⟨hf, by simpa using hfe⟩)
  rest _ hf := (List.mem_filter.1 hf).1
  only x h1 h2 := absurd h2 (by rw [show Extent.covers ⟨e.start, e.len, .lost⟩ x = e.covers x from rfl, h1]; simp)
  length := length_filter_ne_lt he

/-- A LOST record merged with a LOST neighbour m into the record of both. -/
theorem LostFor.merge {t u : List Extent} {e n m k : Extent} (h : LostFor t u e n) (hm : m ∈ u) (hml : m.kind = .lost)
    (hk : k.kind = .lost) (hc : ∀ x, k.covers x = true ↔ n.covers x = true ∨ m.covers x = true) :
    LostFor t (u.filter (fun r => r ≠ m)) e k where
  kind := hk
  covers x hx := (hc x).2 (.inl (h.covers x hx))
  old f hf := by
    rcases h.old f hf with hu | hn
    · by_cases hfm : f = m
      · subst hfm
        exact .inr (fun x _ hx => ⟨(hc x).2 (.inr hx), hml⟩)
      · exact .inl (List.mem_filter.2 ⟨hu, by simpa using hfm⟩)
    · exact .inr (fun x h1 h2 => ⟨(hc x).2 (.inl (hn x h1 h2).1), (hn x h1 h2).2⟩)
  rest f hf := h.rest f (List.mem_filter.1 hf).1
  only x h1 h2 := ((hc x).1 h2).elim (h.only x h1) (fun hx => ⟨m, h.rest m hm, hx⟩)
  length := by
    have := length_filter_ne_lt hm
    have := h.length
    omega

theorem mergeLostBelow_lostFor {t u : List Extent} {e n : Extent} (h : LostFor t u e n) :
    LostFor t (mergeLostBelow u n).1 e (mergeLostBelow u n).2 := by
  unfold mergeLostBelow
  split
  · rename_i p hp
    have hps := List.find?_some hp
    simp only [Bool.and_eq_true, decide_eq_true_eq] at hps
    refine h.merge (List.mem_of_find?_eq_some hp) hps.1.1 rfl (fun x => ?_)
    simp only [Extent.covers_iff, Extent.stop] at *
    omega
  · exact h

theorem mergeLostAbove_lostFor {t u : List Extent} {e n : Extent} (h : LostFor t u e n) :
    LostFor t (mergeLostAbove u n).1 e (mergeLostAbove u n).2 := by
  unfold mergeLostAbove
  split
  · rename_i p hp
    have hps := List.find?_some hp
    simp only [Bool.and_eq_true, decide_eq_true_eq] at hps
    refine h.merge (List.mem_of_find?_eq_some hp) hps.1.1 rfl (fun x => ?_)
    simp only [Extent.covers_iff, Extent.stop] at *
    omega
  · exact h

/-- What a conversion puts in the table's place. -/
theorem convertLost_lostFor {t : List Extent} {e : Extent} (he : e ∈ t) :
    ∃ u n, convertLost t e = insertRecord n u ∧ LostFor t u e n :=
  ⟨_, _, rfl, mergeLostAbove_lostFor (mergeLostBelow_lostFor (converted_lostFor he))⟩

/-- A conversion makes LOST the blocks of the record and no other. -/
theorem lookup_convertLost {t : List Extent} (h : TableOk t) {e : Extent} (he : e ∈ t) (x : Nat) :
    lookup (convertLost t e) x = if e.covers x then .lost else lookup t x := by
  have hu := convertLost_ok h he
  obtain ⟨u, n, hc, hl⟩ := convertLost_lostFor he
  rw [hc] at hu ⊢
  have hlost : ∀ (f : Extent) y, f.kind = .lost → f.mapped y = .lost := fun f y hf => by simp [Extent.mapped, hf, ExtKind.block]
  have hr := lookup_replaced (t := t) hu (mem_insertRecord.2 (.inl rfl)) (fun y => e.covers y = true) hl.covers
    (fun f hf => (hl.old f hf).imp (fun hfu => mem_insertRecord.2 (.inr hfu)) (fun h y hy hfy => by
      have := h y (by simpa using hy) hfy
      exact ⟨this.1, (hlost n y hl.kind).trans (hlost f y this.2).symm⟩))
    (fun f hf => (mem_insertRecord.1 hf).imp_right (hl.rest f)) (fun y hy => hl.only y (by simpa using hy)) x
  split
  · rename_i hx
    rw [hr.1 hx, hlost n x hl.kind]
  · rename_i hx
    exact hr.2 hx

/-- A conversion takes no record more. -/
theorem length_convertLost_le {t : List Extent} {e : Extent} (he : e ∈ t) : (convertLost t e).length ≤ t.length := by
  obtain ⟨u, n, hc, hl⟩ := convertLost_lostFor he
  rw [hc, length_insertRecord]
  exact hl.length

/-! ## Make lost (R31) -/

/-- A Make lost keeps the table within what its earmarks leave of it (R17, R21, R39). -/
theorem length_makeLostTable_le (g : Option Geometry) (held : Nat) (l : List (Nat × Loc)) {t : List Extent} (h : TableOk t)
    (hr : t.length + held ≤ Config.mapCapacity) : (makeLostTable g held l t).1.length + held ≤ Config.mapCapacity := by
  induction l generalizing t with
  | nil => exact hr
  | cons x rest ih =>
    obtain ⟨lba, loc⟩ := x
    unfold makeLostTable
    split
    · split
      · rename_i u hu
        have := length_remap_le h hu
        exact ih (remap_ok h hu) (by omega)
      · split
        · rename_i e he
          have := length_convertLost_le (covering_some he).1
          exact ih (convertLost_ok h (covering_some he).1) (by omega)
        · exact ih h hr
    · exact ih h hr

/-- With two records free for each block, a Make lost makes LOST and marks just the blocks still at their expected
locations (R31). -/
theorem makeLostTable_spec (g : Option Geometry) (held : Nat) (l : List (Nat × Loc)) {t : List Extent} (h : TableOk t)
    (hf : 2 * l.length ≤ Config.mapCapacity - t.length - held) (x : Nat) :
    ((∃ loc, (x, loc) ∈ l ∧ lookup t x = .media loc) →
      x ∈ (makeLostTable g held l t).2.1 ∧ lookup (makeLostTable g held l t).1 x = .lost) ∧
    (¬ (∃ loc, (x, loc) ∈ l ∧ lookup t x = .media loc) →
      x ∉ (makeLostTable g held l t).2.1 ∧ lookup (makeLostTable g held l t).1 x = lookup t x) := by
  induction l generalizing t with
  | nil => simp [makeLostTable]
  | cons b rest ih =>
    obtain ⟨lba, loc⟩ := b
    simp only [List.length_cons] at hf
    unfold makeLostTable
    by_cases hl : lookup t lba = .media loc
    · obtain ⟨u, hu⟩ := exists_remap h g (free := Config.mapCapacity - t.length - held) (by omega) lba .lost
      have hlen := (length_remap_le h hu).2
      have ih := ih (remap_ok h hu) (by omega)
      have hx := lookup_remap h hu x
      simp only [if_pos hl, hu]
      by_cases hxl : x = lba
      · subst hxl
        simp only [if_pos, ExtKind.block] at hx
        rw [hx] at ih
        have ih := ih.2 (by simp)
        refine ⟨fun _ => ⟨by simp, ih.2⟩, fun hn => absurd ⟨loc, by simp, hl⟩ hn⟩
      · rw [if_neg hxl] at hx
        rw [hx] at ih
        simpa [hxl] using ih
    · simp only [if_neg hl]
      have ih := ih h (by omega)
      by_cases hxl : x = lba
      · subst hxl
        have hiff : (∃ k, (x, k) ∈ (x, loc) :: rest ∧ lookup t x = .media k) ↔ ∃ k, (x, k) ∈ rest ∧ lookup t x = .media k := by
          constructor
          · rintro ⟨k, hk, hm⟩
            rcases List.mem_cons.1 hk with hk | hk
            · cases hk
              exact absurd hm hl
            · exact ⟨k, hk, hm⟩
          · rintro ⟨k, hk, hm⟩
            exact ⟨k, List.mem_cons_of_mem _ hk, hm⟩
        rw [hiff]
        exact ih
      · simpa [hxl] using ih

/-! ## The blocks of a range (R28) -/

theorem sum_ite_eq_countP {α : Type} (p : α → Bool) (l : List α) :
    (l.map (fun x => if p x then 1 else 0)).sum = l.countP p := by
  induction l with
  | nil => rfl
  | cons x l ih =>
    rw [List.map_cons, List.sum_cons, List.countP_cons, ih]
    omega

/-- Of a table in order at most one record covers a block. -/
theorem TableOk.countP_covers {t : List Extent} (h : TableOk t) (x : Nat) :
    t.countP (fun e => e.covers x) = if lookup t x ≠ .unmapped then 1 else 0 := by
  by_cases hx : lookup t x = .unmapped
  · rw [if_neg (by simpa using hx), List.countP_eq_zero]
    intro e he
    simp [lookup_eq_unmapped.1 hx e he]
  · obtain ⟨e, he, hc, -⟩ := exists_of_lookup hx
    rw [if_pos hx, ← List.count_eq_one_of_mem h.nodup he]
    refine List.countP_congr (fun f hf => ⟨fun hfc => ?_, fun hfe => ?_⟩)
    · rw [h.unique hf he hfc hc]
      exact beq_self_eq_true e
    · rw [eq_of_beq hfe]
      exact hc

/-- Release counts the mapped blocks of its range (R28). -/
theorem mappedIn_eq {t : List Extent} (h : TableOk t) (lba count : Nat) :
    mappedIn t lba count = (List.range count).countP (fun i => decide (lookup t (lba + i) ≠ .unmapped)) := by
  induction count with
  | zero =>
    refine List.sum_eq_zero (fun n hn => ?_)
    obtain ⟨e, he, rfl⟩ := List.mem_map.1 hn
    have := (h.2 e he).1
    simp only [Extent.stop]
    omega
  | succ c ih =>
    have hstep : mappedIn t lba (c + 1) = mappedIn t lba c + (t.map (fun e => if e.covers (lba + c) then 1 else 0)).sum := by
      unfold mappedIn
      rw [← List.sum_map_add]
      congr 1
      refine List.map_congr_left (fun e he => ?_)
      by_cases hc : e.covers (lba + c) = true
      · rw [if_pos hc]
        rw [Extent.covers_iff] at hc
        omega
      · rw [if_neg hc]
        rw [Extent.covers_iff] at hc
        have := (h.2 e he).1
        simp only [Extent.stop] at *
        omega
    rw [hstep, ih, sum_ite_eq_countP, h.countP_covers, List.range_succ, List.countP_append]
    simp

/-! ## Sweep (R23) -/

theorem insertByKey_perm {α : Type} (key : α → Nat) (x : α) (l : List α) : (insertByKey key x l).Perm (x :: l) := by
  induction l with
  | nil => exact List.Perm.refl _
  | cons y l ih =>
    unfold insertByKey
    split
    · exact List.Perm.refl _
    · exact (ih.cons y).trans (List.Perm.swap x y l)

theorem sortByKey_perm {α : Type} (key : α → Nat) (l : List α) : (sortByKey key l).Perm l := by
  induction l with
  | nil => exact List.Perm.refl _
  | cons x l ih => exact (insertByKey_perm key x _).trans (ih.cons x)

theorem insertByKey_sorted {α : Type} (key : α → Nat) (x : α) {l : List α} (h : l.Pairwise (fun a b => key a ≤ key b)) :
    (insertByKey key x l).Pairwise (fun a b => key a ≤ key b) := by
  induction l with
  | nil => simp [insertByKey]
  | cons y l ih =>
    have hy := List.pairwise_cons.1 h
    unfold insertByKey
    split
    · rename_i hxy
      refine List.pairwise_cons.2 ⟨fun z hz => ?_, h⟩
      rcases List.mem_cons.1 hz with rfl | hz
      · exact hxy
      · exact le_trans hxy (hy.1 z hz)
    · rename_i hxy
      refine List.pairwise_cons.2 ⟨fun z hz => ?_, ih hy.2⟩
      rcases List.mem_cons.1 ((insertByKey_perm key x l).mem_iff.1 hz) with rfl | hz
      · omega
      · exact hy.1 z hz

theorem sortByKey_sorted {α : Type} (key : α → Nat) (l : List α) :
    (sortByKey key l).Pairwise (fun a b => key a ≤ key b) := by
  induction l with
  | nil => exact List.Pairwise.nil
  | cons x l ih => exact insertByKey_sorted key x ih

/-- The blocks of a table in order are those that Lookup maps, each at its location. -/
theorem mem_blocks {t : List Extent} (h : TableOk t) (x : Nat) (l : Loc) :
    (x, l) ∈ t.flatMap Extent.blocks ↔ lookup t x = .media l := by
  constructor
  · intro hx
    obtain ⟨e, he, hb⟩ := List.mem_flatMap.1 hx
    unfold Extent.blocks at hb
    split at hb
    · cases hb
    · rename_i f hk
      obtain ⟨i, hi, hxi⟩ := List.mem_map.1 hb
      cases hxi
      have hc : e.covers (e.start + i) = true := by
        rw [Extent.covers_iff]
        simp only [Extent.stop, List.mem_range] at *
        omega
      rw [h.lookup_of_mem he hc, Extent.mapped, hk, ExtKind.block, Nat.add_sub_cancel_left]
  · intro hl
    obtain ⟨e, he, hc, hm⟩ := exists_of_lookup (t := t) (x := x) (by simp [hl])
    rw [hl, Extent.mapped] at hm
    refine List.mem_flatMap.2 ⟨e, he, ?_⟩
    rw [Extent.covers_iff] at hc
    unfold Extent.blocks
    split
    · rename_i hk
      simp [hk, ExtKind.block] at hm
    · rename_i f hk
      simp only [hk, ExtKind.block, Mapped.media.injEq] at hm
      refine List.mem_map.2 ⟨x - e.start, ?_, ?_⟩
      · simp only [Extent.stop, List.mem_range] at *
        omega
      · rw [hm, Nat.add_sub_cancel' hc.1]

/-- The blocks that a Sweep finds, those beyond its limit among them. -/
def sweepAll (t : List Extent) (target : SweepTarget) (pos : Nat) : List (Nat × Loc) :=
  sortByKey (fun x => x.2.offset)
    ((t.flatMap Extent.blocks).filter (fun x => target.holds x.2 && decide (pos ≤ x.2.offset)))

theorem sweep_eq (t : List Extent) (target : SweepTarget) (pos limit : Nat) :
    sweep t target pos limit = ((sweepAll t target pos).take limit, decide (limit < (sweepAll t target pos).length)) := rfl

theorem mem_sweepAll {t : List Extent} (h : TableOk t) (target : SweepTarget) (pos x : Nat) (l : Loc) :
    (x, l) ∈ sweepAll t target pos ↔ lookup t x = .media l ∧ target.holds l = true ∧ pos ≤ l.offset := by
  unfold sweepAll
  rw [(sortByKey_perm _ _).mem_iff, List.mem_filter, mem_blocks h]
  simp

theorem sweepAll_sorted (t : List Extent) (target : SweepTarget) (pos : Nat) :
    (sweepAll t target pos).Pairwise (fun x y => x.2.offset ≤ y.2.offset) := sortByKey_sorted (fun x : Nat × Loc => x.2.offset) _

/-- A list in ascending order keeps the members it drops above those it keeps. -/
theorem take_le_of_sorted {α : Type} {key : α → Nat} {l : List α} (h : l.Pairwise (fun a b => key a ≤ key b)) {n : Nat} {x : α}
    (hx : x ∈ l) (hn : x ∉ l.take n) : ∀ y ∈ l.take n, key y ≤ key x := by
  have hx' : x ∈ l.drop n := by
    rw [← List.take_append_drop n l] at hx
    exact (List.mem_append.1 hx).resolve_left hn
  rw [← List.take_append_drop n l, List.pairwise_append] at h
  exact fun y hy => h.2.2 y hy x hx'

end Sys2Proof.Machine
end

section
/-! What one event can do to the part, as the extent map sees it. `Work s t`: t came from s by updates that leave the table,
the bands' counts, the earmarks and the service state alone and bring no lane into FAULTED. `MapWork s t`: the table may
have changed too, with the counts brought along. `PartWork s t`: any step of the part outside a reset. -/

namespace Sys2Proof.Machine

/-! ## The updates -/

/-- The fields that the named updates below do not speak of. -/
structure Watched where
  extents : List Extent
  earmarks : Nat
  service : Service
  geom : Option Geometry
  recov : Recovery
  bm : Two BandMgr
  lanes : List Lane
  seq : Option Nat
  phase : Option DataPhase
  commits : List Nat × Nat

@[inherit_doc Watched]
def State.watched (s : State) : Watched :=
  ⟨s.extents, s.earmarks, s.service, s.geom, s.recov, s.bm, s.lanes, s.seq, s.phase,
   (s.rc.commitQ, s.rc.commitAt)⟩

/-- One update that leaves the extent map, the bands' counts (R33) and the earmarks alone, and brings no lane into FAULTED. -/
inductive Touch : State → State → Prop
  | aside {s t : State} (h : t.watched = s.watched) : Touch s t
  | lane (s : State) (n : Nat) (f : Lane → Lane) (h : ∀ c, (f c).state = .faulted → c.state = .faulted) :
      Touch s (s.modLane n f)
  | band (s : State) (a : Actuator) (b : Nat) (f : Band → Band)
      (h : ∀ r, (f r).valid = r.valid ∧ (f r).extents = r.extents) : Touch s (s.modBand a b f)
  | parked (s : State) (a : Actuator) (f : List Nat → List Nat) :
      Touch s (s.modMgr a (fun m => { m with parked := f m.parked }))
  | ring (s : State) (a : Actuator) (f : Ring → Ring) : Touch s (s.modRing a f)
  | seq (s : State) : Touch s (assignSeq s).2

/-- t came from s by such updates alone. -/
def Work (s t : State) : Prop := Relation.ReflTransGen Touch s t

theorem Work.refl (s : State) : Work s s := Relation.ReflTransGen.refl

theorem Work.trans {s t u : State} (h : Work s t) (k : Work t u) : Work s u := Relation.ReflTransGen.trans h k

theorem Touch.work {s t : State} (h : Touch s t) : Work s t := Relation.ReflTransGen.single h

theorem Work.aside {s t : State} (h : t.watched = s.watched) : Work s t := (Touch.aside h).work

theorem Work.foldl {α : Type} {f : State → α → State} (h : ∀ s x, Work s (f s x)) (l : List α) (s : State) :
    Work s (l.foldl f s) := by
  induction l generalizing s with
  | nil => exact Work.refl s
  | cons x l ih => exact (h s x).trans (ih _)

theorem anyOrder_work {α : Type} (s : State) (l : List α) : Work s (s.anyOrder l).2 := by
  unfold State.anyOrder
  split <;> exact .aside rfl

theorem Work.forAny {α : Type} {f : State → α → State} (h : ∀ s x, Work s (f s x)) (l : List α) (s : State) :
    Work s (s.forAny l f) :=
  (anyOrder_work s l).trans (Work.foldl h _ _)

/-! ## Single updates -/

theorem modLane_work (s : State) (n : Nat) (f : Lane → Lane)
    (h : ∀ c, (f c).state = .faulted → c.state = .faulted) : Work s (s.modLane n f) := (Touch.lane s n f h).work

theorem modBand_work (s : State) (a : Actuator) (b : Nat) (f : Band → Band)
    (h : ∀ r, (f r).valid = r.valid ∧ (f r).extents = r.extents) : Work s (s.modBand a b f) :=
  (Touch.band s a b f h).work

theorem modRing_work (s : State) (a : Actuator) (f : Ring → Ring) : Work s (s.modRing a f) := (Touch.ring s a f).work

theorem modFrame_work (s : State) (id : Nat) (f : Frame → Frame) : Work s (s.modFrame id f) := .aside rfl

theorem modJob_work (s : State) (f : Job → Job) : Work s (s.modJob f) := .aside rfl

theorem modTag_work (s : State) (t : Nat) (f : TagEntry → TagEntry) : Work s (s.modTag t f) := .aside rfl

theorem modEntry_work (s : State) (l : SegLoc) (f : ReadEntry → ReadEntry) : Work s (s.modEntry l f) := .aside rfl

theorem modRead_work (t : Nat) (f : ReadRec → ReadRec) (s : State) : Work s (s.modRead t f) := .aside rfl

theorem modSource_work (s : State) (l : SegLoc) (f : SourceRead → SourceRead) : Work s (s.modSource l f) := .aside rfl

theorem modCk_work (s : State) (f : Ckpt → Ckpt) : Work s (s.modCk f) := .aside rfl

theorem modRun_work (s : State) (f : CkRun → CkRun) : Work s (s.modRun f) := .aside rfl

theorem modPort_work (s : State) (a : Actuator) (f : Port → Port) : Work s (s.modPort a f) := .aside rfl

theorem credit_work (s : State) (c : Two Credit) : Work s { s with credit := c } := .aside rfl

theorem rc_work (s : State) (c : Reclaim) (h : c.commitQ = s.rc.commitQ ∧ c.commitAt = s.rc.commitAt) :
    Work s { s with rc := c } := .aside (by simp [State.watched, h])

theorem rs_work (s : State) (c : ReadServer) : Work s { s with rs := c } := .aside rfl

theorem pool_work (s : State) (p : Pool) : Work s { s with pool := p } := .aside rfl

theorem tags_work (s : State) (l : List (Option TagEntry)) : Work s { s with tags := l } := .aside rfl

theorem maint_work (s : State) (m : Maint) : Work s { s with maint := m } := .aside rfl

theorem post_work (k : ExcKind) (a : Actuator) (x y : Nat) (s : State) : Work s (post k a x y s) := .aside rfl

theorem send_work (m : FrontMsg) (s : State) : Work s (s.send m) := .aside rfl

theorem complete_work (t : Nat) (o : Outcome) (d : Nat) (s : State) : Work s (complete t o d s) := .aside rfl

theorem respond_work (st : Status) (p : List Byte) (s : State) : Work s (respond st p s) := .aside rfl

theorem requestCk_work (s : State) : Work s (requestCk s) := .aside rfl

theorem assignSeq_work (s : State) : Work s (assignSeq s).2 := (Touch.seq s).work

theorem park_work (a : Actuator) (b : Nat) (s : State) : Work s (park a b s) :=
  (modBand_work _ _ _ _ (fun _ => by exact ⟨rfl, rfl⟩)).trans (Touch.parked _ _ (fun l => l ++ [b])).work

/-! ## Frames, sequence numbers, pressures -/

theorem requestFrame_work (r : Requester) (s : State) : Work s (requestFrame r s).2 := by
  unfold requestFrame grantFrame
  repeat' split
  all_goals first
    | exact Work.refl _
    | exact pool_work _ _
    | (rename_i h; split at h <;> cases h; exact modFrame_work _ _ _)

theorem requestNoWait_work (r : Requester) (s : State) : Work s (requestNoWait r s).2 := by
  unfold requestNoWait grantFrame
  repeat' split
  all_goals first
    | exact Work.refl _
    | (rename_i h; split at h <;> cases h; exact modFrame_work _ _ _)

theorem withdraw_work (r : Requester) (s : State) : Work s (withdraw r s) := pool_work _ _

theorem releaseFrame_work (id : Nat) (s : State) : Work s (releaseFrame id s) := modFrame_work _ _ _

theorem releaseHeld_work (frame : Option Nat) (s : State) : Work s (releaseHeld frame s) := by
  cases frame
  · exact Work.refl s
  · exact releaseFrame_work _ _

theorem countDataSegment_work (s : State) : Work s (countDataSegment s) := by
  grind [countDataSegment, Work.trans, modCk_work, requestCk_work]

theorem evalMapPressure_work (s : State) : Work s (evalMapPressure s) := by
  unfold evalMapPressure
  repeat' split
  all_goals exact .aside rfl

theorem evalBandPressure_work (a : Actuator) (s : State) : Work s (evalBandPressure a s) := by
  unfold evalBandPressure
  repeat' split
  all_goals exact .aside rfl

theorem returnCredit_work (a : Actuator) (x : Nat) (s : State) : Work s (returnCredit a x s) := by
  grind [returnCredit, Work.refl, credit_work]

theorem chargeCredit_work (a : Actuator) (s : State) : Work s (chargeCredit a s) := by
  grind [chargeCredit, Work.refl, credit_work]

/-! ## Bands and rings -/

theorem allocate_work (n : Nat) (a : Actuator) (s : State) : Work s (allocate n a s).2 := by
  unfold allocate
  repeat' split
  · exact Work.refl s
  · exact (Touch.parked s a (fun _ => _)).work.trans (modBand_work _ _ _ _ (fun _ => ⟨rfl, rfl⟩))
  · exact (modBand_work _ _ _ _ (fun _ => by exact ⟨rfl, rfl⟩)).trans (evalBandPressure_work _ _)
  · exact Work.refl s
  · exact Work.refl s

theorem reserveSegment_work (n : Nat) (a : Actuator) (b : Nat) (s : State) : Work s (reserveSegment n a b s).2 := by
  unfold reserveSegment
  dsimp only
  split
  · exact modBand_work _ _ _ _ (fun _ => by split <;> exact ⟨rfl, rfl⟩)
  · exact Work.refl s

theorem giveUpBand_work (n : Nat) (a : Actuator) (b : Nat) (s : State) : Work s (giveUpBand n a b s) := by
  unfold giveUpBand
  dsimp only
  repeat' split
  · exact park_work _ _ _
  · exact modBand_work _ _ _ _ (fun _ => ⟨rfl, rfl⟩)
  · exact Work.refl s

theorem bandWritten_work (a : Actuator) (b : Nat) (s : State) : Work s (bandWritten a b s) := by
  unfold bandWritten
  dsimp only
  have h : Work s (s.modBand a b (fun r => { r with written := r.written + 1, bound := r.bound - 1 })) := modBand_work _ _ _ _ (fun _ => ⟨rfl, rfl⟩)
  repeat' split
  · exact h.trans (modBand_work _ _ _ _ (fun _ => ⟨rfl, rfl⟩))
  · exact h.trans (park_work _ _ _)
  · exact h
  · exact h

theorem truncateBand_work (a : Actuator) (b : Nat) (fault : Bool) (s : State) : Work s (truncateBand a b fault s) :=
  (modBand_work _ _ _ _ (fun _ => by exact ⟨rfl, rfl⟩)).trans (post_work _ _ _ _ _)

theorem leaveBand_work (l : SegLoc) (s : State) : Work s (leaveBand l s) := by
  unfold leaveBand
  split
  · exact modBand_work _ _ _ _ (fun _ => ⟨rfl, rfl⟩)
  · exact Work.refl s
  · exact Work.refl s

theorem testEvacuated_work (a : Actuator) (b : Nat) (s : State) : Work s (testEvacuated a b s) := by
  unfold testEvacuated
  dsimp only
  repeat' split
  · exact (modBand_work _ _ _ _ (fun _ => by exact ⟨rfl, rfl⟩)).trans (evalBandPressure_work _ _)
  · exact (modBand_work _ _ _ _ (fun _ => by exact ⟨rfl, rfl⟩)).trans (post_work _ _ _ _ _)
  · exact Work.refl s

theorem evalLatch_work (a : Actuator) (s : State) : Work s (evalLatch a s) := by
  grind [evalLatch, Work.refl, rc_work]

theorem cacheSlot_work (a : Actuator) (s : State) : Work s (cacheSlot a s).2 := by
  grind [cacheSlot, Work.trans, Work.refl, modRing_work, evalLatch_work]

theorem advanceFree_work (a : Actuator) (s : State) : Work s (advanceFree a s) :=
  (modRing_work _ _ _).trans (evalLatch_work _ _)

theorem pinSegment_work (l : SegLoc) (s : State) : Work s (pinSegment l s) := by
  unfold pinSegment
  split
  · exact modBand_work _ _ _ _ (fun _ => ⟨rfl, rfl⟩)
  · exact modRing_work _ _ _
  · exact Work.refl s

theorem unpinSegment_work (l : SegLoc) (s : State) : Work s (unpinSegment l s) := by
  unfold unpinSegment
  split
  · exact (modBand_work _ _ _ _ (fun _ => by exact ⟨rfl, rfl⟩)).trans (testEvacuated_work _ _ _)
  · exact (modRing_work _ _ _).trans (advanceFree_work _ _)
  · exact Work.refl s

/-! ## Completions -/

theorem checkComplete_work (t : Nat) (s : State) : Work s (checkComplete t s) := by
  grind [checkComplete, completeWrite, completeFlush, Work.refl, complete_work]

theorem completeRelease_work (ok : Bool) (s : State) (t : Nat) : Work s (completeRelease ok s t) := by
  unfold completeRelease
  split
  · exact Work.refl s
  · dsimp only
    refine Work.trans ?_ (Work.forAny (fun s t => checkComplete_work t s) _ _)
    refine Work.trans ?_ (tags_work _ _)
    split <;> exact complete_work _ _ _ _

/-! ## A lane's frames -/

theorem joinQueue_work (n id : Nat) (b : Bool) (s : State) : Work s (joinQueue n id b s) := by
  unfold joinQueue
  split
  · exact modLane_work _ _ _ (fun _ h => h)
  · exact Work.refl s

theorem leaveQueue_work (n id : Nat) (s : State) : Work s (leaveQueue n id s) := modLane_work _ _ _ (fun _ h => h)

theorem stampFrame_work (n id : Nat) (s : State) : Work s (stampFrame n id s) := by
  unfold stampFrame
  dsimp only
  refine (assignSeq_work s).trans ?_
  split
  · exact modFrame_work _ _ _
  · exact Work.refl _

theorem sealFrame_work (n id : Nat) (s : State) : Work s (sealFrame n id s) := by
  grind [sealFrame, Work.trans, modFrame_work, stampFrame_work, joinQueue_work]

theorem closeFrame_work (n id : Nat) (s : State) : Work s (closeFrame n id s) := by
  unfold closeFrame
  dsimp only
  have h : Work s (s.modLane n (fun c => { c with openFrame := none, idleTimer := none })) := modLane_work _ _ _ (fun _ h => h)
  split
  · exact h.trans (sealFrame_work _ _ _)
  · exact h.trans (modFrame_work _ _ _)

theorem closeOpen_work (n : Nat) (s : State) : Work s (closeOpen n s) := by
  grind [closeOpen, Work.refl, closeFrame_work]

theorem giveUpLaneBand_work (n : Nat) (s : State) : Work s (giveUpLaneBand n s) := by
  unfold giveUpLaneBand
  split
  · exact (giveUpBand_work _ _ _ _).trans (modLane_work _ _ _ (fun _ h => h))
  · exact Work.refl s

theorem dropRequest_work (n : Nat) (s : State) : Work s (dropRequest n s) := by
  unfold dropRequest
  dsimp only
  refine (withdraw_work (.lane n) s).trans ?_
  split
  · exact (modLane_work _ _ _ (fun _ h => by exact h)).trans (releaseFrame_work _ _)
  · exact Work.refl _

theorem tellLost_work (id : Nat) (lbas : List Nat) (s : State) : Work s (tellLost id lbas s) :=
  Work.foldl (fun s t => modTag_work s t _) _ _

theorem wakeWaiters_work (tags : List Nat) (s : State) : Work s (wakeWaiters tags s) :=
  Work.forAny (fun s t => checkComplete_work t s) _ _

/-! ## Evacuation -/

theorem deleteEntry_work (l : SegLoc) (s : State) : Work s (deleteEntry l s) := by
  unfold deleteEntry
  split
  · exact Work.refl s
  · exact ((releaseHeld_work _ _).trans (withdraw_work _ _)).trans ((rs_work _ _).trans (rs_work _ _))

theorem dropAhead_work (s : State) (l : SegLoc) : Work s (dropAhead s l) := by
  grind [dropAhead, Work.refl, modEntry_work, deleteEntry_work]

theorem dropAheadWhere_work (p : ReadEntry → Bool) (s : State) : Work s (dropAheadWhere p s) :=
  Work.foldl dropAhead_work _ _

theorem dropSource_work (s : State) (e : SourceRead) : Work s (dropSource s e) := by
  unfold dropSource
  split
  · exact rc_work _ _ ⟨rfl, rfl⟩
  · exact ((releaseHeld_work _ _).trans (withdraw_work _ _)).trans (rc_work _ _ ⟨rfl, rfl⟩)

theorem endLaneSeven_work (s : State) : Work s (endLaneSeven s) := by
  unfold endLaneSeven
  dsimp only
  refine Work.trans (((dropRequest_work 7 s).trans (closeOpen_work 7 _)).trans (giveUpLaneBand_work 7 _)) ?_
  split
  · exact modLane_work _ _ _ (fun _ h => h)
  · exact modLane_work _ _ _ (fun _ => nofun)

theorem endJob_work (s : State) : Work s (endJob s) :=
  ((Work.foldl dropSource_work _ s).trans (endLaneSeven_work _)).trans (rc_work _ _ ⟨rfl, rfl⟩)

theorem endBandJob_work (a : Actuator) (b q : Nat) (s : State) : Work s (endBandJob a b q s) :=
  ((modCk_work _ _).trans (requestCk_work _)).trans (endJob_work _)

theorem evacuate_work (a : Actuator) (b : Nat) (s : State) : Work s (evacuate a b s) := by
  unfold evacuate
  dsimp only
  have h : ∀ q x p, Work s (dropAheadWhere p (returnCredit a x (s.modBand a b
      (fun r => { r with state := .evacuated, evacSeq := some q, closeSeq := none })))) := fun q x p =>
    ((modBand_work _ _ _ _ (fun _ => by exact ⟨rfl, rfl⟩)).trans (returnCredit_work _ _ _)).trans (dropAheadWhere_work _ _)
  repeat' split
  · exact (h _ _ _).trans (endBandJob_work _ _ _ _)
  · exact h _ _ _
  · exact h _ _ _

theorem testEmptied_work (s : State) (h : Actuator × Nat) : Work s (testEmptied s h) := by
  grind [testEmptied, Work.refl, evacuate_work]

/-! ## Lanes -/

theorem askBand_work (n : Nat) (s : State) : Work s (askBand n s).2 := by
  grind [askBand, Work.refl, allocate_work]

theorem obtainBand_work (n : Nat) (s : State) : Work s (obtainBand n s).2 := by
  have h := askBand_work n s
  unfold obtainBand
  split <;> (rename_i hq; rw [hq] at h)
  · exact h.trans (modLane_work _ _ _ (fun _ h => h))
  · exact h

theorem reserveHeld_work (n : Nat) (a : Actuator) (b : Nat) (s : State) : Work s (reserveHeld n a b s).2 := by
  have h := reserveSegment_work n a b s
  unfold reserveHeld
  split <;> (rename_i hq; rw [hq] at h; dsimp only)
  · split
    · exact h
    · exact h.trans (modLane_work _ _ _ (fun _ h => h))
  · exact h.trans (modLane_work _ _ _ (fun _ h => h))

theorem bandSegment_work (n : Nat) (s : State) : Work s (bandSegment n s).2 := by
  unfold bandSegment
  grind [Work.trans, Work.refl, reserveHeld_work, obtainBand_work]

theorem ringSegment_work (s : State) : Work s (ringSegment s).2 := by
  grind [ringSegment, Work.refl, cacheSlot_work]

theorem laneLocation_work (n : Nat) (s : State) : Work s (laneLocation n s).2 := by
  grind [laneLocation, ringSegment_work, bandSegment_work]

theorem openFrame_work (n id : Nat) (loc : SegLoc) (ctr : Nat) (s : State) : Work s (openFrame n id loc ctr s) := by
  unfold openFrame
  dsimp only
  refine Work.trans ((modFrame_work s id _).trans (modLane_work _ _ _ ?_)) (countDataSegment_work _)
  intro c h
  dsimp only at h
  split at h
  · cases h
  · exact h

theorem giveUpLane_work (n : Nat) (s : State) : Work s (giveUpLane n s) :=
  ((closeOpen_work _ _).trans (giveUpLaneBand_work _ _)).trans (modLane_work _ _ _ (fun _ => nofun))

theorem evictLane_work (n : Nat) (s : State) : Work s (evictLane n s) :=
  ((closeOpen_work _ _).trans (giveUpLaneBand_work _ _)).trans (modLane_work _ _ _ (fun _ h => h))

theorem returnMoves_work (f : Frame) (s : State) : Work s (returnMoves f s) := modJob_work _ _

theorem endRebind_work (n : Nat) (s : State) : Work s (endRebind n s) := by
  unfold endRebind
  dsimp only
  repeat' split
  · exact (giveUpLaneBand_work _ _).trans (modLane_work _ _ _ (fun _ => nofun))
  all_goals first
    | exact Work.refl _
    | exact modLane_work _ _ _ (fun _ => nofun)

theorem retryWaiting_work (s : State) (n : Nat) : Work s (retryWaiting s n) := by
  have hopen : ∀ t, Work t (t.modLane n (fun c => { c with state := .opened })) := fun t =>
    modLane_work _ _ _ (fun _ => nofun)
  have h := obtainBand_work n s
  grind [retryWaiting, Work.refl, Work.trans]

end Sys2Proof.Machine
end

section
/-! The read server, the gate, the reclaim engine and the checkpoint writer do their work beside the extent map. -/

namespace Sys2Proof.Machine

/-! ## Turns (R179, R185) -/

theorem refuseHeads_work (fuel : Nat) (s : State) : Work s (refuseHeads fuel s) := by
  induction fuel generalizing s with
  | zero => exact Work.refl s
  | succ fuel ih =>
    have h : ∀ t, Work s (refuseHeads fuel (complete t .writeProtected 0 (popIntake s))) := fun t =>
      Work.trans (t := complete t .writeProtected 0 (popIntake s)) (.aside rfl) (ih _)
    unfold refuseHeads
    repeat' split
    all_goals first
      | exact Work.refl _
      | exact h _

theorem refuseTurns_work (s : State) : Work s (refuseTurns s) := refuseHeads_work _ _

/-! ## Entries and holds of the read server -/

theorem pinFrame_work (id : Nat) (s : State) : Work s (pinFrame id s) := modFrame_work _ _ _

theorem unpinFrame_work (id : Nat) (s : State) : Work s (unpinFrame id s) := modFrame_work _ _ _

theorem grantEntry_work (l : SegLoc) (id : Nat) (s : State) : Work s (grantEntry l id s) := .aside rfl

theorem addEntry_work (e : ReadEntry) (s : State) : Work s (addEntry e s) := rs_work _ _

theorem unqueueEntry_work (l : SegLoc) (s : State) : Work s (unqueueEntry l s) := rs_work _ _

theorem leaveEntry_work (t : Nat) (l : SegLoc) (s : State) : Work s (leaveEntry t l s) := by
  grind [leaveEntry, Work.refl, Work.trans, modEntry_work, deleteEntry_work]

theorem giveUpSegment_work (t : Nat) (s : State) (l : SegLoc) : Work s (giveUpSegment t s l) :=
  (unpinSegment_work _ _).trans (leaveEntry_work _ _ _)

theorem updateRead_work (t : Nat) (f : ReadRec → ReadRec) (s : State) : Work s (updateRead t f s) := by
  unfold updateRead
  split
  · exact Work.refl s
  · dsimp only
    refine Work.trans ?_ (Work.foldl (giveUpSegment_work t) _ _)
    refine Work.trans ?_ (Work.foldl (fun s id => unpinFrame_work id s) _ _)
    exact modRead_work _ _ _

theorem finishRead_work (t : Nat) (s : State) : Work s (finishRead t s) := by
  grind [finishRead, Work.refl, Work.trans, rs_work, complete_work, post_work]

theorem recycleStalled_work (s : State) : Work s (recycleStalled s) := by
  grind [recycleStalled, Work.refl, Work.trans, releaseHeld_work, modEntry_work, requestFrame_work]

theorem testStalled_work (l : List SegLoc) (s : State) : Work s (testStalled l s) := by
  grind [testStalled, Work.refl, recycleStalled_work]

theorem recordFailure_work (t i : Nat) (k : ReadFail) (a : Actuator) (s : State) : Work s (recordFailure t i k a s) := by
  grind [recordFailure, Work.refl, Work.trans, testStalled_work, finishRead_work, updateRead_work]

theorem askEntry_work (l : SegLoc) (s : State) : Work s (askEntry l s) := by
  grind [askEntry, Work.trans, requestFrame_work, grantEntry_work, recycleStalled_work]

theorem joinEntry_work (t : Nat) (s : State) (l : SegLoc) : Work s (joinEntry t s l) := by
  grind [joinEntry, Work.trans, testStalled_work, modEntry_work, askEntry_work, addEntry_work]

theorem fetchAhead_work (a : Actuator) (s : State) : Work s (fetchAhead a s).2 := by
  grind [fetchAhead, Work.refl, Work.trans, requestNoWait_work, grantEntry_work, addEntry_work]

theorem fetchMany_work (a : Actuator) (fuel : Nat) (s : State) : Work s (fetchMany a fuel s) := by
  induction fuel generalizing s with
  | zero => exact Work.refl s
  | succ fuel ih =>
    have h := fetchAhead_work a s
    unfold fetchMany
    split <;> (rename_i hf; rw [hf] at h)
    · exact h.trans (ih _)
    · exact h

theorem updateAhead_work (r : ReadRec) (taken : Actuator → Bool) (s : State) (a : Actuator) :
    Work s (updateAhead r taken s a) := by
  grind [updateAhead, Work.refl, Work.trans, rs_work, fetchAhead_work, fetchMany_work]

theorem acceptRead_work (t lba count : Nat) (s : State) : Work s (acceptRead t lba count s) := by
  unfold acceptRead
  dsimp only
  refine Work.trans ?_ (finishRead_work _ _)
  refine Work.trans ?_ (Work.foldl (updateAhead_work _ _) _ _)
  refine Work.trans ?_ (Work.foldl (fun s l => (pinSegment_work l s).trans (joinEntry_work t _ l)) _ _)
  refine Work.trans ?_ (Work.foldl (fun s id => pinFrame_work id s) _ _)
  exact rs_work _ _

theorem deliver_work (t : Nat) (s : State) : Work s (deliver t s) := by
  unfold deliver
  repeat' split
  · exact Work.refl s
  · exact Work.refl s
  · exact (((send_work _ _).trans (updateRead_work _ _ _)).trans (finishRead_work _ _)).trans (testStalled_work _ _)

theorem releaseDropped_work (l : SegLoc) (n : Nat) (s : State) : Work s (releaseDropped l n s) :=
  (modEntry_work _ _ _).trans (Work.foldl (fun s _ => unpinSegment_work l s) _ _)

theorem failEntry_work (e : ReadEntry) (s : State) : Work s (failEntry e s) := by
  unfold failEntry
  refine (deleteEntry_work _ _).trans (Work.forAny (fun s t => ?_) _ _)
  grind [Work.refl, recordFailure_work]

theorem retryEntry_work (e : ReadEntry) (s : State) : Work s (retryEntry e s) := by
  unfold retryEntry
  repeat' split
  · exact deleteEntry_work _ _
  · exact failEntry_work _ _
  · exact (((releaseHeld_work _ _).trans (unqueueEntry_work _ _)).trans (modEntry_work _ _ _)).trans (askEntry_work _ _)

theorem entryResult_work (l : SegLoc) (r : ReadEnd) (s : State) : Work s (entryResult l r s) := by
  unfold entryResult
  split
  · exact Work.refl s
  · dsimp only
    rename_i e _
    refine (releaseDropped_work l e.droppedPins s).trans ?_
    repeat' split
    · exact deleteEntry_work _ _
    · exact modEntry_work _ _ _
    · exact retryEntry_work _ _
    · exact ((modEntry_work _ _ _).trans (unqueueEntry_work _ _)).trans (testStalled_work _ _)
    · exact retryEntry_work _ _
    · exact retryEntry_work _ _

theorem refreshWaits_work (s : State) : Work s (refreshWaits s) := rs_work _ _

theorem expireWait_work (t : Nat) (s : State) : Work s (expireWait t s) := by
  grind [expireWait, Work.refl, recordFailure_work]

theorem dropSegment_work (t : Nat) (s : State) (l : SegLoc) : Work s (dropSegment t s l) := by
  grind [dropSegment, Work.trans, leaveEntry_work, modEntry_work, giveUpSegment_work]

theorem dropRead_work (s : State) (r : ReadRec) : Work s (dropRead s r) := by
  unfold dropRead
  dsimp only
  refine Work.trans ?_ (Work.foldl (dropSegment_work _) _ _)
  refine Work.trans ?_ (Work.foldl (fun s id => unpinFrame_work id s) _ _)
  exact rs_work _ _

/-! ## Lanes at the gate -/

theorem waitLane_work (n : Nat) (s : State) : Work s (waitLane n s) := by
  refine modLane_work _ _ _ (fun c h => ?_)
  split at h
  · assumption
  · cases h

theorem laneFrame_work (n : Nat) (s : State) : Work s (laneFrame n s).2 := by
  have h := requestFrame_work (.lane n) s
  unfold laneFrame
  repeat' split
  · exact Work.refl s
  · exact Work.refl s
  · rename_i hr
    rw [hr] at h
    exact h.trans (modLane_work _ _ _ (fun _ h => h))
  · rename_i hr
    rw [hr] at h
    exact h

theorem enterLane_work (n : Nat) (s : State) : Work s (enterLane n s) := by
  refine modLane_work _ _ _ (fun c h => ?_)
  split at h
  · cases h
  · split at h <;> exact h

theorem takeStream_work (s : State) : Work s (takeStream s).2 := by
  grind [takeStream, Work.refl, evictLane_work]

theorem classify_work (lba n : Nat) (s : State) : Work s (classify lba n s).2 := by
  grind [classify, Work.refl, takeStream_work]

theorem leavePhase_work (n : Nat) (s : State) : Work s (leavePhase n s) := by
  refine (dropRequest_work n s).trans (modLane_work _ _ _ (fun c h => ?_))
  dsimp only at h
  repeat' split at h
  all_goals first | assumption | cases h

theorem lateGiveUps_work (s : State) : Work s (lateGiveUps s) := by
  refine Work.forAny (fun s n => ?_) _ _
  split
  · exact giveUpLane_work _ _
  · exact modLane_work _ _ _ (fun _ h => h)

theorem closeAtNinthRun_work (n lba : Nat) (s : State) : Work s (closeAtNinthRun n lba s) := by
  grind [closeAtNinthRun, Work.refl, closeFrame_work]

theorem laneSlot_work (n : Nat) (s : State) : Work s (laneSlot n s).2 := by
  grind [laneSlot, Work.refl, Work.trans, laneFrame_work, waitLane_work, dropRequest_work, laneLocation_work,
    closeOpen_work, openFrame_work]

theorem acceptLane_work (u : Pull) (c : Bool) (s : State) : Work s (acceptLane u c s) := by
  refine modLane_work _ _ _ (fun c h => ?_)
  split at h <;> exact h

theorem closeAtAcceptance_work (u : Pull) (s : State) : Work s (closeAtAcceptance u s) := by
  grind [closeAtAcceptance, Work.refl, sealFrame_work, closeFrame_work]

theorem abandonPromise_work (s : State) (u : Pull) : Work s (abandonPromise s u) := by
  unfold abandonPromise
  dsimp only
  have h : Work s (s.modFrame u.frame (fun f => { f with promises := f.promises - 1 })) := modFrame_work _ _ _
  repeat' split
  · exact h
  · exact h.trans (sealFrame_work _ _ _)
  · refine h.trans (modLane_work _ _ _ (fun c hc => ?_))
    split at hc <;> exact hc

/-! ## Passes and jobs -/

theorem beginPass_work (s : State) : Work s (beginPass s) := by
  grind [beginPass, beginBandPass, beginCachePass, Work.refl, modJob_work]

theorem tellLaneSeven_work (a : Actuator) (s : State) : Work s (tellLaneSeven a s) := by
  refine modLane_work _ _ _ (fun c h => ?_)
  split at h <;> exact h

theorem startBandJob_work (t : Trigger) (a : Actuator) (b : Nat) (s : State) : Work s (startBandJob t a b s) := by
  unfold startBandJob
  dsimp only
  have h : Work s ((tellLaneSeven a { s with rc := { s.rc with job := some (Job.fresh t a (some b)) } }).modBand a b
      (fun r => { r with state := .cleaning, validAtSel := some (s.bandRec a b).valid })) :=
    ((rc_work s _ (by exact ⟨rfl, rfl⟩)).trans (tellLaneSeven_work a _)).trans (modBand_work _ _ _ _ (fun _ => ⟨rfl, rfl⟩))
  split
  · exact h.trans (evacuate_work _ _ _)
  · exact h.trans (beginPass_work _)

theorem startCacheJob_work (t : Trigger) (a : Actuator) (s : State) : Work s (startCacheJob t a s) :=
  ((rc_work _ _ (by exact ⟨rfl, rfl⟩)).trans (tellLaneSeven_work _ _)).trans (beginPass_work _)

theorem tryEach_work {α : Type} {f : α → State → Bool × State} (h : ∀ x s, Work s (f x s).2) (l : List α) (s : State) :
    Work s (tryEach f l s).2 := by
  induction l generalizing s with
  | nil => exact Work.refl s
  | cons x l ih =>
    have hx := h x s
    unfold tryEach
    split <;> (rename_i hf; rw [hf] at hx)
    · exact hx
    · exact hx.trans (ih _)

theorem tryActuator_work (t : Trigger) (p : State → Actuator → Bool) (a : Actuator) (s : State) :
    Work s (tryActuator t p a s).2 := by
  grind [tryActuator, Work.refl, Work.trans, rc_work, startBandJob_work, post_work]

theorem tryMap_work (s : State) : Work s (tryMap s).2 := by
  grind [tryMap, Work.refl, Work.trans, rc_work, startBandJob_work, post_work]

theorem tryRing_work (t : Trigger) (p : State → Actuator → Bool) (a : Actuator) (s : State) :
    Work s (tryRing t p a s).2 := by
  grind [tryRing, Work.refl, startCacheJob_work]

theorem tryTrigger_work (t : Trigger) (s : State) : Work s (tryTrigger t s).2 := by
  cases t
  · exact tryEach_work (tryActuator_work _ _) _ _
  · exact tryMap_work _
  · exact tryEach_work (tryRing_work _ _) _ _
  · exact tryEach_work (tryActuator_work _ _) _ _
  · exact tryEach_work (tryRing_work _ _) _ _

theorem testTriggers_work (s : State) : Work s (testTriggers s) := by
  unfold testTriggers
  split
  · exact tryEach_work tryTrigger_work _ _
  · exact Work.refl s

/-! ## Source reads and handing to lane 7 -/

theorem resolveMoves_work (st : MoveState) (p : Move → Bool) (s : State) : Work s (resolveMoves st p s) := modJob_work _ _

theorem grantSource_work (l : SegLoc) (id : Nat) (s : State) : Work s (grantSource l id s) := .aside rfl

theorem popSource_work (a : Actuator) (s : State) : Work s (popSource a s) := .aside rfl

theorem deleteSource_work (l : SegLoc) (s : State) : Work s (deleteSource l s) := by
  unfold deleteSource
  split
  · exact Work.refl s
  · exact (releaseHeld_work _ _).trans (rc_work _ _ ⟨rfl, rfl⟩)

theorem tidySource_work (l : SegLoc) (s : State) : Work s (tidySource l s) := by
  grind [tidySource, Work.refl, deleteSource_work]

theorem makeSource_work {s t : State} (h : makeSource s = some t) : Work s t := by
  grind [makeSource, Work.trans, resolveMoves_work, rc_work, requestFrame_work, grantSource_work]

theorem placeRelocation_work (id : Nat) (m : Move) (s : State) : Work s (placeRelocation id m s) := by
  unfold placeRelocation
  dsimp only
  refine Work.trans ?_ (tidySource_work _ _)
  split
  · exact ((modFrame_work _ _ _).trans (modJob_work _ _)).trans (closeFrame_work _ _ _)
  · exact (modFrame_work _ _ _).trans (modJob_work _ _)

theorem wakeLaneSeven_work (a : Actuator) (s : State) : Work s (wakeLaneSeven a s) := by
  refine modLane_work _ _ _ (fun c h => ?_)
  split at h
  · cases h
  · exact h

theorem openLaneSeven_work (s : State) : Work s (openLaneSeven s).2 := by
  grind [openLaneSeven, Work.refl, Work.trans, laneFrame_work, laneLocation_work, closeOpen_work, openFrame_work,
    dropRequest_work, waitLane_work]

theorem handBlock_work {s t : State} (h : handBlock s = some t) : Work s t := by
  unfold handBlock at h
  split at h
  · rename_i j m _ _
    have hw := wakeLaneSeven_work j.act s
    have ho := hw.trans (openLaneSeven_work _)
    dsimp only at h
    repeat' split at h
    · cases h
    · cases h
      exact (resolveMoves_work _ _ _).trans (tidySource_work _ _)
    · cases h
      exact hw.trans (placeRelocation_work _ _ _)
    · cases h
      exact hw.trans (closeFrame_work _ _ _)
    · rename_i hq _ _ _
      rw [hq] at ho
      cases h
      exact ho.trans (placeRelocation_work _ _ _)
    · cases h
    · cases h
  · cases h

theorem askLaneSeven_work (s : State) : Work s (askLaneSeven s) := by
  grind [askLaneSeven, Work.refl, Work.trans, wakeLaneSeven_work, openLaneSeven_work]

/-! ## The end of a pass, the pause and the pump -/

theorem endHanding_work {s t : State} (h : endHanding s = some t) : Work s t := by
  grind [endHanding, Work.trans, closeOpen_work, dropRequest_work, modJob_work]

theorem advanceMigrate_work {s t : State} (h : advanceMigrate s = some t) : Work s t := by
  grind [advanceMigrate, Work.trans, modRing_work, modJob_work]

theorem endCachePass_work (j : Job) (s : State) : Work s (endCachePass j s) := by
  grind [endCachePass, Work.trans, Work.refl, requestCk_work, modJob_work, beginPass_work, endJob_work]

theorem endPass_work {s t : State} (h : endPass s = some t) : Work s t := by
  grind [endPass, nextBandPass, Work.trans, modJob_work, beginPass_work, endCachePass_work]

theorem endPausedPass_work {s t : State} (h : endPausedPass s = some t) : Work s t := by
  grind [endPausedPass, Work.trans, endCachePass_work, requestCk_work, modJob_work]

theorem pauseForProtect_work {s t : State} (h : pauseForProtect s = some t) : Work s t := by
  grind [pauseForProtect, closeOpen_work, modJob_work]

theorem resumePass_work {s t : State} (h : resumePass s = some t) : Work s t := by
  grind [resumePass, beginPass_work]

theorem firstStep_work {l : List (State → Option State)} (hl : ∀ f ∈ l, ∀ s t, f s = some t → Work s t) {s t : State}
    (h : firstStep l s = some t) : Work s t := by
  induction l with
  | nil => cases h
  | cons f l ih =>
    unfold firstStep at h
    split at h
    · cases h
      exact hl f (by simp) _ _ ‹_›
    · exact ih (fun g hg => hl g (by simp [hg])) h

theorem pumpStep_work {s t : State} (h : pumpStep s = some t) : Work s t := by
  unfold pumpStep at h
  repeat' split at h
  · cases h
  all_goals
    refine firstStep_work (fun f hf s t hst => ?_) h
    simp only [List.mem_cons, List.not_mem_nil, or_false] at hf
  · obtain rfl | rfl | rfl | rfl := hf
    exacts [advanceMigrate_work hst, endHanding_work hst, endPausedPass_work hst, pauseForProtect_work hst]
  · obtain rfl | rfl | rfl | rfl := hf
    exacts [advanceMigrate_work hst, handBlock_work hst, endHanding_work hst, pauseForProtect_work hst]
  · obtain rfl | rfl | rfl | rfl | rfl | rfl := hf
    exacts [advanceMigrate_work hst, handBlock_work hst, makeSource_work hst, endHanding_work hst, endPass_work hst,
      resumePass_work hst]

theorem pumpSteps_work (fuel : Nat) (s : State) : Work s (pumpSteps fuel s) := by
  induction fuel generalizing s with
  | zero => exact Work.refl s
  | succ fuel ih =>
    unfold pumpSteps
    split
    · rename_i h
      exact (pumpStep_work h).trans (ih _)
    · exact askLaneSeven_work _

theorem pump_work (s : State) : Work s (pump s) := by
  grind [pump, Work.refl, pumpSteps_work]

theorem gateEdge_work (s : State) : Work s (gateEdge s) := by
  unfold gateEdge assertGate deassertGate
  have h : ∀ b, Work s { s with gate := b } := fun _ => .aside rfl
  repeat' split
  · exact Work.refl s
  · exact ((h true).trans (Work.forAny (fun s n => closeOpen_work n s) _ _)).trans (refuseTurns_work _)
  · exact (h false).trans (modJob_work _ _)
  · exact Work.refl s

/-! ## The checkpoint writer -/

theorem bindRing_work (k : RingKind) (g : SegKind) (id : Nat) (p : List Block) (n : Nat) (s : State) :
    Work s (bindRing k g id p n s) :=
  (assignSeq_work s).trans (.aside rfl)

theorem testRingHalf_work (s : State) : Work s (testRingHalf s) := by
  grind [testRingHalf, Work.refl, requestCk_work]

theorem bindNotice_work (s : State) : Work s (bindNotice s) := by
  unfold bindNotice
  repeat' split
  any_goals exact Work.refl _
  exact (((bindRing_work _ _ _ _ _ _).trans (modCk_work _ _)).trans (modRun_work _ _)).trans (testRingHalf_work _)

theorem grantNotice_work (id : Nat) (s : State) : Work s (grantNotice id s) := (modCk_work _ _).trans (bindNotice_work _)

theorem takeBatch_work (s : State) : Work s (takeBatch s) := by
  grind [takeBatch, Work.refl, Work.trans, modCk_work, requestFrame_work, grantNotice_work]

theorem endNotice_work (ok : Bool) (s : State) : Work s (endNotice ok s) := by
  unfold endNotice
  split
  · exact Work.refl s
  · exact (((releaseHeld_work _ _).trans (modCk_work _ _)).trans (Work.forAny (completeRelease_work ok) _ _)).trans
      (takeBatch_work _)

theorem unqueueRing_work (id : Nat) (s : State) : Work s (unqueueRing id s) := modCk_work _ _

theorem failNotice_work (id ctr : Nat) (s : State) : Work s (failNotice id ctr s) := by
  grind [failNotice, Work.trans, unqueueRing_work, post_work, modCk_work, endNotice_work, requestCk_work, bindNotice_work]

theorem restartCk_work (s : State) : Work s (restartCk s) := by
  grind [restartCk, modCk_work, requestCk_work]

theorem bindClose_work (s : State) : Work s (bindClose s) := by
  grind [bindClose, Work.refl, Work.trans, bindRing_work, modRun_work]

theorem grantClose_work (id : Nat) (s : State) : Work s (grantClose id s) := (modRun_work _ _).trans (bindClose_work _)

theorem askNext_work (s : State) : Work s (askNext s).2 := by
  grind [askNext, Work.refl, Work.trans, modRun_work, requestFrame_work, grantClose_work]

theorem endAbandoned_work (id seg : Nat) (failed : Bool) (s : State) : Work s (endAbandoned id seg failed s) := by
  grind [endAbandoned, Work.refl, Work.trans, post_work, releaseFrame_work]

theorem releaseRing_work (a : Actuator) (n : Nat) (s : State) : Work s (releaseRing a n s) :=
  (modRing_work _ _ _).trans (advanceFree_work _ _)

theorem settlePendingBlank_work (r : CkRun) (s : State) : Work s (settlePendingBlank r s) := by
  grind [settlePendingBlank, Work.refl, Work.trans, modCk_work, requestCk_work]

end Sys2Proof.Machine
end

section
/-! The steps that change the extent table, with the counts they bring along (R19, R33), and what every step of the part keeps
of the table's room (R17, R21) and of the counts. -/

namespace Sys2Proof.Machine

/-! ## Counts (R33) -/

theorem homeBlocks_append (l m : List Extent) (a : Actuator) (b : Nat) :
    homeBlocks (l ++ m) a b = homeBlocks l a b + homeBlocks m a b := by
  simp [homeBlocks]

theorem homeRecords_append (l m : List Extent) (a : Actuator) (b : Nat) :
    homeRecords (l ++ m) a b = homeRecords l a b + homeRecords m a b := by
  simp [homeRecords]

theorem homeBlocks_perm {l m : List Extent} (h : l.Perm m) (a : Actuator) (b : Nat) : homeBlocks l a b = homeBlocks m a b :=
  ((h.filter _).map _).sum_eq

theorem homeRecords_perm {l m : List Extent} (h : l.Perm m) (a : Actuator) (b : Nat) : homeRecords l a b = homeRecords m a b :=
  (h.filter _).length_eq

/-- The records of a table that another one lacks. -/
def lacking (t u : List Extent) : List Extent := t.filter (fun e => !u.contains e)

/-- Two tables without repetition differ by the records that each has and the other lacks. -/
theorem perm_lacking {t u : List Extent} (ht : t.Nodup) (hu : u.Nodup) : (t ++ lacking u t).Perm (u ++ lacking t u) := by
  have split : ∀ x y : List Extent, x.Perm (x.filter (fun e => y.contains e) ++ lacking x y) := fun x y =>
    (List.filter_append_perm (fun e => y.contains e) x).symm
  have common : (t.filter (fun e => u.contains e)).Perm (u.filter (fun e => t.contains e)) := by
    rw [List.perm_ext_iff_of_nodup (ht.filter _) (hu.filter _)]
    intro e
    simp only [List.mem_filter, List.contains_iff_mem]
    exact and_comm
  calc t ++ lacking u t
      |>.Perm ((t.filter (fun e => u.contains e) ++ lacking t u) ++ lacking u t) := (split t u).append_right _
    _ |>.Perm ((u.filter (fun e => t.contains e) ++ lacking t u) ++ lacking u t) := (common.append_right _).append_right _
    _ |>.Perm ((u.filter (fun e => t.contains e) ++ lacking u t) ++ lacking t u) := by
        rw [List.append_assoc, List.append_assoc]
        exact List.perm_append_comm.append_left _
    _ |>.Perm (u ++ lacking t u) := (split u t).symm.append_right _

/-- A band's two counts (R33). -/
def State.tally (s : State) (a : Actuator) (b : Nat) : Nat × Nat := ((s.bandRec a b).valid, (s.bandRec a b).extents)

/-- The bands of an actuator. -/
def State.bandTotal (s : State) (a : Actuator) : Nat := (s.bm.get a).bands.length

theorem bandTotal_modBand (s : State) (a x : Actuator) (b : Nat) (f : Band → Band) :
    (s.modBand a b f).bandTotal x = s.bandTotal x := by
  by_cases hx : x = a
  · subst hx; simp [State.bandTotal]
  · simp [State.bandTotal, Two.get_modify_of_ne _ _ _ _ hx]

theorem bandRec_modBand_ne (s : State) (a x : Actuator) (b y : Nat) (f : Band → Band) (h : (x, y) ≠ (a, b)) :
    (s.modBand a b f).bandRec x y = s.bandRec x y := by
  by_cases hx : x = a
  · subst hx
    have hy : b ≠ y := fun hy => h (by rw [hy])
    simp [State.bandRec, List.getD_eq_getElem?_getD, hy]
  · simp [State.bandRec, Two.get_modify_of_ne _ _ _ _ hx]

/-- The record of a band changed for an extent record whose home it is (R33). -/
def homeUpdate (f : Extent → Band → Band) (s : State) (e : Extent) : State :=
  match e.home with
  | some (a, b) => s.modBand a b (f e)
  | none => s

theorem countRecord_eq :
    countRecord = homeUpdate (fun e r => { r with valid := r.valid + e.len, extents := r.extents + 1 }) := rfl

theorem uncountRecord_eq :
    uncountRecord = homeUpdate (fun e r => { r with valid := r.valid - e.len, extents := r.extents - 1 }) := rfl

theorem bandTotal_homeUpdate (f : Extent → Band → Band) (s : State) (e : Extent) (x : Actuator) :
    (homeUpdate f s e).bandTotal x = s.bandTotal x := by
  unfold homeUpdate
  split
  · exact bandTotal_modBand _ _ _ _ _
  · rfl

theorem bandRec_homeUpdate (f : Extent → Band → Band) (s : State) (e : Extent) {a : Actuator} {b : Nat}
    (h : b < s.bandTotal a) :
    (homeUpdate f s e).bandRec a b = if e.home = some (a, b) then f e (s.bandRec a b) else s.bandRec a b := by
  unfold homeUpdate
  split
  · rename_i c d hh
    by_cases hcd : (a, b) = (c, d)
    · cases hcd
      simp [State.bandRec_modBand s a b b _ h, hh]
    · rw [bandRec_modBand_ne s c a d b _ hcd, if_neg]
      rw [hh]
      exact fun hx => hcd (Option.some.inj hx).symm
  · rename_i hh
    simp [hh]

theorem bandTotal_foldl (f : Extent → Band → Band) (l : List Extent) (s : State) (x : Actuator) :
    (l.foldl (homeUpdate f) s).bandTotal x = s.bandTotal x := by
  induction l generalizing s with
  | nil => rfl
  | cons e l ih => exact (ih _).trans (bandTotal_homeUpdate f s e x)

theorem bandRec_foldl (f : Extent → Band → Band) (l : List Extent) (s : State) {a : Actuator} {b : Nat}
    (h : b < s.bandTotal a) : (l.foldl (homeUpdate f) s).bandRec a b =
      (l.filter (fun e => decide (e.home = some (a, b)))).foldl (fun r e => f e r) (s.bandRec a b) := by
  induction l generalizing s with
  | nil => rfl
  | cons e l ih =>
    rw [List.foldl_cons, ih _ (by rw [bandTotal_homeUpdate]; exact h), bandRec_homeUpdate f s e h]
    by_cases hh : e.home = some (a, b) <;> simp [hh]

/-- The counts of a list of records counted in. -/
theorem tally_countRecords (l : List Extent) (s : State) {a : Actuator} {b : Nat} (h : b < s.bandTotal a) :
    (l.foldl countRecord s).tally a b = ((s.tally a b).1 + homeBlocks l a b, (s.tally a b).2 + homeRecords l a b) := by
  have count : ∀ (l : List Extent) (r : Band), let t := l.foldl (fun (r : Band) (e : Extent) =>
      { r with valid := r.valid + e.len, extents := r.extents + 1 }) r
      t.valid = r.valid + (l.map (fun e => e.len)).sum ∧ t.extents = r.extents + l.length := by
    intro l
    induction l with
    | nil => simp
    | cons e l ih =>
      intro r
      have := ih { r with valid := r.valid + e.len, extents := r.extents + 1 }
      simp only [List.foldl_cons, List.map_cons, List.sum_cons, List.length_cons] at this ⊢
      omega
  have := count (l.filter (fun e => decide (e.home = some (a, b)))) (s.bandRec a b)
  rw [State.tally, countRecord_eq, bandRec_foldl _ _ _ h]
  exact Prod.ext this.1 this.2

/-- The counts of a list of records taken out. -/
theorem tally_uncountRecords (l : List Extent) (s : State) {a : Actuator} {b : Nat} (h : b < s.bandTotal a) :
    (l.foldl uncountRecord s).tally a b = ((s.tally a b).1 - homeBlocks l a b, (s.tally a b).2 - homeRecords l a b) := by
  have count : ∀ (l : List Extent) (r : Band), let t := l.foldl (fun (r : Band) (e : Extent) =>
      { r with valid := r.valid - e.len, extents := r.extents - 1 }) r
      t.valid = r.valid - (l.map (fun e => e.len)).sum ∧ t.extents = r.extents - l.length := by
    intro l
    induction l with
    | nil => simp
    | cons e l ih =>
      intro r
      have := ih { r with valid := r.valid - e.len, extents := r.extents - 1 }
      simp only [List.foldl_cons, List.map_cons, List.sum_cons, List.length_cons] at this ⊢
      omega
  have := count (l.filter (fun e => decide (e.home = some (a, b)))) (s.bandRec a b)
  rw [State.tally, uncountRecord_eq, bandRec_foldl _ _ _ h]
  exact Prod.ext this.1 this.2

/-! ## A new table (R19) -/

/-- The state with a new table and every band's counts brought in agreement with it (R19, R33); during RECOVERING the table
alone changes. -/
def retable (t : List Extent) (s : State) : State :=
  if s.service = .recovering then { s with extents := t }
  else (lacking s.extents t).foldl uncountRecord ((lacking t s.extents).foldl countRecord { s with extents := t })

/-- Commit is a new table, the emptied victims' evacuations and the test of map pressure (R19, R34, R40). -/
theorem commitTable_eq (t : List Extent) (s : State) :
    commitTable t s = if s.service = .recovering then retable t s else
      evalMapPressure (((lacking s.extents t).filterMap Extent.home).dedup.foldl testEmptied (retable t s)) := by
  unfold commitTable retable lacking
  dsimp only
  split <;> rfl

/-- Counting touches the band records alone. -/
theorem foldl_homeUpdate_fields (f : Extent → Band → Band) (l : List Extent) (s : State) :
    ∃ bm, l.foldl (homeUpdate f) s = { s with bm := bm } := by
  induction l generalizing s with
  | nil => exact ⟨s.bm, rfl⟩
  | cons e l ih =>
    have he : ∃ bm, homeUpdate f s e = { s with bm := bm } := by
      unfold homeUpdate
      split
      · exact ⟨_, rfl⟩
      · exact ⟨s.bm, rfl⟩
    obtain ⟨bm, hb⟩ := he
    obtain ⟨bm', hb'⟩ := ih (homeUpdate f s e)
    exact ⟨bm', by rw [List.foldl_cons, hb', hb]⟩

/-- A new table touches the table and the band records alone. -/
theorem retable_fields (t : List Extent) (s : State) : ∃ bm, retable t s = { s with extents := t, bm := bm } := by
  unfold retable
  split
  · exact ⟨s.bm, rfl⟩
  · rw [countRecord_eq, uncountRecord_eq]
    obtain ⟨bm, hb⟩ := foldl_homeUpdate_fields _ (lacking t s.extents) { s with extents := t }
    rw [hb]
    obtain ⟨bm', hb'⟩ := foldl_homeUpdate_fields _ (lacking s.extents t) { s with extents := t, bm := bm }
    exact ⟨bm', hb'⟩

/-- The counts follow the new table (R19, R33). -/
theorem retable_countsOk {t : List Extent} {s : State} (hs : s.service ≠ .recovering) (h : TableOk s.extents)
    (ht : TableOk t) (hc : CountsOk s) : CountsOk (retable t s) := by
  obtain ⟨bm, hf⟩ := retable_fields t s
  have hx : (retable t s).extents = t := by rw [hf]
  have hperm := perm_lacking h.nodup ht.nodup
  have hr : retable t s =
      (lacking s.extents t).foldl uncountRecord ((lacking t s.extents).foldl countRecord { s with extents := t }) := by
    rw [retable, if_neg hs]
  have hc1 : ∀ a, ((lacking t s.extents).foldl countRecord { s with extents := t }).bandTotal a = s.bandTotal a := fun a =>
    bandTotal_foldl _ _ _ a
  intro a b hb
  have hb' : b < s.bandTotal a := by
    rw [hr] at hb
    exact lt_of_lt_of_eq hb ((bandTotal_foldl _ _ _ a).trans (hc1 a))
  have htally : (retable t s).tally a b = ((s.tally a b).1 + homeBlocks (lacking t s.extents) a b -
      homeBlocks (lacking s.extents t) a b, (s.tally a b).2 + homeRecords (lacking t s.extents) a b -
      homeRecords (lacking s.extents t) a b) := by
    rw [hr, tally_uncountRecords _ _ (by rw [hc1]; exact hb'), tally_countRecords _ { s with extents := t } hb']
    rfl
  have hcb := hc a b hb'
  have h1 := homeBlocks_perm hperm a b
  have h2 := homeRecords_perm hperm a b
  rw [homeBlocks_append, homeBlocks_append] at h1
  rw [homeRecords_append, homeRecords_append] at h2
  simp only [State.tally, Prod.mk.injEq] at htally
  rw [hx, htally.1, htally.2, hcb.1, hcb.2]
  omega

/-! ## The steps of the part -/

/-- The records that a table may have beside the earmarks (R17, R21). -/
def State.roomFor (s : State) (t : List Extent) : Prop := t.length + 2 * s.earmarks ≤ Config.mapCapacity

/-- One update, or a new table in order that takes no more records than are free (R19, R39). -/
inductive MapStep : State → State → Prop
  | touch {s t : State} (h : Touch s t) : MapStep s t
  | table (s : State) (t : List Extent) (hok : TableOk s.extents → TableOk t)
      (hroom : TableOk s.extents → s.roomFor s.extents → s.roomFor t) : MapStep s (retable t s)

/-- t came from s by such steps alone. -/
def MapWork (s t : State) : Prop := Relation.ReflTransGen MapStep s t

/-- The above, or a lane that enters FAULTED. -/
inductive LaneStep : State → State → Prop
  | map {s t : State} (h : MapStep s t) : LaneStep s t
  | lanes (s : State) (l : List Lane) : LaneStep s { s with lanes := l }

/-- t came from s by such steps alone. -/
def LaneWork (s t : State) : Prop := Relation.ReflTransGen LaneStep s t

/-- One step of the part outside a reset: beside the above a pull sent with the front reserve free (R35), the acceptances and
the end of a data phase, the commit queue, a service state, a FORMAT, and whatever recovery does. -/
inductive PartStep : State → State → Prop
  | lane {s t : State} (h : LaneStep s t) : PartStep s t
  | pull (s : State) (p : Option DataPhase) (h : Config.frontReserve ≤ s.freeRecords) :
      PartStep s { s with phase := p, earmarks := s.earmarks + 1 }
  | phase (s : State) (p : Option DataPhase) (n : Nat) (h : n ≤ s.earmarks) : PartStep s { s with phase := p, earmarks := n }
  | commits (s : State) (q : List Nat) (n : Nat) : PartStep s { s with rc := { s.rc with commitQ := q, commitAt := n } }
  | service (s : State) (x : Service) (h : x ≠ .recovering) : PartStep s { s with service := x }
  | format (s t : State) (hx : t.extents = [] ∧ t.earmarks = 0) (hr : t.recov = Recovery.off ∧ t.service ≠ .recovering)
      (hb : ∀ a, ∀ r ∈ (t.bm.get a).bands, r.valid = 0 ∧ r.extents = 0) : PartStep s t
  | recovery (s t : State) (h : s.recov ≠ Recovery.off) : PartStep s t

/-- t came from s by such steps alone. -/
def PartWork (s t : State) : Prop := Relation.ReflTransGen PartStep s t

theorem MapWork.refl (s : State) : MapWork s s := Relation.ReflTransGen.refl

theorem MapWork.trans {s t u : State} (h : MapWork s t) (k : MapWork t u) : MapWork s u := Relation.ReflTransGen.trans h k

theorem Work.mapWork {s t : State} (h : Work s t) : MapWork s t := Relation.ReflTransGen.mono (r := Touch) (fun _ _ => MapStep.touch) _ _ h

theorem MapWork.foldl {α : Type} {f : State → α → State} (h : ∀ s x, MapWork s (f s x)) (l : List α) (s : State) :
    MapWork s (l.foldl f s) := by
  induction l generalizing s with
  | nil => exact MapWork.refl s
  | cons x l ih => exact (h s x).trans (ih _)

theorem PartWork.refl (s : State) : PartWork s s := Relation.ReflTransGen.refl

theorem PartWork.trans {s t u : State} (h : PartWork s t) (k : PartWork t u) : PartWork s u :=
  Relation.ReflTransGen.trans h k

theorem LaneWork.refl (s : State) : LaneWork s s := Relation.ReflTransGen.refl

theorem LaneWork.trans {s t u : State} (h : LaneWork s t) (k : LaneWork t u) : LaneWork s u :=
  Relation.ReflTransGen.trans h k

theorem LaneStep.work {s t : State} (h : LaneStep s t) : LaneWork s t := Relation.ReflTransGen.single h

theorem MapWork.laneWork {s t : State} (h : MapWork s t) : LaneWork s t :=
  Relation.ReflTransGen.mono (r := MapStep) (fun _ _ => LaneStep.map) _ _ h

theorem LaneWork.partWork {s t : State} (h : LaneWork s t) : PartWork s t :=
  Relation.ReflTransGen.mono (r := LaneStep) (fun _ _ => PartStep.lane) _ _ h

theorem LaneWork.foldl {α : Type} {f : State → α → State} (h : ∀ s x, LaneWork s (f s x)) (l : List α) (s : State) :
    LaneWork s (l.foldl f s) := by
  induction l generalizing s with
  | nil => exact LaneWork.refl s
  | cons x l ih => exact (h s x).trans (ih _)

theorem PartStep.work {s t : State} (h : PartStep s t) : PartWork s t := Relation.ReflTransGen.single h

theorem MapWork.partWork {s t : State} (h : MapWork s t) : PartWork s t := h.laneWork.partWork

theorem Work.partWork {s t : State} (h : Work s t) : PartWork s t := h.mapWork.partWork

theorem Work.laneWork {s t : State} (h : Work s t) : LaneWork s t := h.mapWork.laneWork

theorem LaneWork.forAny {α : Type} {f : State → α → State} (h : ∀ s x, LaneWork s (f s x)) (l : List α) (s : State) :
    LaneWork s (s.forAny l f) :=
  (anyOrder_work s l).laneWork.trans (LaneWork.foldl h _ _)

/-! ## What the updates keep -/

theorem Touch.extents {s t : State} (h : Touch s t) : t.extents = s.extents ∧ t.earmarks = s.earmarks ∧
    t.service = s.service ∧ t.geom = s.geom ∧ t.recov = s.recov ∧ t.phase = s.phase := by
  cases h with
  | aside h =>
    simp only [State.watched, Watched.mk.injEq] at h
    obtain ⟨h1, h2, h3, h4, h5, -, -, -, h6, -⟩ := h
    exact ⟨h1, h2, h3, h4, h5, h6⟩
  | lane => simp
  | band => simp
  | parked => simp
  | ring => simp
  | seq => simp

theorem Touch.tally {s t : State} (h : Touch s t) (a : Actuator) :
    t.bandTotal a = s.bandTotal a ∧ ∀ b, t.tally a b = s.tally a b := by
  cases h with
  | aside h =>
    simp only [State.watched, Watched.mk.injEq] at h
    simp [State.bandTotal, State.tally, State.bandRec, h]
  | lane => exact ⟨rfl, fun _ => rfl⟩
  | seq => exact ⟨rfl, fun _ => rfl⟩
  | parked x f =>
    by_cases hx : a = x
    · subst hx; simp [State.bandTotal, State.tally, State.bandRec]
    · simp [State.bandTotal, State.tally, State.bandRec, Two.get_modify_of_ne _ _ _ _ hx]
  | ring x f =>
    by_cases hx : a = x
    · subst hx; simp [State.bandTotal, State.tally, State.bandRec]
    · simp [State.bandTotal, State.tally, State.bandRec, Two.get_modify_of_ne _ _ _ _ hx]
  | band x c f hf =>
    refine ⟨bandTotal_modBand _ _ _ _ _, fun b => ?_⟩
    by_cases hx : (a, b) = (x, c)
    · cases hx
      by_cases hb : c < (s.bm.get a).bands.length
      · simp [State.tally, State.bandRec_modBand _ _ _ _ _ hb, hf]
      · simp [State.tally, State.bandRec, List.getD_eq_getElem?_getD, hb]
    · simp [State.tally, bandRec_modBand_ne _ _ _ _ _ _ hx]

/-- No lane enters FAULTED by these updates. -/
theorem Touch.unfaulted {s t : State} (h : Touch s t) (hs : s.unfaulted) : t.unfaulted := by
  cases h with
  | aside h =>
    simp only [State.watched, Watched.mk.injEq] at h
    intro n hn
    simpa [State.lane, h] using hs n hn
  | lane n f hf =>
    intro m hm
    by_cases hl : n < s.lanes.length
    · rw [State.lane_modLane s n m f hl]
      split
      · rename_i hmn
        exact fun hfa => hs m hm (hmn ▸ hf _ hfa)
      · exact hs m hm
    · have : (s.modLane n f).lane m = s.lane m := by
        by_cases hnm : n = m
        · subst hnm; simp [State.lane, List.getD_eq_getElem?_getD, hl]
        · simp [State.lane, List.getD_eq_getElem?_getD, hnm]
      rw [this]
      exact hs m hm
  | band => exact hs
  | parked => exact hs
  | ring => exact hs
  | seq => exact hs

/-- SEQ does not fall by these updates (R14). -/
theorem Touch.seq_le {s t : State} (h : Touch s t) : s.seq.getD 0 ≤ t.seq.getD 0 := by
  cases h with
  | aside h =>
    simp only [State.watched, Watched.mk.injEq] at h
    simp [h]
  | lane => simp
  | band => simp
  | parked => simp
  | ring => simp
  | seq => simp

theorem Work.extents {s t : State} (h : Work s t) : t.extents = s.extents := by
  induction h with
  | refl => rfl
  | tail _ hs ih => exact hs.extents.1.trans ih

/-- A new table keeps what is beside the table and the counts. -/
theorem MapStep.fields {s t : State} (h : MapStep s t) : t.earmarks = s.earmarks ∧ t.service = s.service ∧
    t.recov = s.recov ∧ (s.unfaulted → t.unfaulted) ∧ s.seq.getD 0 ≤ t.seq.getD 0 := by
  cases h with
  | touch h =>
    obtain ⟨-, h2, h3, -, h5, -⟩ := h.extents
    exact ⟨h2, h3, h5, h.unfaulted, h.seq_le⟩
  | table t =>
    obtain ⟨bm, hb⟩ := retable_fields t s
    rw [hb]
    exact ⟨rfl, rfl, rfl, fun hu => hu, le_refl _⟩

theorem MapWork.unfaulted {s t : State} (h : MapWork s t) (hs : s.unfaulted) : t.unfaulted := by
  induction h with
  | refl => exact hs
  | tail _ h ih => exact h.fields.2.2.2.1 ih

theorem MapWork.seq_le {s t : State} (h : MapWork s t) : s.seq.getD 0 ≤ t.seq.getD 0 := by
  induction h with
  | refl => exact le_refl _
  | tail _ h ih => exact le_trans ih h.fields.2.2.2.2

/-! ## What every step keeps -/

/-- Outside recovery: the table in order, and within its capacity with its earmarks (R17, R21). -/
structure RoomOk (s : State) : Prop where
  off : s.recov = Recovery.off
  table : TableOk s.extents
  room : RecordsOk s

/-- Outside recovery: the table in order, and every band's counts in agreement with it (R33). -/
structure BandsOk (s : State) : Prop where
  off : s.recov = Recovery.off
  service : s.service ≠ .recovering
  table : TableOk s.extents
  counts : CountsOk s

theorem Touch.countsOk {s t : State} (h : Touch s t) (hc : CountsOk s) : CountsOk t := by
  intro a b hb
  obtain ⟨h1, h2⟩ := h.tally a
  have := hc a b (lt_of_lt_of_eq hb h1)
  have h2 := h2 b
  simp only [State.tally, Prod.mk.injEq] at h2
  rw [h2.1, h2.2, h.extents.1]
  exact this

theorem MapStep.roomOk {s t : State} (h : MapStep s t) (hs : RoomOk s) : RoomOk t := by
  obtain ⟨hoff, htab, hroom⟩ := hs
  cases h with
  | touch h =>
    obtain ⟨h1, h2, -, -, h5, -⟩ := h.extents
    exact ⟨h5.trans hoff, h1 ▸ htab, by unfold RecordsOk; rw [h1, h2]; exact hroom⟩
  | table t hok hr =>
    obtain ⟨bm, hb⟩ := retable_fields t s
    rw [hb]
    exact ⟨hoff, hok htab, hr htab hroom⟩

theorem MapStep.bandsOk {s t : State} (h : MapStep s t) (hs : BandsOk s) : BandsOk t := by
  obtain ⟨hoff, hsv, htab, hc⟩ := hs
  cases h with
  | touch h =>
    obtain ⟨h1, -, h3, -, h5, -⟩ := h.extents
    exact ⟨h5.trans hoff, h3 ▸ hsv, h1 ▸ htab, h.countsOk hc⟩
  | table t hok hr =>
    have hct := retable_countsOk hsv htab (hok htab) hc
    obtain ⟨bm, hb⟩ := retable_fields t s
    rw [hb] at hct ⊢
    exact ⟨hoff, hsv, hok htab, hct⟩

theorem PartStep.roomOk {s t : State} (h : PartStep s t) (hs : RoomOk s) : RoomOk t := by
  cases h with
  | lane h =>
    cases h with
    | map h => exact h.roomOk hs
    | lanes => exact ⟨hs.off, hs.table, hs.room⟩
  | pull p h =>
    refine ⟨hs.off, hs.table, ?_⟩
    have : 66 ≤ s.freeRecords := h
    unfold RecordsOk
    unfold State.freeRecords at this
    simp only
    omega
  | phase p n h =>
    refine ⟨hs.off, hs.table, ?_⟩
    have := hs.room
    unfold RecordsOk at *
    simp only
    omega
  | commits => exact ⟨hs.off, hs.table, hs.room⟩
  | service => exact ⟨hs.off, hs.table, hs.room⟩
  | format _ hx hr hb =>
    exact ⟨hr.1, by rw [hx.1]; exact ⟨List.Pairwise.nil, by simp⟩, by simp [RecordsOk, hx]⟩
  | recovery _ h => exact absurd hs.off h

theorem PartStep.bandsOk {s t : State} (h : PartStep s t) (hs : BandsOk s) : BandsOk t := by
  cases h with
  | lane h =>
    cases h with
    | map h => exact h.bandsOk hs
    | lanes => exact ⟨hs.off, hs.service, hs.table, hs.counts⟩
  | pull => exact ⟨hs.off, hs.service, hs.table, hs.counts⟩
  | phase => exact ⟨hs.off, hs.service, hs.table, hs.counts⟩
  | commits => exact ⟨hs.off, hs.service, hs.table, hs.counts⟩
  | service x hx => exact ⟨hs.off, hx, hs.table, hs.counts⟩
  | format _ hx hr hb =>
    refine ⟨hr.1, hr.2, by rw [hx.1]; exact ⟨List.Pairwise.nil, by simp⟩, fun a b hlt => ?_⟩
    have := hb a (t.bandRec a b) (by simp [State.bandRec, List.getD_eq_getElem?_getD, hlt])
    rw [hx.1]
    exact this
  | recovery _ h => exact absurd hs.off h

theorem PartWork.roomOk {s t : State} (h : PartWork s t) (hs : RoomOk s) : RoomOk t := by
  induction h with
  | refl => exact hs
  | tail _ h ih => exact h.roomOk ih

theorem PartWork.bandsOk {s t : State} (h : PartWork s t) (hs : BandsOk s) : BandsOk t := by
  induction h with
  | refl => exact hs
  | tail _ h ih => exact h.bandsOk ih

end Sys2Proof.Machine
end

section
/-! The extent map's operations and the lanes' rebinding are work on the map, and every command that is no reset is work of
the part. -/

namespace Sys2Proof.Machine

/-! ## The extent map's operations -/

theorem commitTable_mapWork (t : List Extent) (s : State) (hok : TableOk s.extents → TableOk t)
    (hroom : TableOk s.extents → s.roomFor s.extents → s.roomFor t) : MapWork s (commitTable t s) := by
  have h : MapWork s (retable t s) := Relation.ReflTransGen.single (.table s t hok hroom)
  rw [commitTable_eq]
  split
  · exact h
  · exact (h.trans (Work.foldl testEmptied_work _ _).mapWork).trans (evalMapPressure_work _).mapWork

theorem commitTable_extents (t : List Extent) (s : State) : (commitTable t s).extents = t := by
  obtain ⟨bm, hb⟩ := retable_fields t s
  rw [commitTable_eq]
  split
  · rw [hb]
  · rw [(evalMapPressure_work _).extents, (Work.foldl testEmptied_work _ _).extents, hb]

theorem tellRecord_work (e : Extent) (s : State) : Work s (tellRecord e s) := by
  unfold tellRecord
  split
  · exact Work.refl s
  · refine Work.foldl (fun s id => ?_) _ _
    grind [Work.refl, tellLost_work]

theorem reportConverted_work (s : State) (e : Extent) : Work s (reportConverted s e) :=
  (post_work _ _ _ _ _).trans (tellRecord_work _ _)

theorem convertLost_mapWork {s : State} {e : Extent} (he : e ∈ s.extents) :
    MapWork s (reportConverted (commitTable (convertLost s.extents e) s) e) := by
  refine (commitTable_mapWork _ s (fun h => convertLost_ok h he) (fun _ hr => ?_)).trans (reportConverted_work _ _).mapWork
  have := length_convertLost_le he
  unfold State.roomFor at *
  omega

theorem exhaust_mapWork (lba : Nat) (s : State) : MapWork s (exhaust lba s) := by
  unfold exhaust
  split
  · rename_i e he
    exact convertLost_mapWork (covering_some he).1
  · exact (post_work _ _ _ _ _).mapWork

theorem place_mapWork (lba : Nat) (loc : Loc) (s : State) : MapWork s (place lba loc s).2 := by
  unfold place
  split
  · rename_i t ht
    refine commitTable_mapWork t s (fun h => remap_ok h ht) (fun h hr => ?_)
    have := (length_remap_le h ht).1
    unfold State.freeRecords at this
    unfold State.roomFor at *
    omega
  · exact exhaust_mapWork _ _

theorem conditionalMove_mapWork (lba : Nat) (src dst : Loc) (s : State) : MapWork s (conditionalMove lba src dst s).2 := by
  have h := place_mapWork lba dst s
  grind [conditionalMove, MapWork.refl]

/-- Release takes at most one record, and none where no record reaches over both ends of its range (R28). -/
theorem cutTable_room {s : State} {lba count : Nat} (h : TableOk s.extents) (hr : s.roomFor s.extents)
    (hs : splitBy s.extents lba count = none ∨ s.freeRecords ≠ 0) : s.roomFor (cutTable s.extents lba (lba + count)) := by
  unfold State.roomFor at *
  by_cases hf : s.freeRecords = 0
  · have hn := List.find?_eq_none.1 (hs.resolve_right (by simpa using hf))
    have := length_cutTable_le_of (t := s.extents) (lo := lba) (hi := lba + count) (fun e he => by simpa using hn e he)
    omega
  · have := length_cutTable_le h (Nat.le_add_right lba count)
    unfold State.freeRecords at hf
    omega

theorem releaseRange_mapWork (lba count : Nat) (s : State) : MapWork s (releaseRange lba count s).2 := by
  have cut : splitBy s.extents lba count = none ∨ s.freeRecords ≠ 0 →
      MapWork s (commitTable (cutTable s.extents lba (lba + count)) s) := fun hs =>
    commitTable_mapWork _ s (fun h => cutTable_ok h (by omega)) (fun h hr => cutTable_room h hr hs)
  unfold releaseRange
  dsimp only
  split
  · rename_i e he
    split
    · exact convertLost_mapWork (splitBy_mem he)
    · exact cut (.inr ‹_›)
  · exact cut (.inl ‹_›)

theorem makeLost_mapWork (l : List (Nat × Loc)) (s : State) : MapWork s (makeLost l s).2 :=
  (commitTable_mapWork _ s (fun h => makeLostTable_ok _ _ l h) (fun h hr => length_makeLostTable_le _ _ l h hr)).trans
    (Work.foldl reportConverted_work _ _).mapWork

theorem makeLostEach_mapWork (l : List (List (Nat × Loc))) (s : State) : MapWork s (makeLostEach l s).2 := by
  induction l generalizing s with
  | nil => exact MapWork.refl s
  | cons b l ih => exact (makeLost_mapWork b s).trans (ih _)

/-! ## Lanes -/

theorem loseFrame_mapWork (id : Nat) (f : Frame) (l : SegLoc) (s : State) : MapWork s (loseFrame id f l s) := by
  unfold loseFrame
  dsimp only
  refine (makeLostEach_mapWork (f.runs.map (fun r => lossRange r.start r.len (l.at r.first))) s).trans (Work.mapWork ?_)
  split
  · exact tellLost_work _ _ _
  · exact (post_work _ _ _ _ _).trans (tellLost_work _ _ _)

theorem abandonFrame_mapWork (n id : Nat) (s : State) : MapWork s (abandonFrame n id s) := by
  unfold abandonFrame
  dsimp only
  split
  · exact MapWork.refl s
  · refine MapWork.trans ?_ ((((((modFrame_work _ _ _).trans (leaveBand_work _ _)).trans (modLane_work _ _ _ (fun _ h => by exact h))).trans
      (releaseFrame_work _ _)).trans (wakeWaiters_work _ _))).mapWork
    split
    · exact (returnMoves_work _ _).mapWork
    · exact loseFrame_mapWork _ _ _ _

theorem replaceBlock_mapWork (l loc : SegLoc) (s : State) (x : Nat × Nat) : MapWork s (replaceBlock l loc s x) := by
  grind [replaceBlock, MapWork.refl, place_mapWork]

theorem moveFrame_mapWork (n id : Nat) (loc : SegLoc) (ctr : Nat) (s : State) : MapWork s (moveFrame n id loc ctr s) := by
  unfold moveFrame
  dsimp only
  split
  · exact MapWork.refl s
  · rename_i old _
    generalize (if n = 7 then [] else _) = cur
    refine (MapWork.foldl (replaceBlock_mapWork old loc) cur s).trans (Work.mapWork ?_)
    have h : ∀ x t, Work t ((countDataSegment (leaveBand old (tellLost id x
        (t.modFrame id (fun f => { f with bound := some loc, ringCtr := ctr }))))).modLane n
          (fun c => { c with rebind := c.rebind.filter (fun i => i ≠ id) })) := fun x t =>
      ((((modFrame_work _ _ _).trans (tellLost_work _ _ _)).trans (leaveBand_work _ _)).trans
        (countDataSegment_work _)).trans (modLane_work _ _ _ (fun _ h => h))
    split
    · exact ((h _ _).trans (stampFrame_work _ _ _)).trans (joinQueue_work _ _ _ _)
    · exact h _ _

theorem workRebinds_laneWork (n fuel : Nat) (s : State) : LaneWork s (workRebinds n fuel s) := by
  induction fuel generalizing s with
  | zero => exact LaneWork.refl s
  | succ fuel ih =>
    unfold workRebinds
    split
    · exact (endRebind_work _ _).laneWork
    · split
      · exact (abandonFrame_mapWork _ _ _).laneWork.trans (ih _)
      · have h := laneLocation_work n s
        split <;> (rename_i hl; rw [hl] at h)
        · exact (h.mapWork.trans (moveFrame_mapWork _ _ _ _ _)).laneWork.trans (ih _)
        · exact h.laneWork.trans (LaneStep.lanes _ _).work

theorem workRebindList_laneWork (n : Nat) (s : State) : LaneWork s (workRebindList n s) := workRebinds_laneWork _ _ _

theorem failFrame_laneWork (n id : Nat) (s : State) : LaneWork s (failFrame n id s) := by
  unfold failFrame
  split
  · exact LaneWork.refl s
  · exact (((Work.foldl (fun s i => leaveQueue_work n i s) _ _).trans (modFrame_work _ _ _)).trans
      (modLane_work _ _ _ (fun _ h => by exact h))).laneWork.trans (workRebindList_laneWork _ _)

theorem retryFaulted_laneWork (s : State) (n : Nat) : LaneWork s (retryFaulted s n) := by
  grind [retryFaulted, LaneWork.refl, workRebindList_laneWork]

theorem informLanes_laneWork (s : State) : LaneWork s (informLanes s) :=
  LaneWork.forAny (fun s n => (retryFaulted_laneWork s n).trans (retryWaiting_work _ n).laneWork) _ _

theorem settleRound_laneWork (s : State) : LaneWork s (settleRound s) :=
  ((((gateEdge_work s).laneWork.trans (informLanes_laneWork _)).trans (pump_work _).laneWork).trans
    (informLanes_laneWork _)).trans ((pump_work _).trans (refreshWaits_work _)).laneWork

theorem settle_laneWork (s : State) : LaneWork s (settle s) := by
  unfold settle
  dsimp only
  split
  · exact settleRound_laneWork s
  · exact (settleRound_laneWork s).trans (settleRound_laneWork _)

theorem settle_partWork (s : State) : PartWork s (settle s) := (settle_laneWork s).partWork

/-! ## What follows a command where no lane is FAULTED -/

theorem mem_permute {α : Type} {c n : Nat} {l : List α} {x : α} (h : x ∈ permute c n l) : x ∈ l := by
  induction n generalizing l with
  | zero => exact h
  | succ n ih =>
    unfold permute at h
    split at h
    · exact h
    · rename_i y hy
      rcases List.mem_cons.1 h with rfl | h
      · exact List.mem_of_getElem? hy
      · exact List.mem_of_mem_eraseIdx (ih h)

theorem mem_anyOrder {α : Type} {s : State} {l : List α} {x : α} (h : x ∈ (s.anyOrder l).1) : x ∈ l := by
  unfold State.anyOrder at h
  split at h
  · exact h
  · exact mem_permute h

/-- A fold of work that needs no lane in FAULTED. -/
theorem Work.foldl_unfaulted {α : Type} {f : State → α → State} (l : List α) (h : ∀ x ∈ l, ∀ s, s.unfaulted → Work s (f s x))
    (s : State) (hs : s.unfaulted) : Work s (l.foldl f s) := by
  induction l generalizing s with
  | nil => exact Work.refl s
  | cons x l ih =>
    have hx := h x (by simp) s hs
    exact hx.trans (ih (fun y hy => h y (by simp [hy])) _ (hx.mapWork.unfaulted hs))

theorem informLanes_work {s : State} (hs : s.unfaulted) : Work s (informLanes s) := by
  have ho := anyOrder_work s s.stuckLanes
  refine ho.trans (Work.foldl_unfaulted _ (fun n hn u hu => ?_) _ (ho.mapWork.unfaulted hs))
  have hn := List.mem_range.1 (List.mem_filter.1 (mem_anyOrder hn)).1
  have : retryFaulted u n = u := by
    unfold retryFaulted
    rw [if_neg (hu n hn)]
  rw [this]
  exact retryWaiting_work u n

theorem Work.unfaulted {s t : State} (h : Work s t) (hs : s.unfaulted) : t.unfaulted := h.mapWork.unfaulted hs

theorem settleRound_work {s : State} (hs : s.unfaulted) : Work s (settleRound s) := by
  have h1 := gateEdge_work s
  have h2 := h1.trans (informLanes_work (h1.unfaulted hs))
  have h3 := h2.trans (pump_work _)
  have h4 := h3.trans (informLanes_work (h3.unfaulted hs))
  exact (h4.trans (pump_work _)).trans (refreshWaits_work _)

/-- Where no lane is FAULTED what follows a command leaves the extent map alone. -/
theorem settle_work {s : State} (hs : s.unfaulted) : Work s (settle s) := by
  have h := settleRound_work hs
  unfold settle
  dsimp only
  split
  · exact h
  · exact h.trans (settleRound_work (h.unfaulted hs))

end Sys2Proof.Machine
end

section
/-! Every command that is no reset is work of the part. -/

namespace Sys2Proof.Machine

/-! ## Single steps of the part -/

theorem service_partWork (s : State) (x : Service) (h : x ≠ .recovering) : PartWork s { s with service := x } :=
  (PartStep.service s x h).work

theorem phase_partWork (s : State) (p : Option DataPhase) (n : Nat) (h : n ≤ s.earmarks) :
    PartWork s { s with phase := p, earmarks := n } := (PartStep.phase s p n h).work

theorem modPhase_partWork (s : State) (f : DataPhase → DataPhase) : PartWork s (s.modPhase f) :=
  phase_partWork s (s.phase.map f) s.earmarks (le_refl _)

theorem popIntake_work (s : State) : Work s (popIntake s) := .aside rfl

/-! ## The checkpoint writer -/

theorem awaitStart_work (b : Bool) (s : State) :
    Work s (if b then { s with maint := { s.maint with awaitStart := true } } else s) := by
  split
  · exact maint_work _ _
  · exact Work.refl s

/-- A checkpoint given up is tried again, but FORMAT's third failure halts the part (R153, R176). -/
theorem retryCk_partWork (s : State) : PartWork s (match s.ck.formatTries with
    | some n =>
      if Config.maxWriteAttempts ≤ n + 1 then
        { s.modCk (fun c => { c with wanted := false, formatTries := none }) with service := .halted }
      else restartCk (s.modCk (fun c => { c with formatTries := some (n + 1) }))
    | none => restartCk s) := by
  repeat' split
  · exact (modCk_work _ _).partWork.trans (service_partWork _ _ (by decide))
  · exact ((modCk_work _ _).trans (restartCk_work _)).partWork
  · exact (restartCk_work _).partWork

theorem abandonCheckpoint_partWork (s : State) : PartWork s (abandonCheckpoint s) := by
  unfold abandonCheckpoint
  split
  · exact PartWork.refl s
  · dsimp only
    refine PartWork.trans ?_ (bindNotice_work _).partWork
    refine PartWork.trans ?_ (retryCk_partWork _)
    refine Work.partWork (Work.trans ?_ (awaitStart_work _ _))
    refine Work.trans ?_ (modCk_work _ _)
    refine Work.trans (Work.trans ?_ (withdraw_work _ _)) (withdraw_work _ _)
    refine Work.trans ?_ (releaseHeld_work _ _)
    have h := Work.foldl (fun s id => releaseFrame_work id s)
      (((s.ck.queue.filter (fun q => q.kind ≠ .notice)).map (fun q => q.frame)).filter (fun id => !s.writing .A id)) s
    split
    · exact h
    · exact h.trans (releaseHeld_work _ _)

theorem failCheckpoint_partWork (ctr : Nat) (s : State) : PartWork s (failCheckpoint ctr s) :=
  (post_work _ _ _ _ _).partWork.trans (abandonCheckpoint_partWork _)

theorem captureBands_work (a : Actuator) (b id : Nat) (r : CkRun) (s : State) : Work s (captureBands a b id r s) :=
  (bindRing_work _ _ _ _ _ _).trans (modRun_work _ _)

theorem captureExtents_work (l : List Extent) (id : Nat) (s : State) : Work s (captureExtents l id s) :=
  (bindRing_work _ _ _ _ _ _).trans (modRun_work _ _)

theorem testOverflow_partWork (s : State) : PartWork s (testOverflow s) := by
  unfold testOverflow
  dsimp only
  repeat' split
  any_goals exact PartWork.refl _
  exact (post_work _ _ _ _ _).partWork.trans (abandonCheckpoint_partWork _)

theorem capturePages_partWork (fuel id : Nat) (s : State) : PartWork s (capturePages fuel id s) := by
  induction fuel generalizing id s with
  | zero => exact PartWork.refl s
  | succ fuel ih =>
    have after : ∀ t, PartWork s t → PartWork s (match askNext t with
        | (some id, s) => capturePages fuel id s
        | (none, s) => s) := by
      intro t ht
      have h := ht.trans (askNext_work t).partWork
      split
      · rename_i ha
        rw [ha] at h
        exact h.trans (ih _ _)
      · rename_i ha
        rw [ha] at h
        exact h
    unfold capturePages
    split
    · exact PartWork.refl s
    · dsimp only
      split
      · exact (modRun_work _ _).partWork
      · split
        · exact after _ (captureBands_work _ _ _ _ _).partWork
        · split
          · exact (grantClose_work _ _).partWork
          · exact after _ ((captureExtents_work _ _ _).partWork.trans (testOverflow_partWork _))

theorem grantPage_partWork (id : Nat) (s : State) : PartWork s (grantPage id s) := capturePages_partWork _ _ _

theorem startCheckpoint_partWork (s : State) : PartWork s (startCheckpoint s) := by
  unfold startCheckpoint
  split
  · dsimp only
    generalize hr : (CkRun.mk _ _ _ _ _ _ _ _ _ _ _ _ _ _ _ _) = run
    have h := ((modCk_work s (fun c =>
      { c with run := some run, wanted := c.restart && c.wanted, restart := false, dStart := 0 })).trans
      (maint_work _ { s.maint with awaitStart := false })).trans (requestFrame_work .page _)
    split
    · rename_i hq
      have h' := (congrArg (fun x : Option Nat × State => Work s x.2) hq).mp h
      exact h'.partWork.trans (grantPage_partWork _ _)
    · rename_i hq
      exact ((congrArg (fun x : Option Nat × State => Work s x.2) hq).mp h).partWork
  · exact PartWork.refl s

theorem enterReady_partWork (s : State) : PartWork s (enterReady s) :=
  (service_partWork s .ready (by decide)).trans
    ((((rc_work _ _ (by exact ⟨rfl, rfl⟩)).trans (evalMapPressure_work _)).trans (evalBandPressure_work _ _)).trans
      (evalBandPressure_work _ _)).partWork

theorem answerCheckpoint_work (r : CkRun) (s : State) : Work s (answerCheckpoint r s) := by
  unfold answerCheckpoint
  split
  · exact maint_work _ _
  · exact Work.refl s

theorem completeCheckpoint_partWork (s : State) : PartWork s (completeCheckpoint s) := by
  unfold completeCheckpoint
  split
  · exact PartWork.refl s
  · dsimp only
    refine PartWork.trans ?_ ((bindNotice_work _).trans (testRingHalf_work _)).partWork
    have last : ∀ t, PartWork t (if t.service = .formatting then
        enterReady (t.modCk (fun c => { c with formatTries := none })) else t) := by
      intro t
      split
      · exact (modCk_work _ _).partWork.trans (enterReady_partWork _)
      · exact PartWork.refl t
    refine PartWork.trans (Work.partWork ?_) (last _)
    refine Work.trans ?_ (answerCheckpoint_work _ _)
    refine Work.trans (Work.trans ?_ (releaseHeld_work _ _)) (modCk_work _ _)
    refine Work.trans ?_ (settlePendingBlank_work _ _)
    refine Work.trans (Work.trans ?_ (releaseRing_work _ _ _)) (releaseRing_work _ _ _)
    refine Work.trans ?_ (Work.forAny (fun s (x : Actuator × Nat) => testEvacuated_work x.1 x.2 s) _ _)
    exact .aside rfl

theorem ringWritten_partWork (q : RingSeg) (s : State) : PartWork s (ringWritten q s) := by
  unfold ringWritten
  dsimp only
  refine (unqueueRing_work q.frame s).partWork.trans ?_
  split
  · exact (endNotice_work _ _).partWork
  · exact (((releaseFrame_work _ _).trans (modRun_work _ _)).trans (bindClose_work _)).partWork
  · exact completeCheckpoint_partWork _

theorem ringFailed_partWork (q : RingSeg) (s : State) : PartWork s (ringFailed q s) := by
  unfold ringFailed
  split
  · exact (failNotice_work _ _ _).partWork
  · exact failCheckpoint_partWork _ _
  · exact failCheckpoint_partWork _ _

/-! ## The admission gate and the data phase -/

theorem redirect_partWork (m : Nat) (s : State) : PartWork s (redirect m s) := by
  unfold redirect
  split
  · exact PartWork.refl s
  · rename_i p _
    refine PartWork.trans ?_ (enterLane_work _ _).partWork
    refine PartWork.trans (leavePhase_work p.lane s).partWork ?_
    exact modPhase_partWork _ _

theorem settleLane_partWork (lba : Nat) (s : State) : PartWork s (settleLane lba s) := by
  unfold settleLane
  split
  · exact PartWork.refl s
  · dsimp only
    have h : ∀ t, PartWork s t → PartWork s (match t.phase with
        | none => t
        | some p => closeAtNinthRun p.lane lba t) := by
      intro t ht
      split
      · exact ht
      · exact ht.trans (closeAtNinthRun_work _ _ _).partWork
    apply h
    split
    · exact redirect_partWork _ _
    · exact PartWork.refl s

theorem findSlot_partWork (n : Nat) (s : State) : PartWork s (findSlot n s).2 := by
  have h := (laneSlot_work n s).partWork
  unfold findSlot
  split
  · rename_i t hl
    rw [hl] at h
    split
    · exact h
    · split
      · have k := h.trans (takeStream_work t).partWork
        split
        · rename_i m u hs
          rw [hs] at k
          have j := (k.trans (redirect_partWork m u)).trans (laneSlot_work m _).partWork
          split
          · rename_i hj
            rw [hj] at j
            exact j.trans (waitLane_work _ _).partWork
          · exact j
        · rename_i u hs
          rw [hs] at k
          exact k.trans (waitLane_work _ _).partWork
      · exact h.trans (waitLane_work _ _).partWork
  · exact h

theorem holdBlock_partWork (c : HoldCause) (s : State) : PartWork s (holdBlock c s) :=
  modPhase_partWork _ _

/-! ## The end of a data phase -/

theorem endPhase_partWork (s : State) : PartWork s (endPhase s) := by
  unfold endPhase
  split
  · exact PartWork.refl s
  · dsimp only
    refine (phase_partWork s none s.earmarks (le_refl _)).trans (Work.partWork ?_)
    refine Work.trans ?_ (refuseTurns_work _)
    refine Work.trans ?_ (checkComplete_work _ _)
    refine Work.trans ?_ (popIntake_work _)
    refine Work.trans ?_ (modTag_work _ _ _)
    exact (leavePhase_work _ _).trans (lateGiveUps_work _)

theorem testPhaseEnd_partWork (s : State) : PartWork s (testPhaseEnd s) := by
  grind [testPhaseEnd, PartWork.refl, endPhase_partWork]

/-- A pull is sent with the front reserve free (R35, R93). -/
theorem sendPull_partWork (s : State) (p : DataPhase) (id : Nat) (h : Config.frontReserve ≤ s.freeRecords) :
    PartWork s (sendPull p id s) := by
  unfold sendPull
  dsimp only
  refine PartWork.trans ?_ (evalMapPressure_work _).partWork
  have hp : ∀ f g, PartWork s (({ ((s.send (.dataPull p.tag)).modFrame id f).modLane p.lane
      (fun c => { c with idleTimer := none }) with earmarks := s.earmarks + 1 }).modPhase g) := fun f g =>
    (((send_work _ s).trans (modFrame_work _ _ f)).trans (modLane_work _ _ _ (fun _ h => by exact h))).partWork.trans
      (PartStep.pull (((s.send (.dataPull p.tag)).modFrame id f).modLane p.lane (fun c => { c with idleTimer := none }))
        (s.phase.map g) h).work
  exact hp _ _

theorem passBlock_partWork (s : State) : PartWork s (passBlock s) := by
  unfold passBlock
  repeat' split
  · exact PartWork.refl s
  · exact PartWork.refl s
  · exact holdBlock_partWork _ _
  · exact holdBlock_partWork _ _
  · rename_i hf
    exact sendPull_partWork s _ _ (not_lt.1 hf)

/-! ## The gate's test of a block -/

theorem testGate_partWork (s : State) : PartWork s (testGate s) := by
  unfold testGate
  split
  · exact PartWork.refl s
  · rename_i p hp
    split
    · have h1 := settleLane_partWork (p.lba + p.next) s
      dsimp only
      split
      · exact h1
      · rename_i q hq
        have h2 := h1.trans (findSlot_partWork q.lane _)
        split
        · rename_i hf
          rw [hf] at h2
          exact h2.trans (holdBlock_partWork _ _)
        · rename_i hf
          rw [hf] at h2
          exact h2.trans (passBlock_partWork _)
    · exact PartWork.refl s

/-- An acceptance returns its earmark before the block is placed (R74, R21). -/
theorem acceptBlock_partWork (s : State) (p : DataPhase) (u : Pull) (d : Block) : PartWork s (acceptBlock p u d s) := by
  have h : ∀ f g, PartWork s (({ s.modFrame u.frame f with earmarks := s.earmarks - 1 }).modPhase g) := fun f g =>
    (modFrame_work s u.frame f).partWork.trans (phase_partWork _ _ _ (Nat.sub_le _ _))
  unfold acceptBlock
  dsimp only
  split
  · exact h _ _
  · refine PartWork.trans ?_ ((acceptLane_work _ _ _).trans (closeAtAcceptance_work _ _)).partWork
    split
    · exact ((h _ _).trans (place_mapWork _ _ _).partWork).trans (chargeCredit_work _ _).partWork
    · exact (h _ _).trans (place_mapWork _ _ _).partWork

theorem dropPhase_partWork (s : State) : PartWork s (dropPhase s) := by
  unfold dropPhase
  split
  · exact PartWork.refl s
  · rename_i p hp
    dsimp only
    refine (phase_partWork s none (s.earmarks - p.unanswered.length) (Nat.sub_le _ _)).trans (Work.partWork ?_)
    refine Work.trans ?_ (evalMapPressure_work _)
    refine Work.trans ?_ (lateGiveUps_work _)
    refine Work.trans ?_ (leavePhase_work _ _)
    exact Work.foldl abandonPromise_work _ _

theorem expireHold_partWork (s : State) : PartWork s (expireHold s) := by
  unfold expireHold
  split
  · exact PartWork.refl s
  · dsimp only
    refine PartWork.trans ?_ (testPhaseEnd_partWork _)
    refine PartWork.trans ?_ (modLane_work _ _ _ (fun c h => by grind)).partWork
    refine PartWork.trans ?_ (dropRequest_work _ _).partWork
    exact (post_work _ _ _ _ _).partWork.trans (modPhase_partWork _ _)

theorem startPhase_partWork (t : Nat) (e : TagEntry) (s : State) : PartWork s (startPhase t e s) :=
  ((classify_work e.lba e.count s).trans (enterLane_work _ _)).partWork.trans
    ((phase_partWork _ _ _ (le_refl _)).trans (modTag_work _ _ _).partWork)

/-! ## Recovery -/

/-- While a recovery runs there is nothing to say of a step (R166). -/
theorem recovery_partWork {s : State} {a : Actuator} {w : RecWork} (h : s.task a = some w) (t : State) : PartWork s t :=
  (PartStep.recovery s t (recov_ne_off h)).work

theorem scanTaken_partWork (a : Actuator) (l : List ScanEntry) (s : State) : PartWork s (scanTaken a l s) := by
  unfold scanTaken
  split
  · exact PartWork.refl s
  · exact recovery_partWork ‹_› _

theorem readTaken_partWork (a : Actuator) (r : ReadEnd) (p : List Block) (s : State) : PartWork s (readTaken a r p s) := by
  unfold readTaken
  split
  · exact PartWork.refl s
  · exact recovery_partWork ‹_› _

theorem grantScanner_partWork (a : Actuator) (id : Nat) (s : State) : PartWork s (grantScanner a id s) := by
  by_cases h : s.recov = Recovery.off
  · refine (Work.aside ?_).partWork
    simp only [State.watched, grantScanner, State.modWork, State.modRec, h]
    cases a <;> rfl
  · exact (PartStep.recovery _ _ h).work

/-! ## Media ports -/

theorem issue_work (a : Actuator) (r : Request) (s : State) : Work s (issue a r s) := by
  unfold issue
  dsimp only
  repeat' split
  all_goals exact .aside rfl

theorem grantRequester_work (a : Actuator) (k : Nat) (r : Request) (s : State) : Work s (grantRequester a k r s) :=
  (modPort_work _ _ _).trans (issue_work _ _ _)

theorem runArbiter_work (a : Actuator) (s : State) : Work s (runArbiter a s) := by
  grind [runArbiter, Work.refl, Work.trans, issue_work, grantRequester_work, modPort_work]

theorem losePort_work (a : Actuator) (s : State) (n : Nat) : Work s (losePort a s n) := by
  have h7 : ∀ t : State, Work t (if n = 7 then
      match t.rc.job with
      | some j => t.modLane 7 (fun c => if c.act = some a then { c with act := some j.act } else c)
      | none => t
    else t) := by
    intro t
    repeat' split
    · exact modLane_work _ _ _ (fun c h => by grind)
    · exact Work.refl t
    · exact Work.refl t
  unfold losePort
  dsimp only
  refine Work.trans ?_ (h7 _)
  repeat' split
  · exact closeOpen_work _ _
  · exact (closeOpen_work _ _).trans (giveUpLaneBand_work _ _)
  · exact Work.refl s

theorem enterDown_work (a : Actuator) (s : State) : Work s (enterDown a s) :=
  (((post_work _ _ _ _ _).trans (modPort_work _ _ _)).trans (Work.forAny (losePort_work a) _ _)).trans (modJob_work _ _)

theorem endOp_work (a : Actuator) (s : State) : Work s (endOp a s) := modPort_work _ _ _

theorem scramble_work (f : Option Nat) (s : State) : Work s (scramble f s) := by
  unfold scramble
  split <;> exact .aside rfl

/-! ## The reclaim engine's reads and commits -/

theorem failSource_mapWork (l : SegLoc) (s : State) : MapWork s (failSource l s) := by
  unfold failSource
  dsimp only
  have h : ∀ b p q, MapWork s (resolveMoves .dead q (resolveMoves .lost p (makeLostEach b (deleteSource l s)).2)) := fun b p q =>
    ((deleteSource_work l s).mapWork.trans (makeLostEach_mapWork b _)).trans
      ((resolveMoves_work _ p _).trans (resolveMoves_work _ q _)).mapWork
  split
  · exact h _ _ _
  · exact (h _ _ _).trans (post_work _ _ _ _ _).mapWork

theorem retrySource_mapWork (e : SourceRead) (s : State) : MapWork s (retrySource e s) := by
  unfold retrySource
  dsimp only
  repeat' split
  · exact ((resolveMoves_work _ _ _).trans (deleteSource_work _ _)).mapWork
  · exact (resolveMoves_work _ _ _).mapWork.trans (failSource_mapWork _ _)
  · exact (((resolveMoves_work _ _ _).trans (modSource_work _ _ _)).trans (rc_work _ _ (by exact ⟨rfl, rfl⟩))).mapWork

theorem readSource_mapWork (e : SourceRead) (t : Stamp) (s : State) : MapWork s (readSource e t s) := by
  unfold readSource
  dsimp only
  split
  · exact (((resolveMoves_work _ _ _).trans (modJob_work _ _)).trans ((modSource_work _ _ _).trans (tidySource_work _ _))).mapWork
  · exact retrySource_mapWork _ _

theorem sourceResult_mapWork (l : SegLoc) (r : ReadEnd) (s : State) : MapWork s (sourceResult l r s) := by
  unfold sourceResult
  repeat' split
  · exact MapWork.refl _
  · exact (modSource_work _ _ _).mapWork
  · exact (popSource_work _ _).mapWork.trans (retrySource_mapWork _ _)
  · exact (popSource_work _ _).mapWork.trans (readSource_mapWork _ _ _)
  · exact (popSource_work _ _).mapWork.trans (retrySource_mapWork _ _)
  · exact (((popSource_work _ _).trans (releaseHeld_work _ _)).trans (rc_work _ _ (by exact ⟨rfl, rfl⟩))).mapWork

theorem commitSlot_mapWork {f : Frame} {l : SegLoc} {k : Nat} {s t : State} (h : commitSlot f l k s = some t) :
    MapWork s t := by
  unfold commitSlot at h
  split at h
  · split at h
    · cases h
      exact (resolveMoves_work _ _ _).mapWork
    · split at h <;> cases h
      exact (conditionalMove_mapWork _ _ _ _).trans (resolveMoves_work _ _ _).mapWork
  · cases h
    exact MapWork.refl _

theorem commits_partWork (s : State) (q : List Nat) (n : Nat) :
    PartWork s { s with rc := { s.rc with commitQ := q, commitAt := n } } := (PartStep.commits s q n).work

theorem commitSlots_partWork (f : Frame) (l : SegLoc) (ks : List Nat) (s : State) : PartWork s (commitSlots f l ks s).2 := by
  induction ks generalizing s with
  | nil => exact PartWork.refl s
  | cons k ks ih =>
    unfold commitSlots
    split
    · exact ((commitSlot_mapWork ‹_›).partWork.trans (commits_partWork _ _ _)).trans (ih _)
    · exact commits_partWork _ _ _

theorem commitHead_partWork (s : State) : PartWork s (commitHead s) := by
  unfold commitHead
  dsimp only
  split
  · exact PartWork.refl s
  split
  · exact PartWork.refl s
  · rename_i id rest _ _ l _
    have h := commitSlots_partWork (s.frame id) l ((List.range (s.frame id).fill).drop s.rc.commitAt) s
    split <;> (rename_i hc; rw [hc] at h)
    · exact (h.trans (commits_partWork _ _ _)).trans (releaseFrame_work _ _).partWork
    · exact h

/-! ## Results -/

theorem routeNotReady_partWork (o : Op) (s : State) : PartWork s (routeNotReady o s) := by
  unfold routeNotReady
  have h : PartWork s (if o.kind = .segmentRead ∧ o.live then scramble o.frame s else s) := by
    split
    · exact (scramble_work _ _).partWork
    · exact PartWork.refl s
  dsimp only
  refine h.trans ?_
  repeat' split
  all_goals first
    | exact PartWork.refl _
    | exact (releaseHeld_work _ _).partWork
    | exact (entryResult_work _ _ _).partWork
    | exact (sourceResult_mapWork _ _ _).partWork
    | exact (endAbandoned_work _ _ _ _).partWork

theorem endNotReady_partWork (a : Actuator) (o : Op) (s : State) : PartWork s (endNotReady a o s) := by
  unfold endNotReady
  dsimp only
  have h := (endOp_work a s).partWork.trans (routeNotReady_partWork o _)
  split
  · exact h.trans (enterDown_work _ _).partWork
  · exact h

theorem takeWritten_partWork (id : Nat) (l : SegLoc) (s : State) : PartWork s (takeWritten id l s) :=
  ((modJob_work _ _).trans (modFrame_work _ _ _)).partWork.trans (commits_partWork _ _ _)

theorem laneWritten_partWork (n id : Nat) (l : SegLoc) (s : State) : PartWork s (laneWritten n id l s) := by
  unfold laneWritten
  dsimp only
  have h : Work s (if l.region = .band then bandWritten l.act l.band s else s) := by
    split
    · exact bandWritten_work _ _ _
    · exact Work.refl s
  have k := (h.trans (leaveQueue_work n id _)).trans (modFrame_work _ id (fun f => { f with written := true, waiters := [] }))
  split
  · exact k.partWork.trans (takeWritten_partWork _ _ _)
  · exact ((k.trans (releaseFrame_work _ _)).trans (wakeWaiters_work _ _)).partWork

theorem loseBand_partWork (l : SegLoc) (s : State) : PartWork s (loseBand l s) := (LaneStep.lanes _ _).work.partWork

theorem laneFailed_partWork (n id : Nat) (l : SegLoc) (b : Bool) (s : State) : PartWork s (laneFailed n id l b s) := by
  unfold laneFailed
  dsimp only
  refine PartWork.trans ?_ ((failFrame_laneWork _ _ _).partWork)
  split
  · exact (truncateBand_work _ _ _ _).partWork.trans (loseBand_partWork _ _)
  · exact (post_work _ _ _ _ _).partWork

theorem routeWrite_partWork (o : Op) (ok b : Bool) (s : State) : PartWork s (routeWrite o ok b s) := by
  unfold routeWrite
  repeat' split
  all_goals first
    | exact PartWork.refl _
    | exact (releaseHeld_work _ _).partWork
    | exact laneWritten_partWork _ _ _ _
    | exact laneFailed_partWork _ _ _ _ _
    | exact ringWritten_partWork _ _
    | exact ringFailed_partWork _ _
    | exact (endAbandoned_work _ _ _ _).partWork

theorem takeWrite_partWork (a : Actuator) (o : Op) (r : WriteResult) (s : State) : PartWork s (takeWrite a o r s) := by
  unfold takeWrite
  repeat' split
  all_goals first
    | exact endNotReady_partWork _ _ _
    | exact (endOp_work a s).partWork.trans (routeWrite_partWork _ _ _ _)

theorem routeRead_partWork (a : Actuator) (o : Op) (r : ReadEnd) (p : List Block) (s : State) : PartWork s (routeRead a o r p s) := by
  unfold routeRead
  repeat' split
  all_goals first
    | exact PartWork.refl _
    | exact (releaseHeld_work _ _).partWork
    | exact (entryResult_work _ _ _).partWork
    | exact (sourceResult_mapWork _ _ _).partWork
    | exact readTaken_partWork _ _ _ _

theorem fillFrame_work (f : Option Nat) (p : List Block) (s : State) : Work s (fillFrame f p s) := by
  unfold fillFrame
  split
  · exact modFrame_work _ _ _
  · exact Work.refl s

theorem takeRead_partWork (a : Actuator) (o : Op) (r : ReadResult) (s : State) : PartWork s (takeRead a o r s) := by
  have live : ∀ (f : State → State), (∀ u, PartWork u (f u)) → ∀ u, PartWork u (if o.live then f u else u) := fun f hf u => by
    split
    · exact hf u
    · exact PartWork.refl u
  unfold takeRead
  split
  · exact endNotReady_partWork _ _ _
  · cases r with
    | done header trailer payload =>
      exact ((endOp_work a s).partWork.trans (live _ (fun u => (fillFrame_work o.frame payload u).partWork) _)).trans (routeRead_partWork _ _ _ _ _)
    | unreadable => exact ((endOp_work a s).partWork.trans (live _ (fun u => (scramble_work o.frame u).partWork) _)).trans (routeRead_partWork _ _ _ _ _)
    | notReady => exact endNotReady_partWork _ _ _

theorem takeScan_partWork (a : Actuator) (o : Op) (r : ScanResult) (s : State) : PartWork s (takeScan a o r s) := by
  unfold takeScan
  dsimp only
  repeat' split
  all_goals first
    | exact endNotReady_partWork _ _ _
    | exact (endOp_work _ _).partWork
    | exact (endOp_work a s).partWork.trans (scanTaken_partWork _ _ _)

/-! ## The front link and the write intake -/

theorem arrive_partWork (t : Nat) (r : Arrival) (x : Stand) (f : State → State) (h : ∀ s, Work s (f s)) (s : State) :
    PartWork s (arrive t r x f s) := by
  unfold arrive
  dsimp only
  have h0 : Work s (restartIdleClock s) := .aside rfl
  split
  · exact (h0.trans (send_work _ _)).partWork
  · refine PartWork.trans (Work.partWork (h0.trans (Work.trans ?_ (h _)))) (settle_partWork _)
    exact tags_work _ _

theorem joinIntake_work (t : Nat) (s : State) : Work s (joinIntake t s) := .aside rfl

theorem dropRequests_partWork (s : State) : PartWork s (dropRequests s) := by
  unfold dropRequests
  dsimp only
  have h := (dropPhase_partWork s).trans (Work.foldl dropRead_work (dropPhase s).rs.reads _).partWork
  generalize (dropPhase s).rs.reads.foldl dropRead (dropPhase s) = u at *
  exact h.trans (Work.partWork (.aside (s := u) rfl))

theorem acceptRelease_mapWork (t : Nat) (e : TagEntry) (s : State) : MapWork s (acceptRelease t e s) := by
  unfold acceptRelease
  dsimp only
  refine (releaseRange_mapWork e.lba e.count s).trans (Work.mapWork ?_)
  refine Work.trans ?_ (refuseTurns_work _)
  refine Work.trans ?_ (popIntake_work _)
  refine Work.trans ?_ (modTag_work _ _ _)
  refine Work.trans ?_ (takeBatch_work _)
  exact (assignSeq_work _).trans (modCk_work _ _)

theorem joinFrames_work (t : Nat) (s : State) : Work s (joinFrames t s) := .aside rfl

theorem acceptFlush_work (t : Nat) (s : State) : Work s (acceptFlush t s) := by
  unfold acceptFlush
  dsimp only
  refine Work.trans ?_ (refuseTurns_work _)
  refine Work.trans ?_ (checkComplete_work _ _)
  refine Work.trans ?_ (popIntake_work _)
  refine Work.trans ?_ (modTag_work _ _ _)
  refine Work.trans ?_ (joinFrames_work _ _)
  exact Work.forAny (fun s n => closeOpen_work n s) _ _

/-! ## The pool's offer and the idle clock -/

theorem deliverFrame_partWork (r : Requester) (id : Nat) (s : State) : PartWork s (deliverFrame r id s) := by
  unfold deliverFrame
  split
  · exact (modLane_work _ _ _ (fun _ h => by exact h)).partWork
  · exact (grantEntry_work _ _ _).partWork
  · exact (grantSource_work _ _ _).partWork
  · exact grantPage_partWork _ _
  · exact (grantClose_work _ _).partWork
  · exact (grantNotice_work _ _).partWork
  · exact grantScanner_partWork _ _ _

theorem dequeue_work (c : FrameClass) (s : State) : Work s (dequeue c s) := .aside rfl

theorem grantFrame_work {r : Requester} {s t : State} {id : Nat} (hg : grantFrame r s = some (id, t)) : Work s t := by
  unfold grantFrame at hg
  split at hg <;> cases hg
  exact modFrame_work _ _ _

theorem offerFrame_partWork (s : State) : PartWork s (offerFrame s) := by
  unfold offerFrame
  split
  · split
    · exact PartWork.refl s
    · exact (recycleStalled_work s).partWork
  · rename_i r hr
    split
    · rename_i id t hg
      exact (((grantFrame_work hg).trans (dequeue_work _ _)).partWork.trans (deliverFrame_partWork _ _ _)).trans
        (recycleStalled_work _).partWork
    · exact PartWork.refl s

theorem expireIdleClock_work (s : State) : Work s (expireIdleClock s) := by
  unfold expireIdleClock
  split
  · exact .aside rfl
  · exact Work.refl s

/-! ## Maintenance -/

theorem take_partWork (a : BitVec 7) (f : State → State) (s : State) (h : ∀ s, PartWork s (f s)) : PartWork s (take a f s) := by
  unfold take
  split
  · exact PartWork.refl s
  · exact h s

theorem takeLen_partWork (w : MaintWrite) (n : Nat) (f : State → State) (s : State) (h : ∀ s, PartWork s (f s)) :
    PartWork s (takeLen w n f s) := by
  refine take_partWork _ _ _ (fun s => ?_)
  split
  · exact h s
  · exact (respond_work _ _ _).partWork

theorem writeSetting_work (c v : Nat) (s : State) : Work s (writeSetting c v s) := by
  unfold writeSetting
  dsimp only
  repeat' split
  all_goals exact .aside rfl

theorem informSettings_partWork (old : Settings) (s : State) : PartWork s (informSettings old s) := by
  unfold informSettings
  dsimp only
  have last : ∀ t, PartWork s t → PartWork s (match t.phase with
      | some p => if t.ranFor p.holdTimer t.work.holdLimit then expireHold t else t
      | none => t) := by
    intro t ht
    repeat' split
    · exact ht.trans (expireHold_partWork _)
    · exact ht
    · exact ht
  have ahead : ∀ t, PartWork s t → PartWork s (if t.work.readAhead = .off then dropAheadWhere (fun _ => true) t else t) := by
    intro t ht
    split
    · exact ht.trans (dropAheadWhere_work _ _).partWork
    · exact ht
  have ck : ∀ t, PartWork s t → PartWork s (if t.work.ckSegments < old.ckSegments ∧ t.work.ckSegments ≤ t.ck.dStart then
      requestCk t else t) := by
    intro t ht
    split
    · exact ht.trans (requestCk_work _).partWork
    · exact ht
  apply last
  apply ahead
  apply ck
  refine PartWork.trans ?_ (expireIdleClock_work _).partWork
  split
  · exact ((((evalBandPressure_work _ _).trans (evalBandPressure_work _ _)).trans (evalLatch_work _ _)).trans
      (evalLatch_work _ _)).partWork
  · exact PartWork.refl s

theorem applySettings_partWork (s : State) : PartWork s (applySettings s) := by
  unfold applySettings
  dsimp only
  refine PartWork.trans ?_ (respond_work _ _ _).partWork
  exact (maint_work s { s.maint with work := s.maint.pend.agreed }).partWork.trans (informSettings_partWork _ _)

theorem runCheckpoint_work (s : State) : Work s (runCheckpoint s) :=
  (maint_work s { s.maint with busy := true, awaitStart := true, status := .busy, payload := [] }).trans
    (requestCk_work _)

theorem closeLane_work (s : State) (n : Nat) : Work s (closeLane s n) := by
  unfold closeLane
  dsimp only
  repeat' split
  all_goals first
    | exact Work.refl _
    | exact modLane_work _ _ _ (fun _ h => h)
    | exact giveUpLane_work _ _

theorem formatPart_partWork (s : State) : PartWork s (formatPart s) := by
  unfold formatPart
  dsimp only
  refine PartWork.trans ?_ (((evalBandPressure_work _ _).trans (evalBandPressure_work _ _)).trans (respond_work _ _ _)).partWork
  refine (PartStep.format _ _ ⟨rfl, rfl⟩ ⟨rfl, by simp⟩ (fun a r hr => ?_)).work
  cases a <;> obtain ⟨-, rfl⟩ := List.mem_replicate.1 hr <;> exact ⟨rfl, rfl⟩

/-! ## All commands -/

theorem PartWork.settle {s t : State} (h : PartWork s t) : PartWork s (settle t) := h.trans (settle_partWork t)

theorem Work.settle {s t : State} (h : Work s t) : PartWork s (Machine.settle t) := h.partWork.settle

/-- What a command's answer is to the state it found: work of the part, or a reset (R163). -/
def PartOrReset (s t : State) : Prop :=
  PartWork s t ∨ (∃ straps wprot, t = resetPart straps wprot s) ∨ t = holdReset s ∨
    s.resetN = true ∧ ∃ straps, t = endReset straps s

theorem writeData_partWork (tag : Byte) (data : Block) (s : State) :
    ∃ t, exec (.writeData tag data) s = .next t ∧ PartWork s t := by
  refine ⟨_, rfl, ?_⟩
  cases s.phase with
  | none => exact PartWork.refl s
  | some p =>
    dsimp only
    cases p.unanswered with
    | nil => exact PartWork.refl s
    | cons u l =>
      dsimp only
      split
      · exact ((acceptBlock_partWork s p u _).trans (testPhaseEnd_partWork _)).settle
      · exact PartWork.refl s

theorem releaseAcceptance_partWork (s : State) : ∃ t, exec .releaseAcceptance s = .next t ∧ PartWork s t := by
  refine ⟨_, rfl, ?_⟩
  cases s.headRequest with
  | none => exact PartWork.refl s
  | some p =>
    dsimp only
    split
    · refine PartWork.settle ?_
      repeat' split
      · exact (refuseTurns_work s).partWork
      · exact (acceptRelease_mapWork _ _ s).partWork
      · exact (modTag_work _ _ _).partWork
    · exact PartWork.refl s

theorem resetDevice_partOrReset (w : MaintWrite) (straps : Straps) (s : State) :
    ∃ t, exec (.resetDevice w straps) s = .next t ∧ PartOrReset s t := by
  refine ⟨_, rfl, ?_⟩
  unfold takeLen take
  repeat' split
  · exact .inl (PartWork.refl s)
  · dsimp only
    split
    · exact .inr (.inr (.inl rfl))
    · exact .inr (.inl ⟨_, _, rfl⟩)
  · exact .inl (respond_work _ _ _).partWork

/-- Every command is work of the part, or a reset. -/
theorem exec_partWork (c : Instr) (s : State) : ∃ t, exec c s = .next t ∧ PartOrReset s t := by
  have k : ∀ {c}, (∃ t, exec c s = .next t ∧ PartWork s t) → ∃ t, exec c s = .next t ∧ PartOrReset s t :=
    fun ⟨t, h, i⟩ => ⟨t, h, .inl i⟩
  have answer : ∀ {st p} (s : State), PartWork s (respond st p s) := fun s => (respond_work _ _ s).partWork
  have stay := PartWork.refl s
  cases c
  case powerOn => exact ⟨_, rfl, .inr (.inl ⟨_, _, rfl⟩)⟩
  case resetN => exact ⟨_, rfl, .inr (.inr (.inl rfl))⟩
  case resetDevice => exact resetDevice_partOrReset _ _ s
  case resetNDeasserted =>
    refine ⟨_, rfl, ?_⟩
    split
    · exact .inr (.inr (.inr ⟨‹_›, _, rfl⟩))
    · exact .inl stay
  all_goals refine k ?_
  case writeData => exact writeData_partWork _ _ s
  case releaseAcceptance => exact releaseAcceptance_partWork s
  all_goals refine ⟨_, rfl, ?_⟩
  case wprotAsserted => exact Work.settle (Work.aside rfl)
  case wprotDeasserted => exact Work.settle (Work.aside rfl)
  case frontLinkReset => exact (dropRequests_partWork s).settle
  case read => exact arrive_partWork _ _ _ _ (fun s => acceptRead_work _ _ _ s) s
  case write => exact arrive_partWork _ _ _ _ (fun s => joinIntake_work _ s) s
  case release => exact arrive_partWork _ _ _ _ (fun s => joinIntake_work _ s) s
  case flush => exact arrive_partWork _ _ _ _ (fun s => joinIntake_work _ s) s
  case unknownMessage => exact stay
  case dataPhaseStart =>
    repeat' split
    · exact (refuseTurns_work s).settle
    · exact (startPhase_partWork _ _ s).settle
    all_goals exact stay
  case dataPull =>
    split
    · exact (testGate_partWork s).settle
    · exact stay
  case flushAcceptance =>
    repeat' split
    · exact (acceptFlush_work _ s).settle
    all_goals exact stay
  case frameGrant => exact (offerFrame_partWork s).settle
  case readDataDelivery => exact (deliver_work _ s).settle
  case arbiterRun => exact (runArbiter_work _ s).settle
  case segmentWriteResult =>
    split
    · exact (takeWrite_partWork _ _ _ s).settle
    · exact stay
  case segmentReadResult =>
    split
    · exact (takeRead_partWork _ _ _ s).settle
    · exact stay
  case stampScanResult =>
    split
    · exact (takeScan_partWork _ _ _ s).settle
    · exact stay
  case checkpointStart => exact (startCheckpoint_partWork s).settle
  case reclaimTriggerTest => exact (testTriggers_work s).settle
  case reclaimCommit => exact (commitHead_partWork s).settle
  case portDown =>
    split
    · exact (enterDown_work _ s).settle
    · exact stay
  case portUp =>
    split
    · exact stay
    · exact ((modPort_work _ _ _).trans (modJob_work _ _)).settle
  case responseTimerExpiry =>
    repeat' split
    · exact (endNotReady_partWork _ _ s).settle
    all_goals exact stay
  case idleTimerExpiry =>
    split
    · exact (closeOpen_work _ s).settle
    · exact stay
  case releaseTimerExpiry =>
    split
    · exact (giveUpLane_work _ s).settle
    · exact stay
  case holdTimerExpiry =>
    repeat' split
    · exact (expireHold_partWork s).settle
    all_goals exact stay
  case portWaitExpiry =>
    split
    · exact (expireWait_work _ s).settle
    · exact stay
  case idleClockExpiry => exact (expireIdleClock_work s).partWork
  case unknownCommand => exact take_partWork _ _ s (fun s => answer s)
  case malformed => exact take_partWork _ _ s (fun s => answer s)
  case portBusyNack => exact stay
  case identify => exact takeLen_partWork _ _ _ s (fun s => answer s)
  all_goals refine takeLen_partWork _ _ _ s (fun s => ?_)
  case getSetting => split <;> exact answer s
  case setSetting =>
    split
    · exact answer s
    · exact (writeSetting_work _ _ s).partWork
  case apply =>
    split
    · exact answer s
    · exact (applySettings_partWork s).settle
  case format =>
    split
    · exact answer s
    · exact (formatPart_partWork s).settle
  case checkpoint =>
    split
    · exact (runCheckpoint_work s).partWork
    · exact answer s
  case closeLanes =>
    split
    · exact ((Work.forAny closeLane_work _ s).trans (respond_work _ _ _)).settle
    · exact answer s
  case readException =>
    split
    · exact Work.partWork (Work.aside (s := s) rfl)
    · exact answer s
  case bandCensus => split <;> exact answer s
  all_goals
    dsimp only
    repeat' split
    all_goals exact answer s

end Sys2Proof.Machine
end

section
/-! The pull window (O5), the extent map's operations block by block (O52, O53), and the pressures (O55). -/

namespace Sys2Proof.Machine

theorem pullsOk_resetPart (straps : Straps) (wprot : Bool) (s : State) : PullsOk (resetPart straps wprot s) := by
  simp [PullsOk, resetPart, State.afterReset]

/-- Every command keeps the pull window and the earmarks sound, a reset leaving no data phase (R163). -/
theorem exec_pullsOk {c : Instr} {s t : State} (h : exec c s = .next t) (hs : PullsOk s) : PullsOk t := by
  obtain ⟨u, hu, hk⟩ := exec_kept c s
  obtain rfl : u = t := by
    rw [hu] at h
    exact Host.Outcome.next.inj h
  rcases hk with ⟨b, hk⟩ | ⟨straps, wprot, rfl⟩ | rfl | ⟨straps, rfl⟩
  · exact hk.pulls hs
  · exact pullsOk_resetPart straps wprot s
  · exact pullsOk_resetPart s.straps s.wprot s
  · exact hs

/-- Settles O5: `exec_kept` gives the pulls of every command that is no reset, and a tick touches the clock alone. -/
theorem pullWindowAlways : Obligations.PullWindowAlways := by
  intro s t hs hstep
  unfold step at hstep
  split at hstep
  · rename_i c rest _
    exact exec_pullsOk (s := { s with pending := rest }) hstep hs
  · cases hstep
    exact hs

/-! ## Place, Release and Make lost (R24 to R31) -/

theorem place_of_free {s : State} (h : TableOk s.extents) (hf : 2 ≤ s.freeRecords) (lba : Nat) (loc : Loc) :
    (place lba loc s).1 = true ∧ TableOk (place lba loc s).2.extents ∧
    ∀ x, lookup (place lba loc s).2.extents x = if x = lba then .media (loc.further 0) else lookup s.extents x := by
  obtain ⟨u, hu⟩ := exists_remap h s.geom hf lba (.media loc)
  simp only [place, hu, commitTable_extents]
  exact ⟨trivial, remap_ok h hu, lookup_remap h hu⟩

theorem makeLost_extents (l : List (Nat × Loc)) (s : State) :
    (makeLost l s).2.extents = (makeLostTable s.geom (2 * s.earmarks) l s.extents).1 := by
  rw [makeLost, (Work.foldl reportConverted_work _ _).extents, commitTable_extents]

/-- Release with a record free, or none to split, unmaps its range and counts what it unmapped (R28). -/
theorem releaseRange_of_free {s : State} (h : TableOk s.extents) (hf : 1 ≤ s.freeRecords) (lba count : Nat) :
    TableOk (releaseRange lba count s).2.extents ∧
    (releaseRange lba count s).1 =
      some ((List.range count).countP (fun i => decide (lookup s.extents (lba + i) ≠ .unmapped))) ∧
    ∀ x, lookup (releaseRange lba count s).2.extents x =
      if lba ≤ x ∧ x < lba + count then .unmapped else lookup s.extents x := by
  have hr : releaseRange lba count s =
      (some (mappedIn s.extents lba count), commitTable (cutTable s.extents lba (lba + count)) s) := by
    unfold releaseRange
    dsimp only
    split
    · rw [if_neg (by omega)]
    · rfl
  rw [hr]
  simp only [commitTable_extents]
  exact ⟨cutTable_ok h (by omega), by rw [mappedIn_eq h], lookup_cutTable h (by omega)⟩

/-- A Release that must split a record with none free makes that record LOST (R39). -/
theorem releaseRange_exhausted {s : State} (h : TableOk s.extents) {lba count : Nat} {e : Extent} (he : e ∈ s.extents)
    (h1 : e.start < lba) (hc : 1 ≤ count) (h2 : lba + count < e.stop) (hf : s.freeRecords = 0) :
    (releaseRange lba count s).1 = none ∧ TableOk (releaseRange lba count s).2.extents ∧
    ∀ x, lookup (releaseRange lba count s).2.extents x =
      if e.start ≤ x ∧ x < e.stop then .lost else lookup s.extents x := by
  have hsplit : splitBy s.extents lba count = some e := by
    cases hs : splitBy s.extents lba count with
    | none =>
      have := List.find?_eq_none.1 hs e he
      simp [h1, h2] at this
    | some f =>
      have hfs := List.find?_some hs
      simp only [Bool.and_eq_true, decide_eq_true_eq] at hfs
      rw [h.unique (x := lba) (splitBy_mem hs) he (Extent.covers_iff.2 (by omega)) (Extent.covers_iff.2 (by omega))]
  simp only [releaseRange, hsplit, hf, if_pos, (reportConverted_work _ _).extents, commitTable_extents]
  refine ⟨trivial, convertLost_ok h he, fun x => ?_⟩
  rw [lookup_convertLost h he]
  simp only [Extent.covers_iff]

/-- A Sweep's target in the words of R23. -/
theorem holds_iff (a : Actuator) (k : Nat) (band : Bool) (l : Loc) :
    (if band then SweepTarget.band a k else .cacheSeg a k).holds l = true ↔
      l.segment.act = a ∧
        if band then l.segment.region = .band ∧ l.segment.band = k else l.segment.region = .cache ∧ l.segment.seg = k := by
  cases band <;> simp [SweepTarget.holds, and_assoc]

/-- Settles O52: each operation's table is one of the tables whose lookups stand above. -/
theorem extentMapRefinesLookup : Obligations.ExtentMapRefinesLookup := by
  intro s h
  refine ⟨?_, ?_, ?_, ?_, ?_⟩
  · intro lba loc hslot hf
    obtain ⟨h1, h2, h3⟩ := place_of_free h hf lba loc
    exact ⟨h1, h2, by rw [h3, if_pos rfl, Loc.further_zero hslot], fun x hx => by rw [h3, if_neg hx]⟩
  · exact fun lba count hf => releaseRange_of_free h hf lba count
  · exact fun lba count e he h1 hc h2 hf => releaseRange_exhausted h he h1 hc h2 hf
  · intro blocks hf
    rw [makeLost_extents]
    exact ⟨makeLostTable_ok _ _ _ h, fun x => makeLostTable_spec _ _ _ h hf x⟩
  · intro a k pos limit band
    have hin : ∀ l : Loc, _ := fun l => holds_iff a k band l
    generalize (if band then SweepTarget.band a k else .cacheSeg a k) = target at *
    have hoff : ∀ l : Loc, l.segment.seg * 16 + l.slot = l.offset := fun _ => rfl
    simp only [hoff, sweep_eq]
    have hsorted := sweepAll_sorted s.extents target pos
    have hmem := mem_sweepAll h target pos
    refine ⟨List.length_take_le _ _, fun hm => ?_, ?_, fun x l hx => ?_, fun x l hl hi => ?_⟩
    · have := of_decide_eq_true hm
      rw [List.length_take]
      omega
    · exact hsorted.sublist (List.take_sublist _ _)
    · obtain ⟨h1, h2, h3⟩ := (hmem x l).1 (List.mem_of_mem_take hx)
      have := (hin l).1 h2
      exact ⟨h1, this.1, h3, this.2⟩
    · have hx := (hmem x l).2 ⟨hl, (hin l).2 ⟨hi.1, hi.2.2⟩, hi.2.1⟩
      by_cases hn : (x, l) ∈ (sweepAll s.extents target pos).take limit
      · exact .inl hn
      · have hle := take_le_of_sorted (key := fun z : Nat × Loc => z.2.offset) hsorted hx hn
        refine .inr ⟨?_, hle⟩
        by_contra hlt
        have := of_decide_eq_false (by simpa using hlt : decide (limit < (sweepAll s.extents target pos).length) = false)
        rw [List.take_of_length_le (by omega)] at hn
        exact hn hx

/-- Settles O53: a block at its source is placed, and any other state of the block is DEAD. -/
theorem conditionalMoveMovesOnlyCurrent : Obligations.ConditionalMoveMovesOnlyCurrent := by
  intro lba src dst s
  refine ⟨fun hl => ?_, fun hl => by rw [conditionalMove, if_neg hl]⟩
  have hp : conditionalMove lba src dst s =
      (if (place lba dst s).1 then .committed else .exhausted, (place lba dst s).2) := by
    rw [conditionalMove, if_pos hl]
    rcases place lba dst s with ⟨_ | _, u⟩ <;> rfl
  rw [hp]
  refine ⟨rfl, fun hf ht hslot => ?_⟩
  obtain ⟨h1, -, h3⟩ := place_of_free ht hf lba dst
  exact ⟨by rw [h1]; rfl, by rw [h3, if_pos rfl, Loc.further_zero hslot]⟩

/-! ## Pressures (R40, R96, R97) -/

theorem evalMapPressure_of_low {s : State} (hs : s.service ≠ .recovering) (hf : s.freeRecords < 8192) :
    evalMapPressure s = if s.mapPressure then s else { s with
      mapPressure := true, exceptions := postTo s.exceptions .mapPressure .A (s.seq.getD 0) s.freeRecords 0 } := by
  rw [evalMapPressure, if_neg hs, if_pos (show s.freeRecords < Config.pressureThreshold from hf)]
  rfl

theorem evalMapPressure_of_high {s : State} (hs : s.service ≠ .recovering) (hf : 8192 ≤ s.freeRecords) :
    evalMapPressure s = if s.mapPressure then { s with mapPressure := false, rc := { s.rc with noVictimMap := false } } else s := by
  rw [evalMapPressure, if_neg hs, if_neg (not_lt.2 hf : ¬ s.freeRecords < Config.pressureThreshold)]

theorem evalBandPressure_of_low {a : Actuator} {s : State} (hb : s.blankCount a ≤ s.work.blankLow) :
    evalBandPressure a s = if (s.credit.get a).pressure then s else
      { s with credit := s.credit.modify a (fun _ => ⟨true, s.cap / 4⟩) } := by
  rw [evalBandPressure, if_pos hb]

theorem evalBandPressure_of_high {a : Actuator} {s : State} (hb : s.work.blankLow < s.blankCount a) :
    evalBandPressure a s = if (s.credit.get a).pressure then
      { s with credit := s.credit.modify a (fun c => { c with pressure := false })
               rc := { s.rc with noVictim := s.rc.noVictim.modify a (fun _ => false) } } else s := by
  rw [evalBandPressure, if_neg (not_le.2 hb)]

/-- Settles O55: each test is one record update, chosen by the count and by the pressure that stands. -/
theorem pressuresFollowTheirCounts : Obligations.PressuresFollowTheirCounts := by
  intro s a
  refine ⟨fun hs => ⟨?_, fun hf hp => ?_, fun hf hp => ?_, fun hf hp => ?_⟩, fun hs => ?_, ?_, fun hb hp => ?_, fun hp => ?_,
    fun hb hp => ?_, ?_, fun n => ?_, ?_⟩
  · rcases lt_or_ge s.freeRecords 8192 with hf | hf
    · rw [evalMapPressure_of_low hs hf]
      split <;> simp [*]
    · rw [evalMapPressure_of_high hs hf]
      split <;> simp_all
  · rw [evalMapPressure_of_low hs hf, hp]
    rfl
  · rw [evalMapPressure_of_low hs hf, if_pos hp]
  · rw [evalMapPressure_of_high hs hf, if_pos hp]
  · rw [evalMapPressure, if_pos hs]
  · rcases le_or_gt (s.blankCount a) s.work.blankLow with hb | hb
    · rw [evalBandPressure_of_low hb]
      split <;> simp [*]
    · rw [evalBandPressure_of_high hb]
      split <;> simp_all
  · rw [evalBandPressure_of_low hb, hp]
    simp
  · rcases le_or_gt (s.blankCount a) s.work.blankLow with hb | hb
    · rw [evalBandPressure_of_low hb, if_pos hp]
    · rw [evalBandPressure_of_high hb, if_pos hp]
      simp
  · rw [evalBandPressure_of_high hb, if_pos hp]
    simp
  · rcases le_or_gt (s.blankCount a) s.work.blankLow with hb | hb
    · rw [evalBandPressure_of_low hb]
      split <;> simp
    · rw [evalBandPressure_of_high hb]
      split <;> simp
  · unfold returnCredit
    split <;> simp [Config.maxCredit]
  · unfold chargeCredit
    split <;> simp

end Sys2Proof.Machine
end

section
/-! The band counters follow the extent table (O54). -/

namespace Sys2Proof.Machine

/-- A part just reset has no band to count for (R163). -/
theorem countsOk_resetPart (straps : Straps) (wprot : Bool) (s : State) : CountsOk (resetPart straps wprot s) := by
  intro a b hb
  cases a <;> simp [resetPart, State.afterReset, Two.both, Two.get, BandMgr.discarded] at hb

theorem exec_countsOk {c : Instr} {s t : State} (h : exec c s = .next t) (hs : BandsOk s) : CountsOk t := by
  obtain ⟨u, hu, hk⟩ := exec_partWork c s
  obtain rfl : u = t := by
    rw [hu] at h
    exact Host.Outcome.next.inj h
  rcases hk with hk | ⟨straps, wprot, rfl⟩ | rfl | ⟨-, straps, rfl⟩
  · exact (hk.bandsOk hs).counts
  · exact countsOk_resetPart straps wprot s
  · exact countsOk_resetPart s.straps s.wprot s
  · exact hs.counts

theorem Work.countsOk {s t : State} (h : Work s t) (hc : CountsOk s) : CountsOk t := by
  induction h with
  | refl => exact hc
  | tail _ h ih => exact h.countsOk ih

/-- A commit brings the counts along with the table (R19, R33). -/
theorem commitTable_countsOk {t : List Extent} {s : State} (hs : s.service ≠ .recovering) (h : TableOk s.extents)
    (ht : TableOk t) (hc : CountsOk s) : CountsOk (commitTable t s) := by
  rw [commitTable_eq, if_neg hs]
  exact ((Work.foldl testEmptied_work _ _).trans (evalMapPressure_work _)).countsOk (retable_countsOk hs h ht hc)

/-- Settles O54: every command is work of the part, whose steps keep the counts, or a reset, which leaves no band. -/
theorem bandCountsFollowTable : Obligations.BandCountsFollowTable := by
  refine ⟨fun s t hoff hsv ht hc hstep => ?_, fun s t hsv h ht hc => ⟨commitTable_countsOk hsv h ht hc, commitTable_extents t s⟩⟩
  unfold step at hstep
  split at hstep
  · rename_i c rest _
    exact exec_countsOk (s := { s with pending := rest }) hstep ⟨hoff, hsv, ht, hc⟩
  · cases hstep
    exact hc

end Sys2Proof.Machine
end

section
/-! The extent table stays in order and within its capacity, and a part held in reset stays at rest (O9). -/

namespace Sys2Proof.Machine

/-! ## A part held in reset (R163) -/

/-- What `HeldOk` speaks of. -/
def State.atRest (s : State) :=
  ((s.resetN, s.recov, s.extents, s.service, s.phase, s.intake, s.tags, s.lanes),
   (s.pool, s.rs.reads, s.rs.entries, s.rc.job, s.rc.sources, s.rc.commitQ, s.ck, s.ports.a.op, s.ports.b.op))

/-- RESET_N is asserted, and nothing is at work. -/
def Held (s : State) : Prop := s.atRest =
  ((true, Recovery.held, [], .recovering, none, [], List.replicate 64 none, List.replicate 8 Lane.fresh),
   (Pool.fresh, [], [], none, [], [], Ckpt.fresh, none, none))

theorem heldOk_iff (s : State) : HeldOk s ↔ (s.resetN = true → Held s) := by
  unfold HeldOk State.idle Held State.atRest
  simp only [Prod.mk.injEq]
  constructor
  · intro h hr
    obtain ⟨h1, h2, h3, h4, h5, h6, h7, h8, h9, h10, h11, h12, h13, h14, h15⟩ := h hr
    exact ⟨⟨hr, h1, h2, h3, h4, h5, h6, h7⟩, h8, h9, h10, h11, h12, h13, h14, h15 .A, h15 .B⟩
  · intro h hr
    obtain ⟨⟨-, h1, h2, h3, h4, h5, h6, h7⟩, h8, h9, h10, h11, h12, h13, h14, h15, h16⟩ := h hr
    exact ⟨h1, h2, h3, h4, h5, h6, h7, h8, h9, h10, h11, h12, h13, h14, fun a => by cases a <;> assumption⟩

theorem Held.of_eq {s t : State} (h : Held s) (he : t.atRest = s.atRest) : Held t := he.trans h

theorem held_holdReset (s : State) : Held (holdReset s) := rfl

section
variable {s : State} (h : Held s)
include h

theorem Held.fields : s.resetN = true ∧ s.recov = Recovery.held ∧ s.service = .recovering ∧ s.phase = none ∧ s.intake = [] ∧
    s.pool = Pool.fresh ∧ s.ck = Ckpt.fresh := by
  simp only [Held, State.atRest, Prod.mk.injEq] at h
  simp [h]

theorem Held.engines : s.rs.reads = [] ∧ s.rs.entries = [] ∧ s.rc.job = none ∧ s.rc.sources = [] ∧ s.rc.commitQ = [] := by
  simp only [Held, State.atRest, Prod.mk.injEq] at h
  simp [h]

theorem Held.lane (n : Nat) : s.lane n = Lane.fresh := by
  simp only [Held, State.atRest, Prod.mk.injEq] at h
  simp only [State.lane, h, List.getD_eq_getElem?_getD, List.getElem?_replicate]
  split <;> rfl

theorem Held.op (a : Actuator) : (s.port a).op = none := by
  simp only [Held, State.atRest, Prod.mk.injEq] at h
  cases a <;> simp [State.port, Two.get, h]

theorem Held.stuckLanes : s.stuckLanes = [] := by
  simp [State.stuckLanes, h.lane, Lane.fresh]

theorem Held.settle : Held (settle s) := by
  obtain ⟨hr, -⟩ := h.fields
  obtain ⟨hreads, -, hjob, -⟩ := h.engines
  have hround : settleRound s = refreshWaits s := by
    have hi : informLanes s = s := by simp [informLanes, State.forAny, State.anyOrder, h.stuckLanes]
    have hp : pump s = s := by simp [pump, hjob]
    simp [settleRound, gateEdge, hr, hi, hp]
  have hrest : Held (refreshWaits s) := h.of_eq (by simp [State.atRest, refreshWaits, hreads])
  simp [Machine.settle, hround, hrest.fields.1, hrest]

theorem Held.headRequest : s.headRequest = none := by
  simp [State.headRequest, h.fields]

theorem Held.opFor (a : Actuator) (k : BitVec 16) : s.opFor a k = none := by
  simp [State.opFor, h.op]

theorem Held.readRec (tag : Nat) : s.readRec tag = none := by
  simp [State.readRec, h.engines]

/-- A request that arrives is refused (R178). -/
theorem Held.arrive (tag : Nat) (r : Arrival) (x : Stand) (f : State → State) : Held (arrive tag r x f s) := by
  have hs : (restartIdleClock s).service ≠ .ready := by simp [restartIdleClock, h.fields]
  obtain ⟨o, ho⟩ : ∃ o, (restartIdleClock s).refusal tag r = some o := by
    unfold State.refusal
    split
    · exact ⟨_, rfl⟩
    · exact ⟨.notReady, rfl⟩
  simp only [Machine.arrive, ho]
  exact h.of_eq rfl

theorem Held.takeLen {w : MaintWrite} {n : Nat} {f : State → State} (hf : Held (f s)) : Held (takeLen w n f s) := by
  unfold Machine.takeLen take
  repeat' split
  · exact h
  · exact hf
  · exact h.of_eq rfl

theorem Held.dropRequests : Held (dropRequests s) := by
  have hp : dropPhase s = s := by simp [dropPhase, h.fields]
  refine h.of_eq ?_
  obtain ⟨-, -, -, -, hin, hpool, hck⟩ := h.fields
  have htags : s.tags = List.replicate 64 none := by
    simp only [Held, State.atRest, Prod.mk.injEq] at h
    simp [h]
  simp [Machine.dropRequests, hp, h.engines, State.atRest, State.modCk, hin, hpool, hck, htags, Pool.fresh, Ckpt.fresh, clearTags, Frame.free]

/-- No requester waits for a port (R109). -/
theorem Held.requests (a : Actuator) : s.ckRequest a = none ∧ ∀ r ∈ s.requests a, r = none := by
  obtain ⟨-, hrec, hsv, -, -, -, hck⟩ := h.fields
  obtain ⟨-, -, -, hsrc, -⟩ := h.engines
  have hread : s.readRequest a = none := by
    cases a <;> simp [State.readRequest, hsv, State.scanRequest, State.task, hrec, Recovery.held, Recovery.off, Two.get]
  have hlane : ∀ n, s.laneRequest a n = none := fun n => by
    cases a <;> simp [State.laneRequest, h.lane, Lane.fresh, Two.get]
  have hrc : s.reclaimRequest a = none := by
    unfold State.reclaimRequest
    repeat' split
    all_goals simp_all
  refine ⟨?_, ?_⟩
  · cases a <;> simp [State.ckRequest, hck, Ckpt.fresh]
  · simp [State.requests, hread, hlane, hrc]
    tauto

theorem Held.runArbiter (a : Actuator) : Held (runArbiter a s) := by
  obtain ⟨hck, hreq⟩ := h.requests a
  have hf : ∀ p, firstCandidate (s.requests a) p = none := fun p => by
    unfold firstCandidate
    refine List.findSome?_eq_none_iff.2 (fun k hk => ?_)
    have hn : (s.requests a).getD k none = none := by
      have hk := List.mem_range.1 hk
      rw [List.getD_eq_getElem _ _ hk]
      exact hreq _ (List.getElem_mem hk)
    rw [hn]
  unfold Machine.runArbiter
  split
  · exact h
  · simp only [hck, hf]
    exact h.of_eq (by cases a <;> rfl)

theorem Held.offerFrame : Held (offerFrame s) := by
  obtain ⟨-, -, -, -, -, hpool, -⟩ := h.fields
  have hn : s.nextGrant = none := by
    simp [State.nextGrant, hpool, Pool.fresh, Pool.queue]
  have hr : recycleStalled s = s := by
    simp [recycleStalled, hpool, Pool.fresh]
  simp only [Machine.offerFrame, hn, hr]
  split <;> exact h

theorem Held.losePort (a : Actuator) (n : Nat) : losePort a s n = s := by
  have hno : s.openOn n a = false ∧ s.bandOn n a = false := by
    simp [State.openOn, State.bandOn, h.lane, Lane.fresh]
  simp [Machine.losePort, hno, h.engines]

theorem Held.modPort (a : Actuator) (f : Port → Port) (hf : ∀ p, p.op = none → (f p).op = none) : Held (s.modPort a f) := by
  refine h.of_eq ?_
  have hop := h.op a
  have hfop := hf _ hop
  cases a <;> simp_all [State.atRest, State.modPort, Two.modify, State.port, Two.get]

theorem Held.modJob (f : Job → Job) : Held (s.modJob f) :=
  h.of_eq (by simp [State.atRest, State.modJob, h.engines])

theorem Held.forAny {α : Type} {f : State → α → State} (hf : ∀ u x, Held u → Held (f u x)) (l : List α) :
    Held (s.forAny l f) := by
  have hl : ∀ (l : List α) (u : State), Held u → Held (l.foldl f u) := by
    intro l
    induction l with
    | nil => exact fun u hu => hu
    | cons x l ih => exact fun u hu => ih _ (hf u x hu)
  have ho : (s.anyOrder l).2.atRest = s.atRest := by
    unfold State.anyOrder
    split <;> rfl
  exact hl _ _ (h.of_eq ho)

theorem Held.enterDown (a : Actuator) : Held (enterDown a s) := by
  have hp : Held (post .portDown a (s.queuedFor a) 0 s) := h.of_eq rfl
  have hm := hp.modPort a (fun p => { p with up := false }) (fun _ => id)
  exact (hm.forAny (fun u n hu => by rw [hu.losePort]; exact hu) _).modJob _

end

/-- Every command that does not end the reset leaves a held part at rest (R163). -/
theorem exec_held (c : Instr) {s : State} (h : Held s) : ∃ t, exec c s = .next t ∧ (t.resetN = true → Held t) := by
  obtain ⟨hr, -, hsv, hphase, -, -, hck⟩ := h.fields
  obtain ⟨-, -, hjob, -, hcq⟩ := h.engines
  have hnr : s.service ≠ .ready := by simp [hsv]
  have k : ∀ {t}, Held t → (t.resetN = true → Held t) := fun i _ => i
  have answer : ∀ {st p}, Held (respond st p s) := h.of_eq rfl
  cases c
  case powerOn => exact ⟨_, rfl, fun hr => by cases hr⟩
  case resetN => exact ⟨_, rfl, k (held_holdReset s)⟩
  case resetNDeasserted => exact ⟨_, rfl, by simp [hr, endReset]⟩
  case resetDevice => exact ⟨_, rfl, k (h.takeLen (by simp [hr, held_holdReset]))⟩
  all_goals refine ⟨_, rfl, k ?_⟩
  case wprotAsserted => exact Held.settle (h.of_eq rfl)
  case wprotDeasserted => exact Held.settle (h.of_eq rfl)
  case frontLinkReset => exact h.dropRequests.settle
  case read => exact h.arrive _ _ _ _
  case write => exact h.arrive _ _ _ _
  case release => exact h.arrive _ _ _ _
  case flush => exact h.arrive _ _ _ _
  case unknownMessage => exact h
  case writeData => simpa only [hphase] using h
  case dataPhaseStart => simpa only [h.headRequest] using h
  case dataPull => simpa only [hphase] using h
  case releaseAcceptance => simpa only [h.headRequest] using h
  case flushAcceptance => simpa only [h.headRequest] using h
  case frameGrant => exact h.offerFrame.settle
  case readDataDelivery tag =>
    have hd : deliver tag.toNat s = s := by simp [deliver, h.readRec]
    rw [hd]
    exact h.settle
  case arbiterRun => exact (h.runArbiter _).settle
  case segmentWriteResult => simpa only [h.opFor] using h
  case segmentReadResult => simpa only [h.opFor] using h
  case stampScanResult => simpa only [h.opFor] using h
  case checkpointStart =>
    have hc : startCheckpoint s = s := by simp [startCheckpoint, hck, Ckpt.fresh]
    rw [hc]
    exact h.settle
  case reclaimTriggerTest =>
    have ht : testTriggers s = s := by simp [testTriggers, hsv]
    rw [ht]
    exact h.settle
  case reclaimCommit =>
    have hc : commitHead s = s := by simp [commitHead, hcq]
    rw [hc]
    exact h.settle
  case portDown =>
    split
    · exact (h.enterDown _).settle
    · exact h
  case portUp a =>
    split
    · exact h
    · have hm := h.modPort a (fun p =>
        { p with up := true, op := p.op.map (fun o => { o with beforeUp := true }) }) (fun p hp => by simp [hp])
      exact Held.settle (hm.modJob (fun j => if j.act = a then { j with pausePort := false } else j))
  case responseTimerExpiry => simpa only [h.op] using h
  case idleTimerExpiry =>
    rw [if_neg (by simp [h.lane, Lane.fresh, State.ranFor])]
    exact h
  case releaseTimerExpiry =>
    rw [if_neg (by simp [h.lane, Lane.fresh])]
    exact h
  case holdTimerExpiry => simpa only [hphase] using h
  case portWaitExpiry => simpa [State.waitRanOut, h.readRec] using h
  case idleClockExpiry =>
    unfold expireIdleClock
    split
    · exact h.of_eq rfl
    · exact h
  case unknownCommand =>
    unfold take
    split
    · exact h
    · exact answer
  case malformed =>
    unfold take
    split
    · exact h
    · exact answer
  case portBusyNack => exact h
  all_goals refine h.takeLen ?_
  case identify => exact answer
  case getSetting => split <;> exact answer
  case setSetting => simpa only [hsv, if_true] using answer
  case apply => simpa only [hsv, if_true] using answer
  case format =>
    obtain ⟨st, hst⟩ : ∃ st, s.formatRefusal = some st := by
      unfold State.formatRefusal
      split
      · exact ⟨_, rfl⟩
      · exact ⟨.wrongState, if_pos (.inl hsv)⟩
    simpa only [hst] using answer
  case checkpoint => simpa only [if_neg hnr] using answer
  case closeLanes => simpa only [if_neg hnr] using answer
  case readException =>
    split
    · exact h.of_eq rfl
    · exact answer
  case bandCensus => split <;> exact answer
  case laneReport => simpa only [hsv, if_true] using answer
  case bandReport =>
    dsimp only
    repeat' split
    all_goals exact answer

/-! ## The table's order and capacity (R17, R20, R21) -/

theorem MapStep.tableOk {s t : State} (h : MapStep s t) (hs : s.recov = Recovery.off ∧ TableOk s.extents) :
    t.recov = Recovery.off ∧ TableOk t.extents := by
  cases h with
  | touch h =>
    obtain ⟨h1, -, -, -, h5, -⟩ := h.extents
    rwa [h1, h5]
  | table t hok hr =>
    obtain ⟨bm, hb⟩ := retable_fields t s
    rw [hb]
    exact ⟨hs.1, hok hs.2⟩

theorem PartStep.tableOk {s t : State} (h : PartStep s t) (hs : s.recov = Recovery.off ∧ TableOk s.extents) :
    t.recov = Recovery.off ∧ TableOk t.extents := by
  cases h with
  | lane h =>
    cases h with
    | map h => exact h.tableOk hs
    | lanes => exact hs
  | pull => exact hs
  | phase => exact hs
  | commits => exact hs
  | service => exact hs
  | format _ hx hr hb => exact ⟨hr.1, by rw [hx.1]; exact ⟨List.Pairwise.nil, by simp⟩⟩
  | recovery _ h => exact absurd hs.1 h

theorem PartWork.tableOk {s t : State} (h : PartWork s t) (hs : s.recov = Recovery.off ∧ TableOk s.extents) :
    t.recov = Recovery.off ∧ TableOk t.extents := by
  induction h with
  | refl => exact hs
  | tail _ h ih => exact h.tableOk ih

theorem roomOk_resetPart (straps : Straps) (wprot : Bool) (s : State) :
    TableOk (resetPart straps wprot s).extents ∧ RecordsOk (resetPart straps wprot s) :=
  ⟨⟨List.Pairwise.nil, fun _ h => by cases h⟩, Nat.zero_le _⟩

/-- A step of a part outside recovery keeps the table in order and within its capacity, and a reset empties it. -/
theorem exec_table {c : Instr} {s t : State} (h : exec c s = .next t) (hn : s.resetN = false)
    (hoff : s.recov = Recovery.off) (hs : TableOk s.extents) :
    TableOk t.extents ∧ (t.recov = Recovery.off ∨ t.extents = []) ∧ (RecordsOk s → RecordsOk t) := by
  obtain ⟨u, hu, hk⟩ := exec_partWork c s
  obtain rfl : u = t := by
    rw [hu] at h
    exact Host.Outcome.next.inj h
  rcases hk with hk | ⟨straps, wprot, rfl⟩ | rfl | ⟨hr, -⟩
  · have ht := hk.tableOk ⟨hoff, hs⟩
    exact ⟨ht.2, .inl ht.1, fun hr => (hk.roomOk ⟨hoff, hs, hr⟩).room⟩
  · exact ⟨(roomOk_resetPart straps wprot s).1, .inr rfl, fun _ => (roomOk_resetPart straps wprot s).2⟩
  · exact ⟨(roomOk_resetPart s.straps s.wprot s).1, .inr rfl, fun _ => (roomOk_resetPart s.straps s.wprot s).2⟩
  · rw [hn] at hr
    cases hr

/-- A part comes to be held in reset only by the assertion of RESET_N, and stays at rest until its end (R163). -/
theorem exec_heldOk {c : Instr} {s t : State} (h : exec c s = .next t) (hs : HeldOk s) : HeldOk t := by
  rw [heldOk_iff] at *
  by_cases hr : s.resetN = true
  · obtain ⟨u, hu, hk⟩ := exec_held c (hs hr)
    rw [hu] at h
    cases h
    exact hk
  · obtain ⟨u, hu, hk⟩ := exec_kept c s
    rw [hu] at h
    cases h
    rcases hk with ⟨b, hk⟩ | ⟨straps, wprot, rfl⟩ | rfl | ⟨straps, rfl⟩
    · exact fun ht => absurd (hk.resetN.symm.trans ht) hr
    · exact nofun
    · exact fun _ => held_holdReset s
    · exact nofun

/-- Settles O9: the table by the steps of the part, the rest of a held part command by command. -/
theorem extentTableOrderAlways : Obligations.ExtentTableOrderAlways := by
  intro s t hs hstep
  unfold step at hstep
  split at hstep
  · rename_i c rest _
    refine ⟨exec_heldOk hstep hs, fun hoff ht => ?_⟩
    have hn : s.resetN = false := by
      by_contra hr
      have := (hs (by simpa using hr)).1
      rw [hoff] at this
      exact absurd this (by decide)
    obtain ⟨h1, h2, h3⟩ := exec_table (s := { s with pending := rest }) hstep hn hoff ht
    exact ⟨h1, h2, fun hr => ⟨h3 hr, h3 hr⟩⟩
  · cases hstep
    exact ⟨hs, fun hoff ht => ⟨ht, .inl hoff, fun hr => ⟨hr, hr⟩⟩⟩

end Sys2Proof.Machine
end

section
/-! The acceptance of a RELEASE (O26). -/

namespace Sys2Proof.Machine

/-- A release record waits in the batch or in the notice (R151, R152). -/
def State.holdsRecord (s : State) (r : ReleaseRec) : Prop :=
  r ∈ s.ck.batch ∨ ∃ n, s.ck.notice = some n ∧ r ∈ n.records

theorem holdsRecord_congr {s t : State} {r : ReleaseRec} (hb : t.ck.batch = s.ck.batch) (hn : t.ck.notice = s.ck.notice)
    (h : s.holdsRecord r) : t.holdsRecord r := by
  unfold State.holdsRecord
  rwa [hb, hn]

/-- Inner work and what follows a command leave the records where they are. -/
theorem Inner.holdsRecord {s t : State} {r : ReleaseRec} (i : Inner s t) (h : s.holdsRecord r) : t.holdsRecord r := by
  have ho := i.outside
  simp only [State.outside, Outside.mk.injEq] at ho
  exact holdsRecord_congr (by simp [ho]) (by simp [ho]) h

theorem settle_holdsRecord {s : State} {r : ReleaseRec} (h : s.holdsRecord r) : (settle s).holdsRecord r := by
  obtain ⟨g, hg⟩ := settle_gated s
  exact Inner.holdsRecord hg h

/-- The notice's records stay when its frame is granted and bound (R152). -/
theorem modNotice_holdsRecord {s : State} {r : ReleaseRec} (f : Notice → Notice) (hf : ∀ n, (f n).records = n.records)
    (h : s.holdsRecord r) : (s.modCk (fun c => { c with notice := c.notice.map f })).holdsRecord r := by
  rcases h with h | ⟨n, hn, hr⟩
  · exact .inl h
  · exact .inr ⟨f n, by simp [State.modCk, hn], by rw [hf]; exact hr⟩

theorem bindNotice_holdsRecord {s : State} {r : ReleaseRec} (h : s.holdsRecord r) : (bindNotice s).holdsRecord r := by
  unfold bindNotice
  repeat' split
  any_goals exact h
  dsimp only
  have hb : ∀ k g id p m, (bindRing k g id p m s).holdsRecord r := fun k g id p m => holdsRecord_congr rfl rfl h
  have ht : ∀ u : State, u.holdsRecord r → (testRingHalf u).holdsRecord r := by
    intro u hu
    unfold testRingHalf
    split
    · exact (requestCk_inner u).holdsRecord hu
    · exact hu
  exact ht _ (holdsRecord_congr rfl rfl (modNotice_holdsRecord (fun n => { n with bound := true }) (fun _ => rfl) (hb _ _ _ _ _)))

theorem takeBatch_holdsRecord {s : State} {r : ReleaseRec} (h : s.holdsRecord r) : (takeBatch s).holdsRecord r := by
  unfold takeBatch
  split
  · rename_i hc
    have hr : r ∈ s.ck.batch := by
      rcases h with h | ⟨n, hn, -⟩
      · exact h
      · simp [hn] at hc
    dsimp only
    have h1 := (requestFrame_inner .notice _).holdsRecord (r := r)
      (show (s.modCk (fun c => { c with notice := some ⟨c.batch, none, false, 0⟩, batch := [] })).holdsRecord r from
        .inr ⟨_, rfl, hr⟩)
    split <;> (rename_i hq; rw [hq] at h1)
    · exact bindNotice_holdsRecord (modNotice_holdsRecord _ (fun _ => rfl) h1)
    · exact h1
  · exact h

theorem acceptRelease_work (t : Nat) (e : TagEntry) (s : State) :
    Work (assignSeq (releaseRange e.lba e.count s).2).2 (acceptRelease t e s) := by
  unfold acceptRelease
  dsimp only
  refine Work.trans ?_ (refuseTurns_work _)
  refine Work.trans ?_ (popIntake_work _)
  refine Work.trans ?_ (modTag_work _ _ _)
  exact (modCk_work _ _).trans (takeBatch_work _)

theorem acceptRelease_holdsRecord (t : Nat) (e : TagEntry) (s : State) :
    (acceptRelease t e s).holdsRecord ⟨e.lba, e.count, (assignSeq (releaseRange e.lba e.count s).2).1, some t⟩ := by
  unfold acceptRelease
  dsimp only
  refine (refuseTurns_inner _).holdsRecord ?_
  refine (popIntake_inner _).holdsRecord ?_
  refine (modTag_inner _ _ _).holdsRecord ?_
  exact takeBatch_holdsRecord (.inl (by simp [State.modCk]))

/-- Settles O26: `acceptRelease` is `releaseRange` and work beside the map, and what follows a command leaves the table and
the records alone. -/
theorem releaseUnmapsAndJoinsBatch : Obligations.ReleaseUnmapsAndJoinsBatch := by
  intro s tag e hi ht hk hg
  have hhead : s.headRequest = some (tag, e) := by simp [State.headRequest, hi, ht]
  have hexec : exec .releaseAcceptance s = .next (settle (
      if Config.frontReserve ≤ s.freeRecords ∧ s.releaseRoom then acceptRelease tag e s
      else s.modTag tag (fun e => { e with stand := .inTurn }))) := by
    have hn : ¬ s.gate = true := by simp [hg]
    simp only [exec, execReleaseAcceptance, hhead, hk, if_true, if_neg hn]
  have hroom : s.releaseRoom = true ↔ (s.port .A).up = true ∧ 98 ≤ s.ckFree ∧ s.ck.batch.length < 4096 := by
    simp only [State.releaseRoom, Bool.and_eq_true, decide_eq_true_eq, and_assoc]
    rfl
  rw [hexec]
  refine ⟨fun hfree hup hck hbatch htab hun => ?_, fun hno => ?_⟩
  · rw [if_pos ⟨hfree, hroom.2 ⟨hup, hck, hbatch⟩⟩]
    have hmap := acceptRelease_mapWork tag e s
    have hafter := settle_work (hmap.unfaulted hun)
    obtain ⟨-, -, hlook⟩ := releaseRange_of_free htab (by omega) e.lba e.count
    have hext : (settle (acceptRelease tag e s)).extents = (releaseRange e.lba e.count s).2.extents :=
      hafter.extents.trans (acceptRelease_work tag e s).extents
    refine ⟨_, rfl, fun x h1 h2 => ?_, fun x hx => ?_, (releaseRange e.lba e.count s).2.seq.getD 0, ?_, ?_, ?_⟩
    · rw [hext, hlook, if_pos ⟨h1, h2⟩]
    · rw [hext, hlook, if_neg (by omega)]
    · exact (releaseRange_mapWork e.lba e.count s).seq_le
    · exact lt_of_lt_of_le (Nat.lt_succ_self _) (((acceptRelease_work tag e s).trans hafter).mapWork.seq_le)
    · exact settle_holdsRecord (acceptRelease_holdsRecord tag e s)
  · have hnot : ¬ (Config.frontReserve ≤ s.freeRecords ∧ s.releaseRoom = true) := by
      rintro ⟨h66, hr⟩
      have h66 : 66 ≤ s.freeRecords := h66
      obtain ⟨hup, hck, hbatch⟩ := hroom.1 hr
      rcases hno with h | h | h | h
      · omega
      · rw [hup] at h
        cases h
      · omega
      · omega
    have hm : s.modTag tag (fun e => { e with stand := .inTurn }) = { s with
        tags := s.tags.modify tag (Option.map (fun e => { e with stand := .inTurn })) } := rfl
    rw [if_neg hnot, hm]

end Sys2Proof.Machine
end

section
/-! The commit of a lane 7 frame, slot by slot (O43, R37, R142). -/

namespace Sys2Proof.Machine

/-! ## The job through a new table -/

/-- The job of the reclaim engine stands as it was, or has ended. -/
def JobKept (s t : State) : Prop := t.rc.job = s.rc.job ∨ t.rc.job = none

theorem JobKept.trans {s t u : State} (h : JobKept s t) (k : JobKept t u) : JobKept s u := by
  rcases k with k | k
  · rcases h with h | h
    · exact .inl (k.trans h)
    · exact .inr (k.trans h)
  · exact .inr k

theorem JobKept.of_none {s t : State} (h : JobKept s t) (hs : s.rc.job = none) : t.rc.job = none := by
  rcases h with h | h
  · exact h.trans hs
  · exact h

theorem dropAhead_rc (s : State) (l : SegLoc) : (dropAhead s l).rc = s.rc := by
  have hheld : ∀ (f : Option Nat) (u : State), (releaseHeld f u).rc = u.rc := fun f u => by cases f <;> rfl
  unfold dropAhead deleteEntry
  repeat' split
  all_goals first
    | rfl
    | exact hheld _ _

theorem dropAheadWhere_rc (p : ReadEntry → Bool) (s : State) : (dropAheadWhere p s).rc = s.rc := by
  unfold dropAheadWhere
  generalize (s.rs.entries.filter (fun e => e.ahead && p e)).map (fun e => e.loc) = l
  induction l generalizing s with
  | nil => rfl
  | cons x l ih => exact (ih _).trans (dropAhead_rc s x)

theorem evacuate_job (a : Actuator) (b : Nat) (s : State) : JobKept s (evacuate a b s) := by
  have hcredit : ∀ n (u : State), (returnCredit a n u).rc = u.rc := fun n u => by unfold returnCredit; split <;> rfl
  have hrc : ∀ p n f, (dropAheadWhere p (returnCredit a n (s.modBand a b f))).rc = s.rc := fun p n f =>
    (dropAheadWhere_rc _ _).trans (hcredit _ _)
  unfold evacuate
  dsimp only
  split
  · split
    · exact .inr rfl
    · exact .inl (by rw [hrc])
  · exact .inl (by rw [hrc])

theorem testEmptied_job (s : State) (x : Actuator × Nat) : JobKept s (testEmptied s x) := by
  unfold testEmptied
  dsimp only
  split
  · exact evacuate_job _ _ _
  · exact .inl rfl

theorem evalMapPressure_job (s : State) : (evalMapPressure s).rc.job = s.rc.job := by
  unfold evalMapPressure
  repeat' split
  all_goals rfl

/-- A new table ends the job where it empties the victim (R34, R138), and leaves it alone otherwise. -/
theorem commitTable_job (t : List Extent) (s : State) : JobKept s (commitTable t s) := by
  obtain ⟨bm, hb⟩ := retable_fields t s
  have h0 : JobKept s (retable t s) := .inl (by rw [hb])
  have hfold : ∀ (l : List (Actuator × Nat)) (u : State), JobKept u (l.foldl testEmptied u) := by
    intro l
    induction l with
    | nil => exact fun u => .inl rfl
    | cons x l ih => exact fun u => (testEmptied_job u x).trans (ih _)
  rw [commitTable_eq]
  split
  · exact h0
  · exact (h0.trans (hfold _ _)).trans (.inl (evalMapPressure_job _))

theorem MapWork.earmarks {s t : State} (h : MapWork s t) : t.earmarks = s.earmarks := by
  induction h with
  | refl => rfl
  | tail _ h ih => exact h.fields.1.trans ih

/-- The commit queue and the slot it stands at. -/
def State.commits (s : State) : List Nat × Nat := (s.rc.commitQ, s.rc.commitAt)

theorem Touch.commits {s t : State} (h : Touch s t) : t.commits = s.commits := by
  cases h with
  | aside h =>
    simp only [State.watched, Watched.mk.injEq] at h
    simp [State.commits, h]
  | lane => rfl
  | band => rfl
  | parked => rfl
  | ring => rfl
  | seq => rfl

theorem MapStep.commits {s t : State} (h : MapStep s t) : t.commits = s.commits := by
  cases h with
  | touch h => exact h.commits
  | table t =>
    obtain ⟨bm, hb⟩ := retable_fields t s
    rw [hb]
    rfl

theorem MapWork.commits {s t : State} (h : MapWork s t) : t.commits = s.commits := by
  induction h with
  | refl => rfl
  | tail _ h ih => exact h.commits.trans ih

theorem LaneWork.commits {s t : State} (h : LaneWork s t) : t.commits = s.commits := by
  induction h with
  | refl => rfl
  | tail _ h ih =>
    refine Eq.trans ?_ ih
    cases h with
    | map h => exact h.commits
    | lanes => rfl

/-! ## One slot -/

/-- What the map is after a slot's move (R29, R142): a block still at its source lies in the slot. -/
def slotMap (f : Frame) (l : SegLoc) (map : Nat → Mapped) (k : Nat) : Nat → Mapped :=
  match runsLba f.runs k, runsSource f.runs k with
  | some lba, some src => fun x =>
    if x = lba ∧ f.void.getLsbD k = false ∧ map lba = .media src then .media ⟨l, k⟩ else map x
  | _, _ => map

/-- A slot holds the block that an entry moves. -/
def slotFor (f : Frame) (m : Move) (k : Nat) : Bool :=
  decide (runsLba f.runs k = some m.lba ∧ runsSource f.runs k = some m.src)

/-- What an IN LANE entry becomes at its slot (R142). -/
def slotVerdict (f : Frame) (map : Nat → Mapped) (k : Nat) (m : Move) : Move :=
  if slotFor f m k ∧ m.state = .inLane then
    { m with state := if f.void.getLsbD k = false ∧ map m.lba = .media m.src then .committed else .dead }
  else m

theorem conditionalMove_of_free {s : State} (h : TableOk s.extents) (hf : 2 ≤ s.freeRecords) {lba : Nat} {src : Loc} (dst : Loc)
    (hl : lookup s.extents lba = .media src) : ∃ u, remap s.geom s.freeRecords s.extents lba (.media dst) = some u ∧
      conditionalMove lba src dst s = (.committed, commitTable u s) := by
  obtain ⟨u, hu⟩ := exists_remap h s.geom hf lba (.media dst)
  exact ⟨u, hu, by simp [conditionalMove, hl, place, hu]⟩

/-- What one slot of a commit does: to the table, to the records free, to the queue and to the job. -/
structure SlotDone (f : Frame) (l : SegLoc) (k : Nat) (s t : State) : Prop where
  table : TableOk t.extents
  map : lookup t.extents = slotMap f l (lookup s.extents) k
  free : s.freeRecords ≤ t.freeRecords + 2
  commits : t.commits = s.commits
  unfaulted : s.unfaulted → t.unfaulted
  gone : s.rc.job = none → t.rc.job = none
  moves : ∀ j j', s.rc.job = some j → t.rc.job = some j' → j'.moves = j.moves.map (slotVerdict f (lookup s.extents) k)

/-- The entries that a slot is for (R142). -/
theorem resolveMoves_job {st : MoveState} {p : Move → Bool} {s : State} {j : Job} (h : s.rc.job = some j) :
    ∃ j', (resolveMoves st p s).rc.job = some j' ∧
      j'.moves = j.moves.map (fun m => if p m then { m with state := st } else m) := by
  cases st <;> exact ⟨_, by simp only [resolveMoves, State.modJob, h, Option.map_some]; rfl, rfl⟩

theorem resolveMoves_none {st : MoveState} {p : Move → Bool} {s : State} (h : s.rc.job = none) :
    (resolveMoves st p s).rc.job = none := by
  simp [resolveMoves, State.modJob, h]

theorem isFor_slotVerdict {f : Frame} {k lba : Nat} {src : Loc} (h1 : runsLba f.runs k = some lba)
    (h2 : runsSource f.runs k = some src) (map : Nat → Mapped) (m : Move) :
    slotVerdict f map k m = if Move.isFor lba src m then
      { m with state := if f.void.getLsbD k = false ∧ map lba = .media src then .committed else .dead } else m := by
  unfold slotVerdict slotFor Move.isFor
  rw [h1, h2]
  by_cases hm : m.state = .inLane ∧ m.lba = lba ∧ m.src = src
  · obtain ⟨hs, rfl, rfl⟩ := hm
    simp [hs]
  · rw [if_neg (by simp; tauto), if_neg (by simp; tauto)]

theorem commitSlot_done {f : Frame} {l : SegLoc} {k : Nat} {s t : State} (h : commitSlot f l k s = some t)
    (ht : TableOk s.extents) (hk : k < 16) : SlotDone f l k s t := by
  have hw := commitSlot_mapWork h
  have hfree : ∀ {u : State}, u.extents.length ≤ s.extents.length + 2 → u.earmarks = s.earmarks →
      s.freeRecords ≤ u.freeRecords + 2 := by
    intro u h1 h2
    unfold State.freeRecords
    rw [h2]
    omega
  have resolved : ∀ {lba src}, runsLba f.runs k = some lba → runsSource f.runs k = some src →
      ∀ {u : State} {st}, JobKept s u →
      st = (if f.void.getLsbD k = false ∧ lookup s.extents lba = .media src then MoveState.committed else .dead) →
      (s.rc.job = none → (resolveMoves st (Move.isFor lba src) u).rc.job = none) ∧
      ∀ j j', s.rc.job = some j → (resolveMoves st (Move.isFor lba src) u).rc.job = some j' →
        j'.moves = j.moves.map (slotVerdict f (lookup s.extents) k) := by
    intro lba src h1 h2 u st hu hst
    refine ⟨fun hn => resolveMoves_none (hu.of_none hn), fun j j' hj hj' => ?_⟩
    rcases hu with hu | hu
    · obtain ⟨i, hi, him⟩ := resolveMoves_job (st := st) (p := Move.isFor lba src) (hu.trans hj)
      rw [hi, Option.some.injEq] at hj'
      rw [← hj', him]
      refine List.map_congr_left (fun m _ => ?_)
      rw [isFor_slotVerdict h1 h2, hst]
    · rw [resolveMoves_none hu] at hj'
      cases hj'
  unfold commitSlot at h
  split at h
  · rename_i lba src h1 h2
    by_cases hv : f.void.getLsbD k = true
    · rw [if_pos hv, Option.some.injEq] at h
      subst h
      obtain ⟨hgone, hmoves⟩ := resolved h1 h2 (u := s) (st := .dead) (.inl rfl) (by simp [hv])
      exact ⟨ht, by funext x; simp [slotMap, h1, h2, hv, resolveMoves, State.modJob],
        hfree (by simp [resolveMoves, State.modJob]) rfl,
        hw.commits, hw.unfaulted, hgone, hmoves⟩
    · rw [if_neg hv] at h
      split at h
      · cases h
      · rename_i hf
        have hf : 2 ≤ s.freeRecords := not_lt.1 hf
        by_cases hl : lookup s.extents lba = .media src
        · obtain ⟨u, hu, hc⟩ := conditionalMove_of_free ht hf (l.at k) hl
          simp only [hc, if_true, Option.some.injEq] at h
          subst h
          obtain ⟨hgone, hmoves⟩ := resolved h1 h2 (st := .committed) (commitTable_job u s) (by simp [hv, hl])
          have hx : (resolveMoves .committed (Move.isFor lba src) (commitTable u s)).extents = u := by
            rw [(resolveMoves_work _ _ _).extents, commitTable_extents]
          refine ⟨by rw [hx]; exact remap_ok ht hu, ?_, hfree (by rw [hx]; exact (length_remap_le ht hu).2) hw.earmarks,
            hw.commits, hw.unfaulted, hgone, hmoves⟩
          funext x
          rw [hx, lookup_remap ht hu]
          simp [slotMap, h1, h2, hv, hl, ExtKind.block, SegLoc.at, Loc.further_zero (l := ⟨l, k⟩) hk]
        · have hc : conditionalMove lba src (l.at k) s = (.dead, s) := by rw [conditionalMove, if_neg hl]
          simp only [hc, reduceCtorEq, if_false, Option.some.injEq] at h
          subst h
          obtain ⟨hgone, hmoves⟩ := resolved h1 h2 (u := s) (st := .dead) (.inl rfl) (by simp [hl])
          exact ⟨ht, by funext x; simp [slotMap, h1, h2, hl, resolveMoves, State.modJob],
            hfree (by simp [resolveMoves, State.modJob]) rfl,
            hw.commits, hw.unfaulted, hgone, hmoves⟩
  · rename_i hno
    cases h
    have hmap : slotMap f l (lookup s.extents) k = lookup s.extents := by
      unfold slotMap
      split
      · exact absurd ‹_› (hno _ _ ‹_›)
      · rfl
    have hv : ∀ m, slotVerdict f (lookup s.extents) k m = m := fun m => if_neg (fun h => by
      have := of_decide_eq_true h.1
      exact hno _ _ this.1 this.2)
    exact ⟨ht, hmap.symm, Nat.le_add_right _ _, rfl, id, id, fun j j' h1 h2 => by
      rw [h1, Option.some.injEq] at h2
      rw [← h2, List.map_congr_left (fun m _ => hv m), List.map_id']⟩

theorem commitSlot_none {f : Frame} {l : SegLoc} {k : Nat} {s : State} (h : commitSlot f l k s = none) : s.freeRecords < 2 := by
  unfold commitSlot at h
  split at h
  · split at h
    · cases h
    · split at h
      · assumption
      · exact absurd h (by simp)
  · cases h

/-! ## The slots of a frame -/

/-- What the map is after the moves of several slots. -/
def slotsMap (f : Frame) (l : SegLoc) (ks : List Nat) (map : Nat → Mapped) : Nat → Mapped := ks.foldl (slotMap f l) map

/-- What an entry becomes by the commit of several slots, each judged by the map as it then is. -/
def slotsVerdict (f : Frame) (l : SegLoc) : List Nat → (Nat → Mapped) → Move → Move
  | [], _, m => m
  | k :: ks, map, m => slotsVerdict f l ks (slotMap f l map k) (slotVerdict f map k m)

/-- What a commit has done when it has resolved the slots ks. -/
structure SlotsDone (f : Frame) (l : SegLoc) (ks : List Nat) (s t : State) : Prop where
  map : lookup t.extents = slotsMap f l ks (lookup s.extents)
  queue : t.rc.commitQ = s.rc.commitQ
  unfaulted : s.unfaulted → t.unfaulted
  gone : s.rc.job = none → t.rc.job = none
  moves : ∀ j j', s.rc.job = some j → t.rc.job = some j' → j'.moves = j.moves.map (slotsVerdict f l ks (lookup s.extents))

theorem SlotsDone.nil {f : Frame} {l : SegLoc} (s : State) (n : Nat) :
    SlotsDone f l [] s { s with rc := { s.rc with commitAt := n } } :=
  ⟨rfl, rfl, id, id, fun j j' h1 h2 => by
    rw [h1, Option.some.injEq] at h2
    rw [← h2]
    exact (List.map_id' _).symm⟩

theorem SlotsDone.cons {f : Frame} {l : SegLoc} {k n : Nat} {ks : List Nat} {s t u : State} (h : SlotDone f l k s t)
    (hs : SlotsDone f l ks { t with rc := { t.rc with commitAt := n } } u) : SlotsDone f l (k :: ks) s u := by
  refine ⟨?_, hs.queue.trans (congrArg Prod.fst h.commits), fun x => hs.unfaulted (h.unfaulted x),
    fun x => hs.gone (h.gone x), ?_⟩
  · rw [hs.map]
    exact congrArg (slotsMap f l ks) h.map
  · intro j j' hj hj'
    cases ht : t.rc.job with
    | none =>
      rw [hs.gone ht] at hj'
      cases hj'
    | some i =>
      rw [hs.moves i j' ht hj', h.moves j i hj ht, List.map_map]
      refine List.map_congr_left (fun m _ => ?_)
      rw [slotsVerdict, ← h.map]
      rfl

/-- The slots are resolved in order: all of them, or up to the first that finds fewer than 2 records free (R37, R142). With two
records free for each slot left all are. -/
theorem commitSlots_done (f : Frame) (l : SegLoc) (ks : List Nat) (hk : ∀ k ∈ ks, k < 16) (s : State)
    (ht : TableOk s.extents) :
    (∃ u, commitSlots f l ks s = (true, u) ∧ SlotsDone f l ks s u) ∨
    ((∃ done k rest u, ks = done ++ k :: rest ∧ commitSlots f l ks s = (false, u) ∧ SlotsDone f l done s u ∧
      u.rc.commitAt = k ∧ u.freeRecords < 2) ∧ s.freeRecords < 2 * ks.length) := by
  induction ks generalizing s with
  | nil => exact .inl ⟨s, rfl, SlotsDone.nil s s.rc.commitAt⟩
  | cons k ks ih =>
    cases hc : commitSlot f l k s with
    | none =>
      have hfree := commitSlot_none hc
      exact .inr ⟨⟨[], k, ks, _, rfl, by simp only [commitSlots, hc], SlotsDone.nil s k, rfl, hfree⟩, by simp; omega⟩
    | some t =>
      have hd := commitSlot_done hc ht (hk k (by simp))
      have he : commitSlots f l (k :: ks) s = commitSlots f l ks { t with rc := { t.rc with commitAt := k + 1 } } := by
        simp only [commitSlots, hc]
      rw [he]
      rcases ih (fun k h => hk k (by simp [h])) { t with rc := { t.rc with commitAt := k + 1 } } hd.table with
        ⟨u, hu, hs⟩ | ⟨⟨done, i, rest, u, rfl, hu, hs, hi⟩, hlen⟩
      · exact .inl ⟨u, hu, SlotsDone.cons hd hs⟩
      · refine .inr ⟨⟨k :: done, i, rest, u, rfl, hu, SlotsDone.cons hd hs, hi⟩, ?_⟩
        have hlen : t.freeRecords < 2 * (done ++ i :: rest).length := hlen
        have := hd.free
        simp only [List.length_cons] at *
        omega

/-! ## The slots from the one where the commit stands -/

/-- The slots from c on, below n. -/
def slotsFrom (c n : Nat) : List Nat := (List.range n).drop c

theorem slotsFrom_eq (c n : Nat) : slotsFrom c n = List.range' c (n - c) := by
  simp [slotsFrom, List.range_eq_range', List.drop_range']

theorem slotsFrom_split {c k n : Nat} (h1 : c ≤ k) (h2 : k < n) :
    slotsFrom c n = slotsFrom c k ++ k :: slotsFrom (k + 1) n := by
  simp only [slotsFrom_eq]
  rw [show n - c = (k - c) + ((n - (k + 1)) + 1) by omega, ← List.range'_append_1, List.range'_succ,
    show c + (k - c) = k by omega]

/-- Where slots c to k stand before the others, k is where the commit waits. -/
theorem slotsFrom_prefix {c n k : Nat} {done rest : List Nat} (h : slotsFrom c n = done ++ k :: rest) :
    k < n ∧ done = slotsFrom c k := by
  have hk : k ∈ slotsFrom c n := by simp [h]
  rw [slotsFrom_eq, List.mem_range'_1] at hk
  have hkn : c ≤ k ∧ k < n := by omega
  refine ⟨hkn.2, ?_⟩
  have hlen : done.length = k - c := by
    have hat : (slotsFrom c n)[done.length]? = some k := by simp [h]
    have hlt : done.length < n - c := by
      have := congrArg List.length h
      simp only [slotsFrom_eq, List.length_range', List.length_append, List.length_cons] at this
      omega
    rw [slotsFrom_eq, List.getElem?_range' hlt, Option.some.injEq] at hat
    omega
  have h2 := slotsFrom_split hkn.1 hkn.2
  rw [h2] at h
  exact (List.append_inj_left h.symm (by rw [hlen, slotsFrom_eq, List.length_range']))

/-- Each entry is judged at its first slot, by the map as the slots before left it (R142). -/
theorem slotsVerdict_eq (f : Frame) (l : SegLoc) (ks : List Nat) (map : Nat → Mapped) (m : Move) :
    slotsVerdict f l ks map m = match ks.find? (slotFor f m) with
      | some k => slotVerdict f (slotsMap f l (ks.takeWhile (fun i => decide (i ≠ k))) map) k m
      | none => m := by
  induction ks generalizing map m with
  | nil => rfl
  | cons i ks ih =>
    rw [slotsVerdict]
    by_cases hi : slotFor f m i = true
    · have hdone : ∀ (ks : List Nat) (map : Nat → Mapped) (m : Move), m.state ≠ .inLane →
          slotsVerdict f l ks map m = m := by
        intro ks
        induction ks with
        | nil => exact fun _ _ _ => rfl
        | cons k ks ih => exact fun map m hm => by rw [slotsVerdict, slotVerdict, if_neg (by simp [hm]), ih _ _ hm]
      have hfirst : (i :: ks).takeWhile (fun x => decide (x ≠ i)) = [] := by simp
      rw [List.find?_cons_of_pos hi]
      simp only [hfirst]
      refine hdone _ _ _ ?_
      unfold slotVerdict
      split
      · split <;> simp
      · rename_i hn
        simpa [hi] using hn
    · have hsame : slotVerdict f map i m = m := if_neg (fun h => hi h.1)
      rw [List.find?_cons_of_neg hi, hsame, ih]
      cases hf : ks.find? (slotFor f m) with
      | none => rfl
      | some k =>
        have hik : i ≠ k := fun h => hi (h ▸ List.find?_some hf)
        simp [List.takeWhile_cons_of_pos, hik, slotsMap]

end Sys2Proof.Machine
end

section
/-! RECLAIM_COMMIT (O43, R37, R142): what the head frame's commit does as a whole. -/

namespace Sys2Proof.Machine

theorem takeWhile_slotsFrom {c k n : Nat} (hk : k ∈ slotsFrom c n) :
    (slotsFrom c n).takeWhile (fun i => decide (i ≠ k)) = slotsFrom c k := by
  have hmem := hk
  rw [slotsFrom_eq, List.mem_range'_1] at hmem
  rw [slotsFrom_split (show c ≤ k by omega) (show k < n by omega), List.takeWhile_append_of_pos]
  · simp
  · intro i hi
    rw [slotsFrom_eq, List.mem_range'_1] at hi
    simp only [decide_eq_true_eq]
    omega

/-- An entry after the slots c to n have been resolved. -/
theorem slotsVerdict_slotsFrom (f : Frame) (l : SegLoc) (c n : Nat) (map : Nat → Mapped) (m : Move) :
    slotsVerdict f l (slotsFrom c n) map m = match (slotsFrom c n).find? (slotFor f m) with
      | some k => if m.state = .inLane then
          { m with state := if f.void.getLsbD k = false ∧ slotsMap f l (slotsFrom c k) map m.lba = .media m.src then .committed
              else .dead }
        else m
      | none => m := by
  rw [slotsVerdict_eq]
  cases hf : (slotsFrom c n).find? (slotFor f m) with
  | none => rfl
  | some k =>
    simp only [takeWhile_slotsFrom (List.mem_of_find?_eq_some hf), slotVerdict, List.find?_some hf, true_and]

/-- What a commit has done of the head frame: its slots below n. -/
structure CommitDone (f : Frame) (l : SegLoc) (n : Nat) (s u : State) : Prop where
  map : lookup u.extents = slotsMap f l (slotsFrom s.rc.commitAt n) (lookup s.extents)
  unfaulted : s.unfaulted → u.unfaulted
  moves : ∀ j j', s.rc.job = some j → u.rc.job = some j' →
    j'.moves = j.moves.map (slotsVerdict f l (slotsFrom s.rc.commitAt n) (lookup s.extents))

theorem SlotsDone.commitDone {f : Frame} {l : SegLoc} {n : Nat} {s u : State}
    (h : SlotsDone f l (slotsFrom s.rc.commitAt n) s u) :
    CommitDone f l n s u := ⟨h.map, h.unfaulted, h.moves⟩

/-- The head frame's commit leaves the queue with its last slot, or waits at a slot for records (R37, R142). -/
theorem commitHead_done {s : State} {id : Nat} {rest : List Nat} {l : SegLoc} (hq : s.rc.commitQ = id :: rest)
    (hb : (s.frame id).bound = some l) (ht : TableOk s.extents) (hf : (s.frame id).fill ≤ 16) :
    (CommitDone (s.frame id) l (s.frame id).fill s (commitHead s) ∧
      (commitHead s).rc.commitQ = rest ∧ (commitHead s).rc.commitAt = 0) ∨
    ∃ n < (s.frame id).fill, CommitDone (s.frame id) l n s (commitHead s) ∧ (commitHead s).rc.commitQ = id :: rest ∧
      (commitHead s).rc.commitAt = n ∧ (commitHead s).freeRecords < 2 ∧ s.freeRecords < 34 := by
  have hk : ∀ k ∈ slotsFrom s.rc.commitAt (s.frame id).fill, k < 16 := fun k hk => by
    have := List.mem_range.1 (List.mem_of_mem_drop hk)
    omega
  have hlen : (slotsFrom s.rc.commitAt (s.frame id).fill).length ≤ 16 := by
    simp only [slotsFrom, List.length_drop, List.length_range]
    omega
  rcases commitSlots_done (s.frame id) l _ hk s ht with ⟨u, hu, hd⟩ | ⟨⟨done, k, tail, u, hks, hu, hd, hat, hfree⟩, hlow⟩
  · have hc : commitHead s = releaseFrame id { u with rc := { u.rc with commitQ := rest, commitAt := 0 } } := by
      rw [slotsFrom] at hu
      simp only [commitHead, hq, hb, hu]
    rw [hc]
    exact .inl ⟨⟨hd.map, hd.unfaulted, hd.moves⟩, rfl, rfl⟩
  · obtain ⟨hkn, rfl⟩ := slotsFrom_prefix hks
    have hc : commitHead s = u := by
      rw [slotsFrom] at hu
      simp only [commitHead, hq, hb, hu]
    rw [hc]
    exact .inr ⟨k, hkn, hd.commitDone, hd.queue.trans hq, hat, hfree, by omega⟩

theorem settle_commits (s : State) : (settle s).commits = s.commits := (settle_laneWork s).commits

/-- With a live slot at hand and fewer than 2 records free nothing is committed (R37). -/
theorem commitHead_waits {s : State} {id : Nat} {rest : List Nat} {l : SegLoc} (hq : s.rc.commitQ = id :: rest)
    (hb : (s.frame id).bound = some l) {lba : Nat} {src : Loc} (hat : s.rc.commitAt < (s.frame id).fill)
    (hv : (s.frame id).void.getLsbD s.rc.commitAt = false) (h1 : runsLba (s.frame id).runs s.rc.commitAt = some lba)
    (h2 : runsSource (s.frame id).runs s.rc.commitAt = some src) (hf : s.freeRecords < 2) : commitHead s = s := by
  have hslots : (List.range (s.frame id).fill).drop s.rc.commitAt =
      s.rc.commitAt :: slotsFrom (s.rc.commitAt + 1) (s.frame id).fill := by
    have := slotsFrom_split (le_refl s.rc.commitAt) hat
    rwa [slotsFrom_eq s.rc.commitAt s.rc.commitAt, Nat.sub_self, List.range'_zero, List.nil_append] at this
  have hnone : commitSlot (s.frame id) l s.rc.commitAt s = none := by
    have hf : s.freeRecords < Config.commitReserve := hf
    simp [commitSlot, h1, h2, hv, hf]
  have hc : commitSlots (s.frame id) l ((List.range (s.frame id).fill).drop s.rc.commitAt) s = (false, s) := by
    simp only [hslots, commitSlots, hnone]
  simp only [commitHead, hq, hb, hc]

end Sys2Proof.Machine
end

section
/-! The reclaim job's steps (O43, R131, R138, R141, R145, R147): which step the pump takes, and the end of the handing and of
a pass. -/

namespace Sys2Proof.Machine

/-! ## The job's marks and migrate_head (R60, R131, R145) -/

theorem Move.settled_iff (m : Move) : m.settled = true ↔ m.state = .committed ∨ m.state = .dead ∨ m.state = .lost := by
  simp [Move.settled, or_assoc]

/-- What resolving entries does to the job beside its tallies. -/
theorem resolveMoves_marks {s : State} {j : Job} (hj : s.rc.job = some j) (st : MoveState) (p : Move → Bool) :
    ∃ j', (resolveMoves st p s).rc.job = some j' ∧
      j'.moves = j.moves.map (fun m => if p m then { m with state := st } else m) ∧ j'.segs = s.markedSegs j j'.moves := by
  cases st <;> exact ⟨_, by simp only [resolveMoves, State.modJob, hj, Option.map_some]; rfl, rfl, rfl⟩

theorem markedSegs_fst (s : State) (j : Job) (moves : List Move) :
    (s.markedSegs j moves).map (fun x => x.1) = j.segs.map (fun x => x.1) := by
  simp [State.markedSegs, Function.comp_def]

/-- A pass segment is marked once it was, or all its entries have left it (R131). -/
theorem markedSegs_getElem? {s : State} {j : Job} {moves : List Move} {k : Nat} {x : Nat × Bool} (h : j.segs[k]? = some x) :
    ∃ marked, (s.markedSegs j moves)[k]? = some (x.1, marked) ∧
      (marked = true ↔ x.2 = true ∨ ∀ m ∈ moves, m.src.segment = s.cacheLoc j.act x.1 → m.settled = true) := by
  refine ⟨_, by simp only [State.markedSegs, List.getElem?_map, h, Option.map_some]; rfl, ?_⟩
  simp only [Bool.or_eq_true, List.all_eq_true, decide_eq_true_eq, ne_eq]
  grind

theorem segResolved_iff (j : Job) (ctr : Nat) : j.segResolved ctr = true ↔ (ctr, true) ∈ j.segs := by
  simp only [Job.segResolved, List.any_eq_true, Bool.and_eq_true, decide_eq_true_eq]
  constructor
  · rintro ⟨⟨c, b⟩, hx, rfl, rfl⟩
    exact hx
  · exact fun h => ⟨_, h, rfl, rfl⟩

/-- migrate_head can advance past the segment there (R60, R145). -/
def State.passesHead (s : State) (j : Job) : Prop :=
  (s.ring j.act).migrateHead < (s.ring j.act).tail ∧ s.holder (s.cacheLoc j.act (s.ring j.act).migrateHead) = none ∧
    ((s.ring j.act).migrateHead, true) ∈ j.segs

theorem advanceMigrate_of_passes {s : State} {j : Job} (hj : s.rc.job = some j) (hv : j.victim = none) (hp : s.passesHead j) :
    advanceMigrate s = some ((s.modRing j.act (fun r => { r with migrateHead := (s.ring j.act).migrateHead + 1 })).modJob
      (fun j => { j with advanced := true })) := by
  obtain ⟨h1, h2, h3⟩ := hp
  simp only [advanceMigrate, hj]
  rw [if_pos ⟨hv, h1, by simp [h2], (segResolved_iff _ _).2 h3⟩]

theorem advanceMigrate_of_not {s : State} {j : Job} (hj : s.rc.job = some j) (hp : ¬ s.passesHead j) :
    advanceMigrate s = none := by
  simp only [advanceMigrate, hj]
  refine if_neg (fun ⟨_, h1, h2, h3⟩ => hp ⟨h1, ?_, (segResolved_iff _ _).1 h3⟩)
  simpa using h2

/-! ## Which step is taken -/

theorem firstStep_cons_none {f : State → Option State} {l : List (State → Option State)} {s : State} (h : f s = none) :
    firstStep (f :: l) s = firstStep l s := by
  simp only [firstStep, h]

theorem firstStep_cons_some {f : State → Option State} {l : List (State → Option State)} {s t : State} (h : f s = some t) :
    firstStep (f :: l) s = some t := by
  simp only [firstStep, h]

theorem firstStep_singleton (f : State → Option State) (s : State) : firstStep [f] s = f s := by
  unfold firstStep
  cases f s <;> rfl

theorem exists_of_firstStep {l : List (State → Option State)} {s t : State} (h : firstStep l s = some t) :
    ∃ f ∈ l, f s = some t := by
  induction l with
  | nil => cases h
  | cons f l ih =>
    cases hf : f s with
    | some u =>
      rw [firstStep_cons_some hf] at h
      exact ⟨f, by simp, hf.trans h⟩
    | none =>
      rw [firstStep_cons_none hf] at h
      obtain ⟨g, hg, hs⟩ := ih h
      exact ⟨g, by simp [hg], hs⟩

/-- migrate_head advances before anything else (R145). -/
theorem pumpStep_of_advance {s t : State} {j : Job} (hj : s.rc.job = some j) (h : advanceMigrate s = some t) :
    pumpStep s = some t := by
  simp only [pumpStep, hj]
  repeat' split
  all_goals exact firstStep_cons_some h

section
variable {s : State} {j : Job} (hj : s.rc.job = some j) (hrun : j.pausePort = false ∧ j.pauseProtect = false)
  (ha : advanceMigrate s = none)
include hj hrun ha

theorem pumpStep_of_gate (hg : s.gate = true ∧ s.holdsData = false) :
    pumpStep s = firstStep [handBlock, endHanding, pauseForProtect] s := by
  simp only [pumpStep, hj, Job.paused, hrun, Bool.or_self, Bool.false_eq_true, if_false, if_pos hg, firstStep_cons_none ha]

theorem pumpStep_of_open (hg : ¬ (s.gate = true ∧ s.holdsData = false)) :
    pumpStep s = firstStep [handBlock, makeSource, endHanding, endPass, resumePass] s := by
  simp only [pumpStep, hj, Job.paused, hrun, Bool.or_self, Bool.false_eq_true, if_false, if_neg hg, firstStep_cons_none ha]

theorem pumpStep_of_hand {t : State} (hh : handBlock s = some t) : pumpStep s = some t := by
  by_cases hg : s.gate = true ∧ s.holdsData = false
  · rw [pumpStep_of_gate hj hrun ha hg, firstStep_cons_some hh]
  · rw [pumpStep_of_open hj hrun ha hg, firstStep_cons_some hh]

theorem pumpStep_of_endHanding {t : State} (hh : handBlock s = none) (hm : makeSource s = none) (he : endHanding s = some t) :
    pumpStep s = some t := by
  by_cases hg : s.gate = true ∧ s.holdsData = false
  · rw [pumpStep_of_gate hj hrun ha hg, firstStep_cons_none hh, firstStep_cons_some he]
  · rw [pumpStep_of_open hj hrun ha hg, firstStep_cons_none hh, firstStep_cons_none hm, firstStep_cons_some he]

end

/-! ## What has nothing to do -/

theorem moves_of_job {s : State} {j : Job} (hj : s.rc.job = some j) : s.moves = j.moves := by
  simp [State.moves, hj]

theorem Move.open_iff (m : Move) : m.open = true ↔ m.state = .pending ∨ m.state = .held := by
  simp [Move.open]

/-- No block is at hand where none is HELD. -/
theorem handBlock_of_not_held {s : State} (h : ∀ m ∈ s.moves, m.state ≠ .held) : handBlock s = none := by
  have hb : s.blockAtHand = none := by
    unfold State.blockAtHand
    split
    · rfl
    · have hnil : ∀ l, s.moves.filter (fun x => decide (x.state = .held) && decide (x.src.segment = l)) = [] := fun l => by
        simpa [List.filter_eq_nil_iff] using fun x hx hs => absurd hs (h x hx)
      rw [hnil]
      rfl
  unfold handBlock
  rw [hb]
  split
  · rename_i heq
    cases heq
  · rfl

theorem makeSource_of_not_pending {s : State} (h : ∀ m ∈ s.moves, m.state ≠ .pending) : makeSource s = none := by
  have hu : s.unread = none := by
    simp only [State.unread, Option.map_eq_none_iff, List.find?_eq_none]
    intro m hm
    simp [h m hm]
  unfold makeSource
  simp [hu]

/-! ## Lane 7's side -/

/-- The fields that the close of lane 7's frame and the end of its request leave alone. -/
def State.besideLanes (s : State) :=
  ((s.extents, s.earmarks, s.credit, s.frontOut, s.rc, s.rs), (s.ck, s.bm, s.ports, s.maint, s.mapPressure, s.geom, s.gate))

theorem joinQueue_beside (n id : Nat) (b : Bool) (s : State) : (joinQueue n id b s).besideLanes = s.besideLanes := by
  unfold joinQueue
  split <;> rfl

theorem stampFrame_beside (n id : Nat) (s : State) : (stampFrame n id s).besideLanes = s.besideLanes := by
  unfold stampFrame
  dsimp only
  split <;> rfl

theorem sealFrame_beside (n id : Nat) (s : State) : (sealFrame n id s).besideLanes = s.besideLanes := by
  unfold sealFrame
  dsimp only
  split
  · exact stampFrame_beside _ _ _
  · exact (joinQueue_beside _ _ _ _).trans (stampFrame_beside _ _ _)

theorem closeFrame_beside (n id : Nat) (s : State) : (closeFrame n id s).besideLanes = s.besideLanes := by
  unfold closeFrame
  dsimp only
  split
  · exact sealFrame_beside _ _ _
  · rfl

theorem closeOpen_beside (n : Nat) (s : State) : (closeOpen n s).besideLanes = s.besideLanes := by
  unfold closeOpen
  split
  · exact closeFrame_beside _ _ _
  · rfl

theorem dropRequest_beside (n : Nat) (s : State) : (dropRequest n s).besideLanes = s.besideLanes := by
  unfold dropRequest
  dsimp only
  split <;> rfl

theorem besideLanes_iff {s t : State} (h : t.besideLanes = s.besideLanes) : t.extents = s.extents ∧ t.earmarks = s.earmarks ∧
    t.credit = s.credit ∧ t.frontOut = s.frontOut ∧ t.rc = s.rc ∧ t.ck = s.ck ∧ t.bm = s.bm := by
  simp only [State.besideLanes, Prod.mk.injEq] at h
  simp [h]

end Sys2Proof.Machine
end

section
/-! The end of the handing, of a pass and of a job (O43, R133, R138, R141, R145, R147). -/

namespace Sys2Proof.Machine

/-! ## Lane 7 after its frame has closed -/

theorem modLane_keeps {α : Type} (g : Lane → α) {f : Lane → Lane} (hf : ∀ c, g (f c) = g c) (s : State) (n m : Nat) :
    g ((s.modLane n f).lane m) = g (s.lane m) := by
  by_cases hn : n < s.lanes.length
  · rw [State.lane_modLane s n m f hn]
    split
    · rename_i h
      rw [h, hf]
    · rfl
  · have hsame : s.lanes.modify n f = s.lanes := List.modify_eq_self (not_lt.1 hn)
    simp [State.lane, State.modLane, hsame]

/-- Lane n's frame and grant, and how many lanes there are. -/
def State.laneFrames (s : State) (n : Nat) := ((s.lane n).openFrame, (s.lane n).granted, s.lanes.length)

theorem laneFrames_congr {s t : State} (h : t.lanes = s.lanes) (n : Nat) : t.laneFrames n = s.laneFrames n := by
  simp [State.laneFrames, State.lane, h]

theorem laneFrames_modLane {f : Lane → Lane} (hf : ∀ c, (f c).openFrame = c.openFrame ∧ (f c).granted = c.granted)
    (s : State) (n m : Nat) : (s.modLane n f).laneFrames m = s.laneFrames m := by
  have h1 := modLane_keeps Lane.openFrame (fun c => (hf c).1) s n m
  have h2 := modLane_keeps Lane.granted (fun c => (hf c).2) s n m
  simp [State.laneFrames, h1, h2]

theorem stampFrame_lanes (n id : Nat) (s : State) : (stampFrame n id s).lanes = s.lanes := by
  unfold stampFrame
  dsimp only
  split <;> rfl

theorem sealFrame_laneFrames (n id m : Nat) (s : State) : (sealFrame n id s).laneFrames m = s.laneFrames m := by
  unfold sealFrame
  dsimp only
  have h := laneFrames_congr (stampFrame_lanes n id
    (s.modFrame id (fun f => { f with payload := f.payload.take f.fill ++ List.replicate (16 - f.fill) 0 }))) m
  refine Eq.trans ?_ h
  split
  · rfl
  · unfold joinQueue
    split
    · refine laneFrames_modLane ?_ _ _ _
      exact fun _ => ⟨rfl, rfl⟩
    · rfl

theorem closeFrame_laneFrames {n id : Nat} {s : State} (h : n < s.lanes.length) :
    (closeFrame n id s).laneFrames n = (none, (s.lane n).granted, s.lanes.length) := by
  have h1 : (s.modLane n (fun c => { c with openFrame := none, idleTimer := none })).laneFrames n =
      (none, (s.lane n).granted, s.lanes.length) := by
    simp [State.laneFrames, State.lane_modLane, h]
  unfold closeFrame
  dsimp only
  split
  · exact (sealFrame_laneFrames _ _ _ _).trans h1
  · exact h1

theorem closeOpen_laneFrames {n : Nat} {s : State} (h : n < s.lanes.length) :
    (closeOpen n s).laneFrames n = (none, (s.lane n).granted, s.lanes.length) := by
  unfold closeOpen
  split
  · exact closeFrame_laneFrames h
  · simp [State.laneFrames, *]

theorem dropRequest_laneFrames {n : Nat} {s : State} (h : n < s.lanes.length) :
    (dropRequest n s).laneFrames n = ((s.lane n).openFrame, none, s.lanes.length) := by
  have hw : (withdraw (.lane n) s).laneFrames n = s.laneFrames n := laneFrames_congr rfl n
  unfold dropRequest
  dsimp only
  split
  · have hl : n < (withdraw (.lane n) s).lanes.length := h
    have hm : ((withdraw (.lane n) s).modLane n (fun c => { c with granted := none })).laneFrames n =
        (((withdraw (.lane n) s).lane n).openFrame, none, (withdraw (.lane n) s).lanes.length) := by
      simp only [State.laneFrames, State.lane_modLane _ _ _ _ hl, if_true]
      simp
    exact hm
  · rename_i hg
    rw [hw]
    have hg : (s.lane n).granted = none := hg
    simp [State.laneFrames, hg]

/-! ## The requests for RECLAIM frames -/

theorem closeOpen_waitReclaim (n : Nat) (s : State) : (closeOpen n s).pool.waitReclaim = s.pool.waitReclaim := by
  have hseal : ∀ id (u : State), (sealFrame n id u).pool.waitReclaim = u.pool.waitReclaim := fun id u => by
    unfold sealFrame joinQueue stampFrame
    dsimp only
    repeat' split
    all_goals rfl
  unfold closeOpen closeFrame
  dsimp only
  repeat' split
  · exact hseal _ _
  · rfl
  · rfl

theorem dropRequest_not_waits (s : State) : Requester.lane 7 ∉ (dropRequest 7 s).pool.waitReclaim := by
  have h : (dropRequest 7 s).pool.waitReclaim = s.pool.waitReclaim.filter (fun x => x ≠ .lane 7) := by
    unfold dropRequest
    dsimp only
    split <;> rfl
  simp [h]

/-! ## The end of the handing (R141) -/

theorem endHanding_of_over {s : State} {j : Job} (hj : s.rc.job = some j) (hr : j.running = true) (ht : j.told = false)
    (hm : ∀ m ∈ j.moves, m.open = false) (hs : ∀ e ∈ s.rc.sources, e.live = false) :
    endHanding s = some ((closeOpen 7 (dropRequest 7 s)).modJob (fun j => { j with told := true })) := by
  simp only [endHanding, hj]
  exact if_pos ⟨hr, ht, by simpa using hm, by simpa using hs⟩

theorem endHanding_of_not {s : State} {j : Job} (hj : s.rc.job = some j)
    (h : j.running = false ∨ j.told = true ∨ ∃ m ∈ j.moves, m.open = true) : endHanding s = none := by
  simp only [endHanding, hj]
  refine if_neg (fun ⟨h1, h2, h3, _⟩ => ?_)
  rcases h with h | h | ⟨m, hm, ho⟩
  · rw [h] at h1
    cases h1
  · rw [h] at h2
    cases h2
  · have := List.all_eq_true.1 h3 m hm
    simp [ho] at this

/-- What lane 7's side of the end of the handing leaves, and what it ends. -/
theorem tellEnd_spec (s : State) {j : Job} (hj : s.rc.job = some j) :
    let t := (closeOpen 7 (dropRequest 7 s)).modJob (fun j => { j with told := true })
    t.rc.job = some { j with told := true } ∧ t.extents = s.extents ∧
      (s.lanes.length = 8 → (t.lane 7).openFrame = none ∧ (t.lane 7).granted = none) ∧ .lane 7 ∉ t.pool.waitReclaim := by
  intro t
  have hb := (closeOpen_beside 7 (dropRequest 7 s)).trans (dropRequest_beside 7 s)
  obtain ⟨hx, -, -, -, hrc, -, -⟩ := besideLanes_iff hb
  refine ⟨?_, hx, fun hl => ?_, ?_⟩
  · show (closeOpen 7 (dropRequest 7 s)).rc.job.map _ = _
    rw [hrc, hj]
    rfl
  · have h1 := dropRequest_laneFrames (n := 7) (s := s) (by omega)
    simp only [State.laneFrames, Prod.mk.injEq] at h1
    have h2 := closeOpen_laneFrames (n := 7) (s := dropRequest 7 s) (by omega)
    simp only [State.laneFrames, Prod.mk.injEq] at h2
    exact ⟨h2.1, h2.2.1.trans h1.2.1⟩
  · show _ ∉ (closeOpen 7 (dropRequest 7 s)).pool.waitReclaim
    rw [closeOpen_waitReclaim]
    exact dropRequest_not_waits s

/-! ## The end of a job -/

/-- What the end of a job leaves alone of the checkpoint writer, the table and the rings. -/
def State.besideJob (s : State) := (s.extents, s.ck, s.bm.a.ring, s.bm.b.ring)

theorem besideJob_of_beside {s t : State} (h : t.besideLanes = s.besideLanes) : t.besideJob = s.besideJob := by
  obtain ⟨h1, -, -, -, -, h6, h7⟩ := besideLanes_iff h
  simp [State.besideJob, h1, h6, h7]

theorem dropSource_besideJob (s : State) (e : SourceRead) : (dropSource s e).besideJob = s.besideJob := by
  unfold dropSource
  split
  · rfl
  · cases e.frame <;> rfl

theorem giveUpLaneBand_besideJob (n : Nat) (s : State) : (giveUpLaneBand n s).besideJob = s.besideJob := by
  have h : ∀ a b, (giveUpBand n a b s).besideJob = s.besideJob := fun a b => by
    unfold giveUpBand park
    dsimp only
    repeat' split
    all_goals cases a <;> rfl
  unfold giveUpLaneBand
  split
  · exact h _ _
  · rfl

theorem endLaneSeven_besideJob (s : State) : (endLaneSeven s).besideJob = s.besideJob := by
  have h : (giveUpLaneBand 7 (closeOpen 7 (dropRequest 7 s))).besideJob = s.besideJob :=
    (giveUpLaneBand_besideJob _ _).trans
      (besideJob_of_beside ((closeOpen_beside 7 _).trans (dropRequest_beside 7 s)))
  unfold endLaneSeven
  dsimp only
  split <;> exact h

theorem endJob_besideJob (s : State) : (endJob s).besideJob = s.besideJob := by
  have h : ∀ (l : List SourceRead) (u : State), (l.foldl dropSource u).besideJob = u.besideJob := by
    intro l
    induction l with
    | nil => exact fun _ => rfl
    | cons e l ih => exact fun u => (ih _).trans (dropSource_besideJob u e)
  have hrc : ∀ u : State, ({ u with rc := { u.rc with job := none } }).besideJob = u.besideJob := fun _ => rfl
  rw [endJob, hrc, endLaneSeven_besideJob, h]

theorem endJob_openFrame {s : State} (h : s.lanes.length = 8) : ((endJob s).lane 7).openFrame = none := by
  have hdrop : ∀ (l : List SourceRead) (u : State), (l.foldl dropSource u).lanes = u.lanes := by
    intro l
    induction l with
    | nil => exact fun _ => rfl
    | cons e l ih =>
      refine fun u => (ih _).trans ?_
      unfold dropSource
      split
      · rfl
      · cases e.frame <;> rfl
  have hend : ∀ u : State, u.lanes.length = 8 → ((endLaneSeven u).lane 7).openFrame = none := by
    intro u hu
    have h1 := dropRequest_laneFrames (n := 7) (s := u) (by omega)
    simp only [State.laneFrames, Prod.mk.injEq] at h1
    have h2 := closeOpen_laneFrames (n := 7) (s := dropRequest 7 u) (by omega)
    simp only [State.laneFrames, Prod.mk.injEq] at h2
    have hgive : ∀ v : State, ((giveUpLaneBand 7 v).lane 7).openFrame = (v.lane 7).openFrame := by
      intro v
      have hb : ∀ a b, (giveUpBand 7 a b v).lanes = v.lanes := fun a b => by
        unfold giveUpBand park
        dsimp only
        repeat' split
        all_goals rfl
      unfold giveUpLaneBand
      split
      · rw [modLane_keeps Lane.openFrame (by exact fun _ => rfl)]
        simp [State.lane, hb]
      · rfl
    unfold endLaneSeven
    dsimp only
    split
    · rw [modLane_keeps Lane.openFrame (by exact fun _ => rfl), hgive, h2.1]
    · rw [modLane_keeps Lane.openFrame (by exact fun _ => rfl), hgive, h2.1]
  have hrc : ∀ u : State, ({ u with rc := { u.rc with job := none } }).lane 7 = u.lane 7 := fun _ => rfl
  rw [endJob, hrc]
  exact hend _ (by rw [hdrop]; exact h)

end Sys2Proof.Machine
end

section
/-! The end of a pass (O43, R133, R138, R145), the write-protect pause (R147), and what no step brings into a lane. -/

namespace Sys2Proof.Machine

theorem Move.resolved_iff (m : Move) :
    m.resolved = true ↔ m.state = .committed ∨ m.state = .dead ∨ m.state = .lost ∨ m.state = .returned := by
  unfold Move.resolved
  cases m.state <;> simp

theorem endPass_of_over {s : State} {j : Job} (hj : s.rc.job = some j) (hr : j.running = true) (ht : j.told = true)
    (hm : ∀ m ∈ j.moves, m.resolved = true) :
    endPass s = if j.victim.isSome then some (nextBandPass s) else some (endCachePass j s) := by
  simp only [endPass, hj]
  exact if_pos (by simpa [Job.passOver, hr, ht] using hm)

/-- With every entry resolved and lane 7 told the pass ends (R138, R145). -/
theorem pumpStep_of_over {s : State} {j : Job} (hj : s.rc.job = some j) (hrun : j.pausePort = false ∧ j.pauseProtect = false)
    (ha : advanceMigrate s = none) (hg : s.gate = false) (hr : j.running = true) (ht : j.told = true)
    (hm : ∀ m ∈ j.moves, m.resolved = true) :
    pumpStep s = if j.victim.isSome then some (nextBandPass s) else some (endCachePass j s) := by
  have hst : ∀ m ∈ s.moves, m.state ≠ .held ∧ m.state ≠ .pending := fun m h => by
    rw [moves_of_job hj] at h
    have := (Move.resolved_iff m).1 (hm m h)
    rcases this with h | h | h | h <;> simp [h]
  have he := endPass_of_over hj hr ht hm
  rw [pumpStep_of_open hj hrun ha (by simp [hg]), firstStep_cons_none (handBlock_of_not_held (fun m h => (hst m h).1)),
    firstStep_cons_none (makeSource_of_not_pending (fun m h => (hst m h).2)),
    firstStep_cons_none (endHanding_of_not hj (.inr (.inl ht)))]
  by_cases hv : j.victim.isSome = true
  · rw [if_pos hv] at he ⊢
    exact firstStep_cons_some he
  · rw [if_neg hv] at he ⊢
    exact firstStep_cons_some he

theorem nextBandPass_eq {s : State} {j : Job} {v : Nat} (hj : s.rc.job = some j) (hv : j.victim = some v) :
    let pos := if j.more then (j.moves.getLast?.map (fun m => m.src.offset + 1)).getD 0 else 0
    let found := sweep s.extents (.band j.act v) pos Config.maxMoves
    nextBandPass s = { s with rc := { s.rc with job := some { j with
      pass := min (j.pass + 1) Config.max32, sweepPos := pos, more := found.2, running := true, told := false
      moves := pendingMoves found.1 } } } := by
  simp only [nextBandPass, beginPass, State.modJob, hj, Option.map_some, hv, beginBandPass]

/-! ## A cache job's pass -/

/-- A cache job's pass begins with entries PENDING, of segments between migrate_head and tail (R145). -/
theorem beginPass_cache {s : State} {j : Job} (hj : s.rc.job = some j) (hv : j.victim = none) (hs : j.segs = [])
    (hm : j.moves = []) (had : j.advanced = false) :
    ∃ j', (beginPass s).rc.job = some j' ∧ j'.trigger = j.trigger ∧ j'.act = j.act ∧ j'.victim = none ∧
      j'.advanced = false ∧ (∀ x ∈ j'.segs, (s.ring j.act).migrateHead ≤ x.1 ∧ x.1 < (s.ring j.act).tail) ∧
      ∀ m ∈ j'.moves, m.state = .pending := by
  simp only [beginPass, hj, hv, beginCachePass]
  split
  · exact ⟨j, hj, rfl, rfl, hv, had, by simp [hs], by simp [hm]⟩
  · rename_i segs _
    simp only [State.modJob, hj, Option.map_some, Option.some.injEq, exists_eq_left', hv, true_and]
    refine ⟨?_, ?_⟩
    · intro x hx
      simp only [List.map_map, List.mem_map] at hx
      obtain ⟨c, hc, rfl⟩ := hx
      have hc1 := List.mem_takeWhile_imp hc
      have hc2 := (List.takeWhile_sublist _).subset hc
      simp only [List.mem_map, List.mem_range] at hc2
      simp only [Bool.and_eq_true, decide_eq_true_eq] at hc1
      obtain ⟨k, -, rfl⟩ := hc2
      exact ⟨Nat.le_add_right _ _, hc1.1⟩
    · intro m hm
      simp only [pendingMoves, List.mem_map] at hm
      obtain ⟨x, -, rfl⟩ := hm
      rfl

theorem beginPass_besideJob (s : State) : (beginPass s).besideJob = s.besideJob := by
  unfold beginPass beginBandPass beginCachePass
  repeat' split
  all_goals rfl

/-- A cache job goes on (R133, R145): live segments, its own trigger, and no earlier one. -/
def State.goesOn (s : State) (j : Job) : Prop :=
  0 < (s.ring j.act).live ∧ s.ownTrigger j = true ∧ j.trigger.earlier.all (fun t => !s.triggerHolds t) = true

theorem askCk_fields (b : Bool) (s : State) : (if b then requestCk s else s).ck.wanted = (s.ck.wanted || b) ∧
    (if b then requestCk s else s).rc = s.rc ∧ (if b then requestCk s else s).extents = s.extents ∧
    (if b then requestCk s else s).bm = s.bm ∧ (if b then requestCk s else s).lanes = s.lanes := by
  cases b <;> simp

theorem askCk_goesOn (b : Bool) (s : State) (j : Job) : (if b then requestCk s else s).goesOn j ↔ s.goesOn j := by
  cases b
  · rfl
  · exact Iff.rfl

/-- The job with its pass behind it. -/
def Job.passed (j : Job) : Job := { j with running := false, segs := [], moves := [], advanced := false }

theorem endCachePass_of_goesOn {s : State} {j : Job} (h : s.goesOn j) (hp : j.paused = false) :
    endCachePass j s = beginPass ((if j.advanced then requestCk s else s).modJob Job.passed) := by
  have hc := (askCk_goesOn j.advanced s j).2 h
  unfold State.goesOn at hc
  simp only [endCachePass]
  rw [if_pos hc, hp]
  rfl

theorem endCachePass_of_not {s : State} {j : Job} (h : ¬ s.goesOn j) :
    endCachePass j s = endJob (if j.advanced then requestCk s else s) := by
  have hc := mt (askCk_goesOn j.advanced s j).1 h
  unfold State.goesOn at hc
  simp only [endCachePass]
  rw [if_neg hc]

/-- The rings and the table stay through the end of a cache job's pass, and a checkpoint is wanted where migrate_head advanced
(R145). -/
theorem endCachePass_beside {s : State} {j : Job} (hp : j.paused = false) :
    (∀ a, (endCachePass j s).ring a = s.ring a) ∧ (endCachePass j s).extents = s.extents ∧
      (endCachePass j s).ck.wanted = (s.ck.wanted || j.advanced) := by
  obtain ⟨hw, -, hx, hbm, -⟩ := askCk_fields j.advanced s
  have hb : (endCachePass j s).besideJob = (if j.advanced then requestCk s else s).besideJob := by
    by_cases hg : s.goesOn j
    · rw [endCachePass_of_goesOn hg hp]
      exact beginPass_besideJob _
    · rw [endCachePass_of_not hg, endJob_besideJob]
  simp only [State.besideJob, Prod.mk.injEq] at hb
  obtain ⟨h1, h2, h3, h4⟩ := hb
  refine ⟨fun a => ?_, h1.trans hx, by rw [h2, hw]⟩
  rw [hbm] at h3 h4
  cases a
  · exact h3
  · exact h4

theorem endCachePass_goesOn {s : State} {j : Job} (hj : s.rc.job = some j) (hv : j.victim = none) (hp : j.paused = false)
    (hg : s.goesOn j) :
    ∃ j', (endCachePass j s).rc.job = some j' ∧ j'.trigger = j.trigger ∧ j'.act = j.act ∧ j'.victim = none ∧
      j'.advanced = false ∧ (∀ x ∈ j'.segs, (s.ring j.act).migrateHead ≤ x.1 ∧ x.1 < (s.ring j.act).tail) ∧
      ∀ m ∈ j'.moves, m.state = .pending := by
  obtain ⟨-, hrc, -, hbm, -⟩ := askCk_fields j.advanced s
  have hjob : ((if j.advanced then requestCk s else s).modJob Job.passed).rc.job = some j.passed := by
    simp [State.modJob, hrc, hj]
  have hring : ((if j.advanced then requestCk s else s).modJob Job.passed).ring j.act = s.ring j.act := by
    simp [State.ring, State.modJob, hbm]
  have h := beginPass_cache hjob hv rfl rfl rfl
  rw [show j.passed.act = j.act from rfl, hring] at h
  rw [endCachePass_of_goesOn hg hp]
  exact h

theorem endCachePass_ends {s : State} {j : Job} (hg : ¬ s.goesOn j) : (endCachePass j s).rc.job = none ∧
    (s.lanes.length = 8 → ((endCachePass j s).lane 7).openFrame = none) := by
  obtain ⟨-, -, -, -, hl⟩ := askCk_fields j.advanced s
  rw [endCachePass_of_not hg]
  exact ⟨rfl, fun h8 => endJob_openFrame (by rw [hl]; exact h8)⟩

/-! ## What no step brings into a lane -/

/-- Every IN LANE entry of t was there in s. -/
def NoneEnter (s t : State) : Prop := ∀ m ∈ t.moves, m.state = .inLane → m ∈ s.moves

theorem NoneEnter.of_job {s t : State} (h : t.rc.job = s.rc.job) : NoneEnter s t := by
  intro m hm _
  rwa [State.moves, h] at hm

theorem NoneEnter.trans {s t u : State} (h : NoneEnter s t) (k : NoneEnter t u) : NoneEnter s u :=
  fun m hm hl => h m (k m hm hl) hl

theorem moves_modJob (s : State) (f : Job → Job) : (s.modJob f).moves = (s.rc.job.map (fun j => (f j).moves)).getD [] := by
  simp [State.moves, State.modJob, Function.comp_def]

theorem NoneEnter.modJob (s : State) {f : Job → Job}
    (hf : ∀ j, (f j).moves = j.moves ∨ ∀ m ∈ (f j).moves, m.state ≠ .inLane) :
    NoneEnter s (s.modJob f) := by
  intro m hm hl
  rw [moves_modJob] at hm
  cases hj : s.rc.job with
  | none => simp [hj] at hm
  | some j =>
    simp only [hj, Option.map_some, Option.getD_some] at hm
    rcases hf j with h | h
    · rw [moves_of_job hj, ← h]
      exact hm
    · exact absurd hl (h m hm)

theorem beginPass_noneEnter (s : State) : NoneEnter s (beginPass s) := by
  have hp : ∀ l, ∀ m ∈ pendingMoves l, m.state ≠ .inLane := fun l m hm => by
    simp only [pendingMoves, List.mem_map] at hm
    obtain ⟨x, -, rfl⟩ := hm
    simp
  unfold beginPass beginBandPass beginCachePass
  repeat' split
  · exact .of_job rfl
  · exact .modJob s (fun j => .inr (hp _))
  · exact .of_job rfl
  · exact .modJob s (fun j => .inr (hp _))

theorem resolveMoves_noneEnter (st : MoveState) (p : Move → Bool) (s : State) (hst : st ≠ .inLane) :
    NoneEnter s (resolveMoves st p s) := by
  intro m hm hl
  cases hj : s.rc.job with
  | none => simp [State.moves, resolveMoves_none hj] at hm
  | some j =>
    obtain ⟨j', hj', hmoves⟩ := resolveMoves_job (st := st) (p := p) hj
    rw [moves_of_job hj', hmoves, List.mem_map] at hm
    obtain ⟨x, hx, rfl⟩ := hm
    rw [moves_of_job hj]
    split at hl
    · exact absurd hl hst
    · rwa [if_neg ‹_›]

theorem grantFrame_rc {r : Requester} {s t : State} {id : Nat} (h : grantFrame r s = some (id, t)) : t.rc = s.rc := by
  unfold grantFrame at h
  split at h <;> cases h
  rfl

theorem requestFrame_rc (r : Requester) (s : State) : (requestFrame r s).2.rc = s.rc := by
  unfold requestFrame
  split
  · split
    · exact grantFrame_rc ‹_›
    · rfl
  · rfl

theorem makeSource_noneEnter {s t : State} (h : makeSource s = some t) : NoneEnter s t := by
  unfold makeSource at h
  dsimp only at h
  split at h
  · cases h
  split at h
  · cases h
  have hr : ∀ p, NoneEnter s (resolveMoves .dead p s) := fun p => resolveMoves_noneEnter _ _ _ (by simp)
  split at h
  · split at h
    all_goals
      rename_i hq
      have hrc := congrArg (fun x => x.2.rc.job) hq
      rw [requestFrame_rc] at hrc
      cases h
      exact (hr _).trans (.of_job hrc.symm)
  · cases h
    exact hr _

theorem endJob_noneEnter (s : State) : NoneEnter s (endJob s) := by
  intro m hm
  simp [State.moves, endJob] at hm

/-- No step but a handing brings a block into a lane (R83, R141). -/
theorem pumpStep_noneEnter {s t : State} {j : Job} (hj : s.rc.job = some j)
    (hrun : j.pausePort = false ∧ j.pauseProtect = false)
    (ha : advanceMigrate s = none) (hh : handBlock s = none) (h : pumpStep s = some t) : NoneEnter s t := by
  have hclose : ∀ u : State, (closeOpen 7 u).rc = u.rc := fun u => (besideLanes_iff (closeOpen_beside 7 u)).2.2.2.2.1
  have hdrop : ∀ u : State, (dropRequest 7 u).rc = u.rc := fun u => (besideLanes_iff (dropRequest_beside 7 u)).2.2.2.2.1
  have hend : ∀ {t}, endHanding s = some t → NoneEnter s t := by
    intro t h
    simp only [endHanding, hj] at h
    split at h <;> cases h
    exact (NoneEnter.of_job (by rw [hclose, hdrop])).trans (.modJob _ (fun _ => .inl rfl))
  have hpause : ∀ {t}, pauseForProtect s = some t → NoneEnter s t := by
    intro t h
    simp only [pauseForProtect, hj] at h
    repeat' split at h
    all_goals cases h
    · exact .of_job (by rw [hclose])
    · exact .modJob _ (fun _ => .inl rfl)
  have hpass : ∀ {t}, endPass s = some t → NoneEnter s t := by
    intro t h
    simp only [endPass, hj] at h
    repeat' split at h
    all_goals cases h
    · exact NoneEnter.trans (.modJob s (fun _ => .inl (by exact rfl))) (beginPass_noneEnter _)
    · have hask : NoneEnter s (if j.advanced then requestCk s else s) := .of_job (by rw [(askCk_fields _ _).2.1])
      by_cases hg : s.goesOn j
      · rw [endCachePass_of_goesOn hg (by simp [Job.paused, hrun])]
        exact (hask.trans (.modJob _ (fun _ => .inr (by simp [Job.passed])))).trans (beginPass_noneEnter _)
      · rw [endCachePass_of_not hg]
        exact hask.trans (endJob_noneEnter _)
  have hresume : ∀ {t}, resumePass s = some t → NoneEnter s t := by
    intro t h
    simp only [resumePass, hj] at h
    repeat' split at h
    all_goals cases h
    exact beginPass_noneEnter _
  by_cases hg : s.gate = true ∧ s.holdsData = false
  · rw [pumpStep_of_gate hj hrun ha hg, firstStep_cons_none hh] at h
    obtain ⟨f, hf, hs⟩ := exists_of_firstStep h
    simp only [List.mem_cons, List.not_mem_nil, or_false] at hf
    obtain rfl | rfl := hf
    exacts [hend hs, hpause hs]
  · rw [pumpStep_of_open hj hrun ha hg, firstStep_cons_none hh] at h
    obtain ⟨f, hf, hs⟩ := exists_of_firstStep h
    simp only [List.mem_cons, List.not_mem_nil, or_false] at hf
    obtain rfl | rfl | rfl | rfl := hf
    exacts [makeSource_noneEnter hs, hend hs, hpass hs, hresume hs]

end Sys2Proof.Machine
end

section
/-! Handing to lane 7 (O43, R73, R83, R141). -/

namespace Sys2Proof.Machine

/-! ## The block at hand -/

/-- The best of a list that one member beats each other of. -/
theorem firstBest_eq {α : Type} {better : α → α → Bool} {l : List α} {m : α} (hm : m ∈ l)
    (h : ∀ x ∈ l, x = m ∨ better m x = true ∧ better x m = false) : firstBest better l = some m := by
  have key : ∀ (l : List α) (acc : Option α), (∀ x ∈ l, x = m ∨ better m x = true ∧ better x m = false) →
      (∀ y, acc = some y → y = m ∨ better m y = true ∧ better y m = false) → (m ∈ l ∨ acc = some m) →
      l.foldl (fun best x => match best with
        | some y => if better x y then some x else some y
        | none => some x) acc = some m := by
    intro l
    induction l with
    | nil => exact fun acc _ _ h => h.resolve_left (by simp)
    | cons x l ih =>
      intro acc hl hacc hin
      have hx := hl x (by simp)
      rw [List.foldl_cons]
      refine ih _ (fun y hy => hl y (by simp [hy])) ?_ ?_
      · intro y hy
        cases acc with
        | none =>
          cases hy
          exact hx
        | some z =>
          dsimp only at hy
          split at hy <;> cases hy
          · exact hx
          · exact hacc _ rfl
      · rcases hin with hin | rfl
        · rcases List.mem_cons.1 hin with rfl | hin
          · right
            cases acc with
            | none => rfl
            | some z =>
              dsimp only
              rcases hacc z rfl with rfl | hz
              · split <;> rfl
              · rw [if_pos hz.1]
          · exact .inl hin
        · right
          dsimp only
          rcases hx with rfl | hx
          · split <;> rfl
          · rw [if_neg (by simp [hx.2])]
  exact key l none h (by simp) (.inl hm)

/-- The block at hand is the HELD block of lowest LBA of the first segment with blocks not handed (R141). -/
theorem blockAtHand_eq {s : State} {m next : Move} {before after : List Move} (hmoves : s.moves = before ++ next :: after)
    (hb : ∀ x ∈ before, x.open = false) (hn : next.open = true) (hm : m ∈ s.moves) (hh : m.state = .held)
    (hseg : m.src.segment = next.src.segment)
    (hlow : ∀ x ∈ s.moves, x.state = .held → x.src.segment = next.src.segment → x = m ∨ m.lba < x.lba) :
    s.blockAtHand = some m := by
  have hfind : s.moves.find? Move.open = some next := by
    rw [hmoves, List.find?_append, List.find?_eq_none.2 (fun x hx => by simp [hb x hx]), List.find?_cons_of_pos hn]
    rfl
  unfold State.blockAtHand
  rw [hfind]
  refine firstBest_eq (List.mem_filter.2 ⟨hm, by simp [hh, hseg]⟩) (fun x hx => ?_)
  simp only [List.mem_filter, Bool.and_eq_true, decide_eq_true_eq] at hx
  rcases hlow x hx.1 hx.2.1 hx.2.2 with h | h
  · exact .inl h
  · exact .inr ⟨by simpa using h, by simp; omega⟩

theorem laneSevenTakes_iff (s : State) : s.laneSevenTakes = true ↔
    (s.lane 7).state ≠ .waiting ∧ (s.lane 7).state ≠ .faulted ∧
      ((∃ id, (s.lane 7).openFrame = some id ∧ (s.frame id).fill < 16) ∨
        (s.ck.dComplete < 2 * s.work.ckSegments ∧ .lane 7 ∉ s.pool.waitReclaim)) := by
  unfold State.laneSevenTakes State.hasSlot State.distanceHold State.waits
  cases (s.lane 7).openFrame <;> simp [and_assoc, Requester.cls, Pool.queue]

theorem wakeLaneSeven_of_opened {u : State} (h : (u.lane 7).state = .opened) (a : Actuator) : wakeLaneSeven a u = u := by
  have hl : u.lanes.modify 7 (fun c =>
      if c.state = .closed then { c with state := .opened, act := some a } else c) = u.lanes := by
    refine List.ext_getElem? (fun i => ?_)
    rw [List.getElem?_modify]
    by_cases hi : 7 = i
    · subst hi
      simp only [if_true]
      cases hc : u.lanes[7]? with
      | none => rfl
      | some c =>
        have hst : c.state = .opened := by simpa [State.lane, List.getD_eq_getElem?_getD, hc] using h
        simp [hst]
    · simp [hi]
  simp only [wakeLaneSeven, State.modLane, hl]

/-! ## One step of handing -/

section
variable {s : State} {j : Job} {m : Move} (hj : s.rc.job = some j) (hb : s.blockAtHand = some m)
  (ht : s.laneSevenTakes = true)
include hj hb

theorem handBlock_of_not_free (hno : ¬ s.laneSevenTakes = true) : handBlock s = none := by
  simp only [handBlock, hj, hb]
  exact if_pos (by simpa using hno)

include ht

theorem handBlock_dead (hc : s.isCurrent m = false) :
    handBlock s = some (tidySource m.src.segment (resolveMoves .dead (fun x => decide (x = m)) s)) := by
  simp only [handBlock, hj, hb, ht, hc]
  rfl

variable (hc : s.isCurrent m = true) (hop : (s.lane 7).state = .opened)
include hc hop

theorem handBlock_place {id : Nat} (hf : s.laneSevenFrame m = some id) : handBlock s = some (placeRelocation id m s) := by
  simp only [handBlock, hj, hb, ht, hc, wakeLaneSeven_of_opened hop, hf]
  rfl

theorem handBlock_close {id : Nat} (hf : s.laneSevenFrame m = none) (ho : (s.lane 7).openFrame = some id) :
    handBlock s = some (closeFrame 7 id s) := by
  simp only [handBlock, hj, hb, ht, hc, wakeLaneSeven_of_opened hop, hf, ho]
  rfl

theorem handBlock_open {id : Nat} {u : State} (ho : (s.lane 7).openFrame = none) (hu : openLaneSeven s = (true, u))
    (hi : (u.lane 7).openFrame = some id) : handBlock s = some (placeRelocation id m u) := by
  have hf : s.laneSevenFrame m = none := by simp [State.laneSevenFrame, ho]
  simp only [handBlock, hj, hb, ht, hc, wakeLaneSeven_of_opened hop, hf, ho, hu, hi]
  rfl

end

end Sys2Proof.Machine
end

section
/-! The placing of a block in lane 7's open frame (O43, R72, R73, R83, R141). -/

namespace Sys2Proof.Machine

/-! ## The source read entry a handing may delete -/

theorem State.frame_modFrame_ne (s : State) {i k : Nat} (f : Frame → Frame) (h : k ≠ i) :
    (s.modFrame i f).frame k = s.frame k := by
  simp [State.frame, State.modFrame, List.getD_eq_getElem?_getD, h.symm]

/-- The fields that the deletion of a source read entry leaves alone. -/
def State.besideSources (s : State) :=
  ((s.extents, s.earmarks, s.credit, s.frontOut), (s.ck, s.bm, s.lanes, s.rc.job))

theorem tidySource_besideSources (l : SegLoc) (s : State) : (tidySource l s).besideSources = s.besideSources := by
  have h : (deleteSource l s).besideSources = s.besideSources := by
    unfold deleteSource releaseHeld
    repeat' split
    all_goals rfl
  unfold tidySource
  repeat' split
  exacts [h, rfl, rfl]

theorem tidySource_frame {l : SegLoc} {s : State} {e : SourceRead} {d id : Nat} (he : s.source l = some e)
    (hd : e.frame = some d) (hne : id ≠ d) : (tidySource l s).frame id = s.frame id := by
  have h : (deleteSource l s).frame id = s.frame id := by
    simp only [deleteSource, he, hd]
    exact State.frame_modFrame_ne s _ hne
  simp only [tidySource, he]
  split
  · exact h
  · rfl

/-! ## The close of a full frame -/

/-- A close with no promise left stamps a bound frame, its runs kept (R76). -/
theorem closeFrame_frame {n id : Nat} {s : State} (hid : id < s.pool.frames.length) (hp : (s.frame id).promises = 0)
    (hb : (s.frame id).bound.isSome = true) :
    ((closeFrame n id s).frame id).closed = true ∧ ((closeFrame n id s).frame id).runs = (s.frame id).runs := by
  have hjoin : ∀ u : State, (joinQueue n id false u).frame id = u.frame id := fun u => by
    unfold joinQueue
    split <;> rfl
  have hstamp : ∀ u : State, id < u.pool.frames.length → (u.frame id).bound.isSome = true →
      ((stampFrame n id u).frame id).closed = true ∧ ((stampFrame n id u).frame id).runs = (u.frame id).runs := by
    intro u hu hl
    obtain ⟨l, hl⟩ := Option.isSome_iff_exists.1 hl
    unfold stampFrame
    simp only [hl]
    rw [State.frame_modFrame _ _ _ _ (by exact hu), if_pos rfl]
    exact ⟨rfl, rfl⟩
  have hseal : ∀ u : State, id < u.pool.frames.length → (u.frame id).bound.isSome = true →
      ((sealFrame n id u).frame id).closed = true ∧ ((sealFrame n id u).frame id).runs = (u.frame id).runs := by
    intro u hu hl
    have hm := State.frame_modFrame u id id
      (fun f => { f with payload := f.payload.take f.fill ++ List.replicate (16 - f.fill) 0 }) hu
    rw [if_pos rfl] at hm
    have h := hstamp (u.modFrame id
      (fun f => { f with payload := f.payload.take f.fill ++ List.replicate (16 - f.fill) 0 }))
      (by simpa using hu) (by rw [hm]; exact hl)
    rw [hm] at h
    unfold sealFrame
    dsimp only
    split
    · exact h
    · rw [hjoin]
      exact h
  have hlane : ∀ f, (s.modLane n f).frame id = s.frame id := fun _ => rfl
  unfold closeFrame
  dsimp only
  rw [hlane, if_pos hp]
  exact hseal _ hid hb

/-! ## A block placed (R83) -/

/-- What is left of `s` once the block `m` stands in the next slot of lane 7's frame `id`, which was `f`. -/
def State.Placed (s : State) (m : Move) (data : Block) (t : State) (id : Nat) (f : Frame) : Prop :=
  t.extents = s.extents ∧ t.earmarks = s.earmarks ∧ t.credit = s.credit ∧ t.frontOut = s.frontOut ∧
  t.moves = s.moves.map (fun x => if x = m then { x with state := .inLane } else x) ∧
  (f.fill < 15 → (t.lane 7).openFrame = some id ∧ t.frame id = { f with
    payload := f.payload.set f.fill data, fill := f.fill + 1, runs := extendRuns f.runs m.lba f.fill (some m.src) }) ∧
  (f.fill = 15 → s.lanes.length = 8 → (t.lane 7).openFrame = none ∧ (f.promises = 0 → f.bound.isSome →
    (t.frame id).closed = true ∧ (t.frame id).runs = extendRuns f.runs m.lba 15 (some m.src)))

/-- The frame with a block in its next slot. -/
def Frame.withBlock (m : Move) (data : Block) (f : Frame) : Frame :=
  { f with payload := f.payload.set f.fill data, fill := f.fill + 1, runs := extendRuns f.runs m.lba f.fill (some m.src) }

/-- The state with a block in the next slot of lane 7's frame, before a full frame closes. -/
def putBlock (id : Nat) (m : Move) (s : State) : State :=
  (s.modFrame id (Frame.withBlock m (s.heldBytes m))).modJob
    (fun j => { j with moves := j.moves.map (fun x => if x = m then { x with state := .inLane } else x) })

theorem placeRelocation_eq (id : Nat) (m : Move) (s : State) : placeRelocation id m s =
    tidySource m.src.segment (if (s.frame id).fill = 15 then closeFrame 7 id (putBlock id m s) else putBlock id m s) := by
  have hfill : (s.modFrame id (fun f => { f with
        payload := f.payload.set (s.frame id).fill (s.heldBytes m), fill := (s.frame id).fill + 1,
        runs := extendRuns f.runs m.lba (s.frame id).fill (some m.src) })) =
      s.modFrame id (Frame.withBlock m (s.heldBytes m)) := by
    have hl : s.pool.frames.modify id (fun f => { f with
          payload := f.payload.set (s.frame id).fill (s.heldBytes m), fill := (s.frame id).fill + 1,
          runs := extendRuns f.runs m.lba (s.frame id).fill (some m.src) }) =
        s.pool.frames.modify id (Frame.withBlock m (s.heldBytes m)) := by
      refine List.ext_getElem? (fun i => ?_)
      simp only [List.getElem?_modify]
      by_cases hi : id = i
      · subst hi
        cases hf : s.pool.frames[id]? with
        | none => rfl
        | some f => simp [State.frame, List.getD_eq_getElem?_getD, hf, Frame.withBlock]
      · simp [hi]
    simp only [State.modFrame, hl]
  simp only [placeRelocation, hfill, putBlock]

theorem moves_putBlock (id : Nat) (m : Move) (s : State) :
    (putBlock id m s).moves = s.moves.map (fun x => if x = m then { x with state := .inLane } else x) := by
  rw [putBlock, moves_modJob, State.moves]
  cases h : s.rc.job <;> simp [State.modFrame, h]

theorem placeRelocation_placed {s : State} {m : Move} {e : SourceRead} {d id : Nat} (he : s.source m.src.segment = some e)
    (hd : e.frame = some d) (hne : id ≠ d) (hid : id < s.pool.frames.length) (ho : (s.lane 7).openFrame = some id) :
    s.Placed m ((s.frame d).payload.getD m.src.slot 0) (placeRelocation id m s) id (s.frame id) ∧
      (placeRelocation id m s).bm = s.bm ∧ (placeRelocation id m s).ck = s.ck := by
  have hdata : s.heldBytes m = (s.frame d).payload.getD m.src.slot 0 := by
    simp [State.heldBytes, he, hd]
  have hput : (putBlock id m s).frame id = (s.frame id).withBlock m ((s.frame d).payload.getD m.src.slot 0) := by
    have h := State.frame_modFrame s id id (Frame.withBlock m (s.heldBytes m)) hid
    rw [if_pos rfl] at h
    exact h.trans (by rw [hdata])
  have hsrc : (putBlock id m s).source m.src.segment = some e := he
  rw [placeRelocation_eq]
  by_cases hf : (s.frame id).fill = 15
  · rw [if_pos hf]
    have hb := closeFrame_beside 7 id (putBlock id m s)
    obtain ⟨h1, h2, h3, h4, h5, h6, h7⟩ := besideLanes_iff hb
    have ht := tidySource_besideSources m.src.segment (closeFrame 7 id (putBlock id m s))
    simp only [State.besideSources, Prod.mk.injEq] at ht
    obtain ⟨⟨t1, t2, t3, t4⟩, t5, t6, t7, t8⟩ := ht
    have hsrc' : (closeFrame 7 id (putBlock id m s)).source m.src.segment = some e := by
      rw [State.source, h5]
      exact hsrc
    refine ⟨⟨t1.trans h1, t2.trans h2, t3.trans h3, t4.trans h4, ?_, fun h => by omega,
      fun _ h8 => ⟨?_, fun hp hbd => ?_⟩⟩,
      t6.trans h7, t5.trans h6⟩
    · rw [State.moves, t8, h5]
      exact moves_putBlock id m s
    · have hl := closeFrame_laneFrames (n := 7) (id := id) (s := putBlock id m s) (show 7 < s.lanes.length by omega)
      simp only [State.laneFrames, Prod.mk.injEq] at hl
      rw [State.lane, t7]
      exact hl.1
    · rw [tidySource_frame hsrc' hd hne]
      have hlen : id < (putBlock id m s).pool.frames.length := by simpa [putBlock, State.modJob] using hid
      have hc := closeFrame_frame (n := 7) hlen (by rw [hput]; exact hp) (by rw [hput]; exact hbd)
      rw [hput] at hc
      refine ⟨hc.1, hc.2.trans ?_⟩
      simp [Frame.withBlock, hf]
  · rw [if_neg hf]
    have ht := tidySource_besideSources m.src.segment (putBlock id m s)
    simp only [State.besideSources, Prod.mk.injEq] at ht
    obtain ⟨⟨t1, t2, t3, t4⟩, t5, t6, t7, t8⟩ := ht
    refine ⟨⟨t1, t2, t3, t4, ?_, fun _ => ⟨?_, ?_⟩, fun h => absurd h hf⟩, t6, t5⟩
    · rw [State.moves, t8]
      exact moves_putBlock id m s
    · rw [State.lane, t7]
      exact ho
    · rw [tidySource_frame hsrc hd hne, hput]
      rfl

/-! ## Opening the granted frame (R45, R72) -/

theorem countDataSegment_fields (s : State) : (countDataSegment s).ck.dComplete = s.ck.dComplete + 1 ∧
    (countDataSegment s).rc = s.rc ∧ (countDataSegment s).pool = s.pool ∧ (countDataSegment s).bm = s.bm ∧
    (countDataSegment s).lanes = s.lanes ∧ (countDataSegment s).extents = s.extents ∧
    (countDataSegment s).earmarks = s.earmarks ∧ (countDataSegment s).credit = s.credit ∧
    (countDataSegment s).frontOut = s.frontOut := by
  unfold countDataSegment
  dsimp only
  split <;> exact ⟨rfl, rfl, rfl, rfl, rfl, rfl, rfl, rfl, rfl⟩

/-- The state with the next segment of the band reserved, which a full reservation takes from the lane (R45). -/
def takeSegment (a : Actuator) (b : Nat) (s : State) : State :=
  s.modBand a b (fun r =>
    if r.reserved + 1 = s.spb then
      { r with reserved := r.reserved + 1, bound := r.bound + 1, state := .draining, owner := none }
    else { r with reserved := r.reserved + 1, bound := r.bound + 1 })

theorem reserveHeld_eq {s : State} {n : Nat} {a : Actuator} {b : Nat} (hst : (s.bandRec a b).state = .opened)
    (hown : (s.bandRec a b).owner = some n) (hres : (s.bandRec a b).reserved < s.spb) :
    reserveHeld n a b s = (some ⟨a, .band, b, (s.bandRec a b).reserved⟩,
      if ((takeSegment a b s).bandRec a b).state = .opened then takeSegment a b s
      else (takeSegment a b s).modLane n (fun c => { c with band := none })) := by
  have hr : reserveSegment n a b s = (some (s.bandRec a b).reserved, takeSegment a b s) := by
    simp only [reserveSegment]
    exact if_pos ⟨hst, hown, hres⟩
  simp only [reserveHeld, hr]

/-- What binding a frame as lane 7's open frame does (R72, R154). -/
theorem openFrame_seven {s : State} {id ctr : Nat} {loc : SegLoc} (h8 : s.lanes.length = 8) (hid : id < s.pool.frames.length) :
    let u := openFrame 7 id loc ctr s
    (u.lane 7).openFrame = some id ∧ u.lanes.length = 8 ∧
      (u.extents = s.extents ∧ u.earmarks = s.earmarks ∧ u.credit = s.credit ∧ u.frontOut = s.frontOut ∧ u.rc = s.rc) ∧
      u.pool.frames.length = s.pool.frames.length ∧ (∀ k, k ≠ id → u.frame k = s.frame k) ∧
      u.frame id = { s.frame id with bound := some loc, ringCtr := ctr } ∧ u.bm = s.bm ∧
      u.ck.dComplete = s.ck.dComplete + 1 := by
  intro u
  let bind : Frame → Frame := fun f => { f with bound := some loc, ringCtr := ctr }
  let enter : Lane → Lane := fun c => { c with openFrame := some id, granted := none, idleTimer := none, state :=
    if c.state = .closed then .opened else c.state, lastAccept := if c.state = .closed then some s.now else c.lastAccept }
  have hu : u = countDataSegment ((s.modFrame id bind).modLane 7 enter) := rfl
  obtain ⟨c1, c2, c3, c4, c5, c6, c7, c8, c9⟩ := countDataSegment_fields ((s.modFrame id bind).modLane 7 enter)
  rw [← hu] at c1 c2 c3 c4 c5 c6 c7 c8 c9
  have hframe : ∀ k, u.frame k = (s.modFrame id bind).frame k := fun k => by rw [State.frame, c3]; rfl
  refine ⟨?_, ?_, ⟨c6, c7, c8, c9, c2⟩, ?_, fun k hk => (hframe k).trans (State.frame_modFrame_ne s _ hk), ?_, c4, c1⟩
  · rw [State.lane, c5]
    have h := State.lane_modLane (s.modFrame id bind) 7 7 enter (show 7 < s.lanes.length by omega)
    rw [if_pos rfl] at h
    exact congrArg Lane.openFrame h
  · rw [c5]
    simpa using h8
  · rw [c3]
    simp
  · rw [hframe, State.frame_modFrame _ _ _ _ hid, if_pos rfl]

/-- What lane 7's opening of its granted frame on the band it holds leaves, binds and counts (R72, R83). -/
theorem openLaneSeven_granted {s : State} {a : Actuator} {id b : Nat} (ho : (s.lane 7).openFrame = none)
    (hg : (s.lane 7).granted = some id) (hid : id < s.pool.frames.length) (h8 : s.lanes.length = 8)
    (hact : (s.lane 7).act = some a) (hband : (s.lane 7).band = some b) (hb : b < (s.bm.get a).bands.length)
    (hst : (s.bandRec a b).state = .opened) (hown : (s.bandRec a b).owner = some 7)
    (hres : (s.bandRec a b).reserved < s.spb) (hd : s.ck.dComplete < 2 * s.work.ckSegments) :
    ∃ u, openLaneSeven s = (true, u) ∧ (u.lane 7).openFrame = some id ∧ u.lanes.length = 8 ∧
      (u.extents = s.extents ∧ u.earmarks = s.earmarks ∧ u.credit = s.credit ∧ u.frontOut = s.frontOut ∧ u.rc = s.rc) ∧
      u.pool.frames.length = s.pool.frames.length ∧ (∀ k, k ≠ id → u.frame k = s.frame k) ∧
      u.frame id = { s.frame id with bound := some ⟨a, .band, b, (s.bandRec a b).reserved⟩, ringCtr := 0 } ∧
      (u.bandRec a b).reserved = (s.bandRec a b).reserved + 1 ∧ (u.bandRec a b).bound = (s.bandRec a b).bound + 1 ∧
      u.ck.dComplete = s.ck.dComplete + 1 := by
  obtain ⟨v, hv, hvl, ⟨h1, h2, h3, h4, h5⟩, hpool, hck, hbm⟩ : ∃ v,
      reserveHeld 7 a b s = (some ⟨a, .band, b, (s.bandRec a b).reserved⟩, v) ∧
      ((v.lane 7).openFrame = none ∧ v.lanes.length = 8) ∧
      (v.extents = s.extents ∧ v.earmarks = s.earmarks ∧ v.credit = s.credit ∧ v.frontOut = s.frontOut ∧ v.rc = s.rc) ∧
      v.pool = s.pool ∧ v.ck = s.ck ∧ v.bm = (takeSegment a b s).bm := by
    refine ⟨_, reserveHeld_eq hst hown hres, ?_⟩
    split
    · exact ⟨⟨ho, h8⟩, ⟨rfl, rfl, rfl, rfl, rfl⟩, rfl, rfl, rfl⟩
    · refine ⟨⟨(modLane_keeps Lane.openFrame (by exact fun _ => rfl) _ _ _).trans ho, ?_⟩,
        ⟨rfl, rfl, rfl, rfl, rfl⟩, rfl, rfl, rfl⟩
      simpa [takeSegment] using h8
  have hloc : laneLocation 7 s = (some (⟨a, .band, b, (s.bandRec a b).reserved⟩, 0), v) := by
    simp [laneLocation, bandSegment, hact, hband, hv]
  have hopen : openLaneSeven s = (true, openFrame 7 id ⟨a, .band, b, (s.bandRec a b).reserved⟩ 0 v) := by
    have hc : closeOpen 7 v = v := by simp only [closeOpen, hvl.1]
    have hhold : s.distanceHold = false := by simpa [State.distanceHold] using hd
    simp [openLaneSeven, hhold, laneFrame, hg, hloc, hc]
  have hrec : (takeSegment a b s).bandRec a b = if (s.bandRec a b).reserved + 1 = s.spb then
      { s.bandRec a b with reserved := (s.bandRec a b).reserved + 1, bound := (s.bandRec a b).bound + 1,
                           state := .draining, owner := none }
      else { s.bandRec a b with reserved := (s.bandRec a b).reserved + 1, bound := (s.bandRec a b).bound + 1 } := by
    rw [takeSegment, State.bandRec_modBand _ _ _ _ _ hb, if_pos rfl]
  obtain ⟨u1, u2, ⟨e1, e2, e3, e4, e5⟩, u4, u5, u6, u7, u8⟩ :=
    openFrame_seven (loc := ⟨a, .band, b, (s.bandRec a b).reserved⟩) (ctr := 0) hvl.2 (hid.trans_eq (by rw [hpool]))
  have hframe : ∀ k, v.frame k = s.frame k := fun k => by rw [State.frame, hpool]; rfl
  have hband : (openFrame 7 id ⟨a, .band, b, (s.bandRec a b).reserved⟩ 0 v).bandRec a b =
      (takeSegment a b s).bandRec a b := by
    rw [State.bandRec, u7, hbm]
    rfl
  refine ⟨_, hopen, u1, u2, ⟨e1.trans h1, e2.trans h2, e3.trans h3, e4.trans h4, e5.trans h5⟩, u4.trans (by rw [hpool]),
    fun k hk => (u5 k hk).trans (hframe k), by rw [u6, hframe], ?_, ?_, by rw [u8, hck]⟩
  · rw [hband, hrec]
    split <;> rfl
  · rw [hband, hrec]
    split <;> rfl

end Sys2Proof.Machine
end

section
/-! The pump's step at a block at hand (O43, R73, R83, R141), and when a cache job goes on (R133). -/

namespace Sys2Proof.Machine

/-! ## The block at hand -/

section
variable {s : State} {j : Job} {m : Move} (hj : s.rc.job = some j) (hrun : j.pausePort = false ∧ j.pauseProtect = false)
  (ha : advanceMigrate s = none) (hb : s.blockAtHand = some m) (ht : s.laneSevenTakes = true)
include hj hrun ha hb ht

/-- A block no longer at its source is DEAD (R141). -/
theorem pumpStep_dead (hc : lookup s.extents m.lba ≠ .media m.src) :
    ∃ t, pumpStep s = some t ∧ t.extents = s.extents ∧ t.lanes = s.lanes ∧
      t.moves = j.moves.map (fun x => if x = m then { x with state := .dead } else x) := by
  refine ⟨_, pumpStep_of_hand hj hrun ha (handBlock_dead hj hb ht (by simpa [State.isCurrent] using hc)), ?_⟩
  have h := tidySource_besideSources m.src.segment (resolveMoves .dead (fun x => decide (x = m)) s)
  simp only [State.besideSources, Prod.mk.injEq] at h
  obtain ⟨⟨hx, -, -, -⟩, -, -, hl, hjob⟩ := h
  obtain ⟨j', hj', hm⟩ := resolveMoves_job (st := .dead) (p := fun x => decide (x = m)) hj
  refine ⟨hx, hl, ?_⟩
  rw [moves_of_job (hjob.trans hj'), hm]
  simp only [decide_eq_true_eq]

variable (hc : lookup s.extents m.lba = .media m.src) (hop : (s.lane 7).state = .opened)
include hc hop

/-- A block the open frame can take is placed there (R83). -/
theorem pumpStep_place {e : SourceRead} {d id : Nat} (he : s.source m.src.segment = some e) (hd : e.frame = some d)
    (ho : (s.lane 7).openFrame = some id) (hne : id ≠ d) (hid : id < s.pool.frames.length) (hf : (s.frame id).fill < 16)
    (hn : needsNinthRun (s.frame id).runs m.lba (some m.src) = false) :
    ∃ t, pumpStep s = some t ∧ s.Placed m ((s.frame d).payload.getD m.src.slot 0) t id (s.frame id) := by
  have hseven : s.laneSevenFrame m = some id := by simp [State.laneSevenFrame, ho, hf, hn]
  exact ⟨_, pumpStep_of_hand hj hrun ha (handBlock_place hj hb ht (by simpa [State.isCurrent] using hc) hop hseven),
    (placeRelocation_placed he hd hne hid ho).1⟩

/-- A frame in which the block would need a ninth run closes first (R73). -/
theorem pumpStep_ninth {id : Nat} (ho : (s.lane 7).openFrame = some id)
    (hn : needsNinthRun (s.frame id).runs m.lba (some m.src) = true) :
    ∃ t, pumpStep s = some t ∧ t.extents = s.extents ∧ t.moves = j.moves ∧
      (s.lanes.length = 8 → (t.lane 7).openFrame = none) := by
  have hseven : s.laneSevenFrame m = none := by simp [State.laneSevenFrame, ho, hn]
  obtain ⟨hx, -, -, -, hrc, -, -⟩ := besideLanes_iff (closeFrame_beside 7 id s)
  refine ⟨_, pumpStep_of_hand hj hrun ha (handBlock_close hj hb ht (by simpa [State.isCurrent] using hc) hop hseven ho), hx,
    by rw [State.moves, hrc, hj]; rfl, fun h8 => ?_⟩
  have hl := closeFrame_laneFrames (n := 7) (id := id) (s := s) (by omega)
  simp only [State.laneFrames, Prod.mk.injEq] at hl
  exact hl.1

/-- Where no frame is open the frame granted is opened in lane 7's band and takes the block (R72, R83). -/
theorem pumpStep_open {e : SourceRead} {d id b : Nat} (he : s.source m.src.segment = some e) (hd : e.frame = some d)
    (ho : (s.lane 7).openFrame = none) (hg : (s.lane 7).granted = some id) (hne : id ≠ d) (hid : id < s.pool.frames.length)
    (h8 : s.lanes.length = 8) (hact : (s.lane 7).act = some j.act) (hband : (s.lane 7).band = some b)
    (hbl : b < (s.bm.get j.act).bands.length) (hst : (s.bandRec j.act b).state = .opened)
    (hown : (s.bandRec j.act b).owner = some 7) (hres : (s.bandRec j.act b).reserved < s.spb)
    (hdist : s.ck.dComplete < 2 * s.work.ckSegments) :
    ∃ t, pumpStep s = some t ∧ s.Placed m ((s.frame d).payload.getD m.src.slot 0) t id
        { s.frame id with bound := some ⟨j.act, .band, b, (s.bandRec j.act b).reserved⟩, ringCtr := 0 } ∧
      (t.bandRec j.act b).reserved = (s.bandRec j.act b).reserved + 1 ∧
      (t.bandRec j.act b).bound = (s.bandRec j.act b).bound + 1 ∧ t.ck.dComplete = s.ck.dComplete + 1 := by
  obtain ⟨u, hu, u1, u2, ⟨e1, e2, e3, e4, e5⟩, u4, u5, u6, u7, u8, u9⟩ :=
    openLaneSeven_granted ho hg hid h8 hact hband hbl hst hown hres hdist
  have hsrc : u.source m.src.segment = some e := by rw [State.source, e5]; exact he
  obtain ⟨⟨p1, p2, p3, p4, p5, p6, p7⟩, hbm, hck⟩ := placeRelocation_placed hsrc hd hne (by rw [u4]; exact hid) u1
  rw [u5 d (Ne.symm hne), u6] at p6
  rw [u6] at p7
  have hmoves : u.moves = s.moves := by rw [State.moves, e5]; rfl
  have hrec : (placeRelocation id m u).bandRec j.act b = u.bandRec j.act b := by rw [State.bandRec, hbm]; rfl
  refine ⟨_, pumpStep_of_hand hj hrun ha (handBlock_open hj hb ht (by simpa [State.isCurrent] using hc) hop ho hu u1),
    ⟨p1.trans e1, p2.trans e2, p3.trans e3, p4.trans e4, p5.trans (by rw [hmoves]), p6, fun hf _ => p7 hf u2⟩, ?_, ?_, ?_⟩
  · rw [hrec, u7]
  · rw [hrec, u8]
  · rw [hck, u9]

end

/-! ## Whether a cache job goes on (R133, R145) -/

theorem goesOn_iff (s : State) (j : Job) : s.goesOn j ↔ 0 < (s.ring j.act).live ∧
    ((j.trigger = .cacheHigh ∧ s.cacheHighOn j.act = true) ∨ (j.trigger = .idle ∧ s.idleOn j.act = true)) ∧
    ¬ ((∃ a, s.urgentOn a = true) ∨ s.mapPressure = true ∨
      (j.trigger = .idle ∧ ((∃ a, s.cacheHighOn a = true) ∨ ∃ a, s.pressureOn a = true))) := by
  have hex : ∀ f : Actuator → Bool, (∃ a, f a = true) ↔ f .A = true ∨ f .B = true := fun f =>
    ⟨fun ⟨a, h⟩ => by cases a <;> simp [h], fun h => h.elim (fun h => ⟨_, h⟩) (fun h => ⟨_, h⟩)⟩
  simp only [State.goesOn, hex]
  cases h : j.trigger with
  | urgent => simp [State.ownTrigger, h]
  | map => simp [State.ownTrigger, h]
  | pressure => simp [State.ownTrigger, h]
  | cacheHigh => simp [State.ownTrigger, h, Trigger.earlier, State.triggerHolds]
  | idle => simp [State.ownTrigger, h, Trigger.earlier, State.triggerHolds, and_assoc]

end Sys2Proof.Machine
end

section
/-! RECLAIM_COMMIT and the reclaim job (O43). -/

namespace Sys2Proof.Machine

/-- Settles O43: the commit slot by slot, the job's marks and its advance, and then each step of the pump in its order. -/
theorem commitLeavesTheQueue : Obligations.CommitLeavesTheQueue := by
  refine ⟨?_, ?_, ?_⟩
  · intro s id rest l hq hb f slots moved upTo
    have hmoved : moved = slotMap f l := rfl
    have hup : ∀ n, upTo n = slotsMap f l (slotsFrom s.rc.commitAt n) (lookup s.extents) := fun n => by
      show (slotsFrom s.rc.commitAt n).foldl moved _ = _
      rw [hmoved]
      rfl
    have hexec : exec .reclaimCommit s = .next (settle (commitHead s)) := rfl
    refine ⟨fun ht hf h34 => ?_, fun ht hf => ?_, fun lba src hat hv h1 h2 h => ?_⟩
    · have hset := settle_commits (commitHead s)
      simp only [State.commits, Prod.mk.injEq] at hset
      rcases commitHead_done hq hb ht hf with ⟨-, h1, h2⟩ | ⟨n, -, -, -, -, -, hlow⟩
      · exact ⟨_, hexec, hset.1.trans h1, hset.2.trans h2⟩
      · omega
    · have hmoves : ∀ {n}, CommitDone f l n s (commitHead s) → ∀ j j',
          s.rc.job = some j → (commitHead s).rc.job = some j' →
          j'.moves = j.moves.map (fun m =>
            match (slots n).find? (fun k => decide (runsLba f.runs k = some m.lba ∧ runsSource f.runs k = some m.src)) with
            | some k =>
              if m.state = .inLane then
                { m with state := if f.void.getLsbD k = false ∧ upTo k m.lba = .media m.src then .committed else .dead }
              else m
            | none => m) := by
        intro n hd j j' hj hj'
        rw [hd.moves j j' hj hj']
        refine List.map_congr_left (fun m _ => ?_)
        rw [slotsVerdict_slotsFrom]
        simp only [hup]
        rfl
      refine ⟨commitHead s, hexec, ?_, ?_⟩
      · rcases commitHead_done hq hb ht hf with ⟨hd, -⟩ | ⟨n, -, hd, -⟩
        · exact fun hun => (settle_work (hd.unfaulted hun)).extents
        · exact fun hun => (settle_work (hd.unfaulted hun)).extents
      · rcases commitHead_done hq hb ht hf with ⟨hd, h1, h2⟩ | ⟨n, hn, hd, h1, h2, h3, hlow⟩
        · exact ⟨f.fill, le_refl _, fun x => by rw [hup, hd.map], .inl ⟨rfl, h1, h2⟩, fun _ => rfl, hmoves hd⟩
        · exact ⟨n, le_of_lt hn, fun x => by rw [hup, hd.map], .inr ⟨hn, h1, h2, h3⟩, fun h => by omega, hmoves hd⟩
    · rw [hexec, commitHead_waits hq hb hat hv h1 h2 h]
  · intro s j hj left
    refine ⟨fun st p => ?_, fun hv => ?_⟩
    · obtain ⟨j', hjob, hmoves, hsegs⟩ := resolveMoves_marks hj st p
      refine ⟨j', hjob, hmoves, by rw [hsegs]; exact markedSegs_fst _ _ _, fun k x hk => ?_⟩
      obtain ⟨marked, hat, hmark⟩ := markedSegs_getElem? (moves := j'.moves) hk
      simp only [Move.settled_iff] at hmark
      exact ⟨marked, by rw [hsegs]; exact hat, hmark⟩
    · refine ⟨fun hp => ⟨_, pumpStep_of_advance hj (advanceMigrate_of_passes hj hv hp), ?_⟩,
        fun hp => advanceMigrate_of_not hj hp⟩
      refine ⟨?_, ?_, by simp [State.modJob, hj], rfl, rfl, rfl⟩
      · exact State.ring_modRing s j.act (fun r => { r with migrateHead := (s.ring j.act).migrateHead + 1 })
      · cases h : j.act <;> rfl
  · intro s j hj hport hprot ha waits free done
    have hrun : j.pausePort = false ∧ j.pauseProtect = false := ⟨hport, hprot⟩
    have hopen : ∀ m : Move, m.open = true ↔ waits m := Move.open_iff
    have hfree : s.laneSevenTakes = true ↔ free := laneSevenTakes_iff s
    have hnone : ∀ {l : List Move}, (∀ m ∈ l, ¬ waits m) → ∀ m ∈ l, m.open = false := fun h m hm => by
      simpa using mt (hopen m).1 (h m hm)
    refine ⟨fun hno t h => ?_, ?_, ?_, ?_, ?_⟩
    · have hh : handBlock s = none := by
        cases hb : s.blockAtHand with
        | none => simp only [handBlock, hj, hb]
        | some m => exact handBlock_of_not_free hj hb (mt hfree.1 hno)
      rw [← moves_of_job hj]
      exact pumpStep_noneEnter hj hrun ha hh h
    · intro hyes m before next after hmoves hbefore hnext hm hheld hseg hlow e d he hd data inLane placed
      rw [← moves_of_job hj] at hmoves hm hlow
      have hb := blockAtHand_eq hmoves (hnone hbefore) ((hopen next).2 hnext) hm hheld hseg hlow
      have ht := hfree.2 hyes
      have hplaced : ∀ t id f, s.Placed m data t id f → placed t id f := fun t id f h => by
        rw [State.Placed, moves_of_job hj] at h
        exact h
      refine ⟨fun hc => pumpStep_dead hj hrun ha hb ht hc,
        fun hc hop => ⟨fun id ho hne hid hf => ⟨fun hn => ?_, fun hn => ?_⟩,
        fun id b seg ho hg hne hid h8 hfill hruns hact hband hbl hst hown hres hlt hdist => ?_⟩⟩
      · obtain ⟨t, h, hp⟩ := pumpStep_place hj hrun ha hb ht hc hop he hd ho hne hid hf hn
        exact ⟨t, h, hplaced _ _ _ hp⟩
      · exact pumpStep_ninth hj hrun ha hb ht hc hop ho hn
      · subst hres
        obtain ⟨t, h, hp, hrest⟩ :=
          pumpStep_open hj hrun ha hb ht hc hop he hd ho hg hne hid h8 hact hband hbl hst hown hlt hdist
        exact ⟨t, h, hplaced _ _ _ hp, hrest⟩
    · intro hr htold hm hs
      have hclosed := hnone hm
      have hst : ∀ m ∈ s.moves, m.state ≠ .pending ∧ m.state ≠ .held := fun m h => by
        have := hm m (by rwa [← moves_of_job hj])
        exact not_or.1 this
      exact ⟨_, pumpStep_of_endHanding hj hrun ha (handBlock_of_not_held (fun m h => (hst m h).2))
        (makeSource_of_not_pending (fun m h => (hst m h).1)) (endHanding_of_over hj hr htold hclosed hs), tellEnd_spec s hj⟩
    · intro hg hs hm h
      have hdata : s.holdsData = false := by
        simpa [State.holdsData] using hs
      rw [pumpStep_of_gate hj hrun ha ⟨hg, hdata⟩, firstStep_cons_none
        (handBlock_of_not_held (fun m hin => hm m (by rwa [← moves_of_job hj]))), firstStep_cons_none (endHanding_of_not hj ?_),
        firstStep_singleton]
      simpa only [hopen] using h
    · intro hg hr htold hm
      have hpump := pumpStep_of_over hj hrun ha hg hr htold (fun m h => (Move.resolved_iff m).2 (hm m h))
      refine ⟨fun v hv => ?_, fun hv => ?_⟩
      · rw [if_pos (by simp [hv])] at hpump
        exact hpump.trans (congrArg some (nextBandPass_eq hj hv))
      · intro up live urgent high pressure own earlier
        have hpaused : j.paused = false := by simp [Job.paused, hrun]
        obtain ⟨hring, hx, hw⟩ := endCachePass_beside (s := s) hpaused
        have hurgent : ∀ a, s.urgentOn a = true ↔ urgent a := fun a => by simp [State.urgentOn, urgent, up]
        have hhigh : ∀ a, s.cacheHighOn a = true ↔ high a := fun a => by
          simp only [State.cacheHighOn, Bool.and_eq_true, decide_eq_true_eq, and_assoc]
          rfl
        have hpressure : ∀ a, s.pressureOn a = true ↔ pressure a := fun a => by simp [State.pressureOn, pressure, up]
        have hgo : s.goesOn j ↔ 0 < live j.act ∧ own ∧ ¬ earlier := by
          rw [goesOn_iff]
          simp only [hurgent, hhigh, hpressure]
          refine and_congr_right (fun hl => ?_)
          have hidle : s.idleOn j.act = true ↔ s.work.idleMigrate ≠ 0 ∧ s.rc.idleExpired = true ∧ up j.act = true := by
            simp [State.idleOn, up, and_assoc, hl]
          rw [hidle]
        refine ⟨endCachePass j s, by rw [hpump, hv]; rfl, hring, hx, hw, fun h => ?_, fun h => ?_⟩
        · exact endCachePass_goesOn hj hv hpaused (hgo.2 h)
        · exact endCachePass_ends (mt hgo.1 h)

end Sys2Proof.Machine
end

section
/-! The counters of the cache rings (O10, O40, R57 to R63): what advancing free_head does, and what an operation has to
leave alone for the rings to stay in order. -/

namespace Sys2Proof.Machine

/-! ## free_head (R61, R62) -/

/-- Where free_head stands after it has moved toward the free target (R62). -/
def Ring.freed (r : Ring) : Nat :=
  (r.pins.filter (fun p => decide (r.freeHead ≤ p.1))).foldl (fun m p => min m p.1) (max r.freeHead r.freeTarget)

/-- The least of a bound and the counter values of a pin list. -/
theorem foldl_min_spec (l : List (Nat × Nat)) (m : Nat) :
    l.foldl (fun m p => min m p.1) m ≤ m ∧ (∀ p ∈ l, l.foldl (fun m p => min m p.1) m ≤ p.1) ∧
    (l.foldl (fun m p => min m p.1) m = m ∨ ∃ p ∈ l, l.foldl (fun m p => min m p.1) m = p.1) := by
  induction l generalizing m with
  | nil => simp
  | cons p l ih =>
    obtain ⟨hle, hpins, heq⟩ := ih (min m p.1)
    rw [List.foldl_cons]
    refine ⟨by omega, fun q hq => ?_, ?_⟩
    · rcases List.mem_cons.1 hq with rfl | hq
      · omega
      · exact hpins q hq
    · rcases heq with heq | ⟨q, hq, heq⟩
      · rcases min_choice m p.1 with h | h
        · exact .inl (heq.trans h)
        · exact .inr ⟨p, by simp, heq.trans h⟩
      · exact .inr ⟨q, by simp [hq], heq⟩

theorem Ring.freed_le (r : Ring) : r.freed ≤ max r.freeHead r.freeTarget := (foldl_min_spec _ _).1

theorem Ring.freed_le_pin (r : Ring) {p : Nat × Nat} (hp : p ∈ r.pins) (h : r.freeHead ≤ p.1) : r.freed ≤ p.1 :=
  (foldl_min_spec _ _).2.1 p (List.mem_filter.2 ⟨hp, by simpa using h⟩)

/-- free_head reaches its target, or stops at a pin at or above where it stood. -/
theorem Ring.freed_eq (r : Ring) : r.freed = max r.freeHead r.freeTarget ∨ ∃ p ∈ r.pins, r.freeHead ≤ p.1 ∧ r.freed = p.1 := by
  refine (foldl_min_spec _ _).2.2.imp_right (fun ⟨p, hp, h⟩ => ?_)
  obtain ⟨hp, hle⟩ := List.mem_filter.1 hp
  exact ⟨p, hp, by simpa using hle, h⟩

theorem Ring.le_freed (r : Ring) : r.freeHead ≤ r.freed := by
  rcases r.freed_eq with h | ⟨p, -, hle, h⟩ <;> omega

theorem evalLatch_bm (a : Actuator) (s : State) : (evalLatch a s).bm = s.bm := by
  unfold evalLatch
  dsimp only
  repeat' split
  all_goals rfl

theorem advanceFree_ring (a : Actuator) (s : State) :
    (advanceFree a s).ring a = { s.ring a with freeHead := (s.ring a).freed } := by
  rw [State.ring, advanceFree, evalLatch_bm]
  exact State.ring_modRing s a _

theorem advanceFree_ring_other (a : Actuator) (s : State) : (advanceFree a s).ring (other a) = s.ring (other a) := by
  rw [State.ring, advanceFree, evalLatch_bm, State.modRing, State.modMgr, Two.get_modify_other]
  rfl

/-- Settles O40: free_head takes the least of its target and the pins at or above it. -/
theorem freeHeadStopsAtPin : Obligations.FreeHeadStopsAtPin := by
  intro s a r r'
  have hr : r' = { r with freeHead := r.freed } := advanceFree_ring a s
  rw [hr]
  exact ⟨⟨r.le_freed, r.freed_le⟩, fun p hp => r.freed_le_pin hp, r.freed_eq.imp_right (fun ⟨p, hp, _, h⟩ => ⟨p, hp, h⟩), rfl,
    advanceFree_ring_other a s⟩

/-! ## Rings in order (R57, R63) -/

/-- The counters of a cache ring of m segments stand in order, and no more than m segments are in use (R57). -/
def Ring.Ordered (m : Nat) (r : Ring) : Prop :=
  r.freeHead ≤ r.freeTarget ∧ r.freeTarget ≤ r.migrateHead ∧ r.migrateHead ≤ r.tail ∧ r.tail - r.freeHead ≤ m

/-- The counters that the running checkpoint captured (R63). -/
def State.captures (s : State) : Option (Two Captured) := s.ck.run.map (fun r => r.captured)

theorem ringsOk_iff {s : State} : RingsOk s ↔
    ∀ a, (s.ring a).Ordered s.mcs ∧ ∀ c, s.captures = some c → (c.get a).migrateHead ≤ (s.ring a).migrateHead := by
  simp only [RingsOk, Ring.Ordered, State.captures, Option.map_eq_some_iff, and_assoc]
  refine forall_congr' (fun a => ?_)
  refine and_congr_right' (and_congr_right' (and_congr_right' (and_congr_right' ⟨?_, ?_⟩)))
  · rintro h c ⟨r, hr, rfl⟩
    exact h r hr
  · exact fun h r hr => h _ ⟨r, hr, rfl⟩

/-- What the order of the rings depends on, with the scanner. -/
def State.ringPart (s : State) := (s.ring .A, s.ring .B, s.geom, s.captures, s.recov)

/-- Outside recovery t has its rings in order where s has them. -/
structure RingsKept (s t : State) : Prop where
  kept : s.recov = Recovery.off → RingsOk s → t.recov = Recovery.off ∧ RingsOk t

theorem RingsKept.refl (s : State) : RingsKept s s := ⟨fun h k => ⟨h, k⟩⟩

theorem RingsKept.trans {s t u : State} (h : RingsKept s t) (k : RingsKept t u) : RingsKept s u :=
  ⟨fun x y => let ⟨hx, hy⟩ := h.kept x y; k.kept hx hy⟩

theorem State.ringPart_ring {s t : State} (h : t.ringPart = s.ringPart) (a : Actuator) : t.ring a = s.ring a := by
  simp only [State.ringPart, Prod.mk.injEq] at h
  cases a
  exacts [h.1, h.2.1]

/-- An operation beside the rings. -/
theorem RingsKept.of_eq {s t : State} (h : t.ringPart = s.ringPart) : RingsKept s t := by
  have hring := State.ringPart_ring h
  simp only [State.ringPart, Prod.mk.injEq] at h
  obtain ⟨-, -, hgeom, hcap, hrec⟩ := h
  refine ⟨fun hoff hok => ⟨hrec.trans hoff, ?_⟩⟩
  rw [ringsOk_iff] at *
  simpa only [hring, hcap, State.mcs, hgeom] using hok

theorem RingsKept.foldl {α : Type} {f : State → α → State} (h : ∀ s x, RingsKept s (f s x)) (l : List α) (s : State) :
    RingsKept s (l.foldl f s) := by
  induction l generalizing s with
  | nil => exact RingsKept.refl s
  | cons x l ih => exact (h s x).trans (ih _)

theorem anyOrder_ringsKept {α : Type} (s : State) (l : List α) : RingsKept s (s.anyOrder l).2 := by
  unfold State.anyOrder
  split <;> exact .of_eq rfl

theorem RingsKept.forAny {α : Type} {f : State → α → State} (h : ∀ s x, RingsKept s (f s x)) (l : List α) (s : State) :
    RingsKept s (s.forAny l f) :=
  (anyOrder_ringsKept s l).trans (RingsKept.foldl h _ _)

theorem ring_modMgr_of_ne (s : State) {a b : Actuator} (f : BandMgr → BandMgr) (h : b ≠ a) : (s.modMgr a f).ring b = s.ring b := by
  simp only [State.ring, State.modMgr, Two.get_modify_of_ne _ _ _ _ h]

/-- One ring changed so that it stays in order and its migrate_head does not fall. -/
theorem modRing_ringsKept (s : State) (a : Actuator) (f : Ring → Ring)
    (h : (s.ring a).Ordered s.mcs → (f (s.ring a)).Ordered s.mcs ∧ (s.ring a).migrateHead ≤ (f (s.ring a)).migrateHead) :
    RingsKept s (s.modRing a f) := by
  refine ⟨fun hoff hok => ⟨hoff, ?_⟩⟩
  rw [ringsOk_iff] at *
  intro b
  obtain ⟨hord, hcap⟩ := hok b
  by_cases hb : b = a
  · subst hb
    obtain ⟨hord', hle⟩ := h hord
    rw [State.ring_modRing]
    exact ⟨hord', fun c hc => le_trans (hcap c hc) hle⟩
  · have hother : (s.modRing a f).ring b = s.ring b := ring_modMgr_of_ne s _ hb
    rw [hother]
    exact ⟨hord, hcap⟩

theorem Ring.Ordered.freed {m : Nat} {r : Ring} (h : r.Ordered m) : Ring.Ordered m { r with freeHead := r.freed } := by
  obtain ⟨h1, h2, h3, h4⟩ := h
  have hlo := r.le_freed
  have hhi := r.freed_le
  refine ⟨?_, h2, h3, ?_⟩ <;> dsimp only <;> omega

/-- Lane 6 takes a segment only where the ring has one (R58). -/
theorem Ring.Ordered.tail_succ {m : Nat} {r : Ring} (h : r.Ordered m) (hroom : r.tail - r.freeHead < m) :
    Ring.Ordered m { r with tail := r.tail + 1 } := by
  obtain ⟨h1, h2, h3, h4⟩ := h
  exact ⟨h1, h2, Nat.le_succ_of_le h3, by dsimp only; omega⟩

/-- migrate_head passes one segment at a time, and only below the tail (R60, R145). -/
theorem Ring.Ordered.migrate_succ {m : Nat} {r : Ring} (h : r.Ordered m) (hlt : r.migrateHead < r.tail) :
    Ring.Ordered m { r with migrateHead := r.migrateHead + 1 } := by
  obtain ⟨h1, h2, h3, h4⟩ := h
  exact ⟨h1, Nat.le_succ_of_le h2, hlt, h4⟩

end Sys2Proof.Machine
end

section
/-! What the work that follows a command keeps (O10, O33, O34): the order of the rings, the written pointer of a band that
data may still be appended to, a band closed for good, the tags already freed, the exceptions of media writes, and the wish for
a checkpoint. `Steady s t` says so, and there is one theorem for each operation. -/

namespace Sys2Proof.Machine

/-! ## The relation -/

/-- A band that has taken data and is neither being cleaned nor evacuated (R41). -/
def Band.live (r : Band) : Prop := r.state = .opened ∨ r.state = .draining ∨ r.state = .parked ∨ r.state = .full

/-- What the closing of a band fixes (R48, R49). -/
def Band.core (r : Band) := (r.state, r.owner, r.reserved, r.written, r.closeSeq, r.health)

/-- A FULL band that no lane will be given (R43, R44). -/
def State.closedBand (s : State) (a : Actuator) (b : Nat) : Prop := (s.bandRec a b).state = .full ∧ b ∉ (s.bm.get a).parked

/-- A band record replaced by another one as the lanes, the map and the read server may. -/
def Band.mild (r r' : Band) : Prop :=
  (r.live → r'.live ∧ r'.written = r.written) ∧ (r.state = .full → r'.core = r.core)

/-- The exceptions that only the result of a media write posts (R49, R51, R59, R153, R160). -/
def ExcKind.ofWrite (k : ExcKind) : Prop := k = .writeFault ∨ k = .supplyLate ∨ k = .checkpointFailed

/-- t came from s by work of the lanes, the map, the read server or the reclaim engine. -/
structure Steady (s t : State) : Prop where
  rings : RingsKept s t
  live : ∀ a b, (s.bandRec a b).live → (t.bandRec a b).live ∧ (t.bandRec a b).written = (s.bandRec a b).written
  closed : ∀ a b, s.closedBand a b → t.closedBand a b ∧ (t.bandRec a b).core = (s.bandRec a b).core
  tags : ∀ w, s.tag w = none → t.tag w = none
  reports : ∀ k a x y, k.ofWrite → s.reports k a x y → t.reports k a x y
  wanted : s.ck.wanted = true → t.ck.wanted = true

theorem Steady.refl (s : State) : Steady s s :=
  ⟨.refl s, fun _ _ h => ⟨h, rfl⟩, fun _ _ h => ⟨h, rfl⟩, fun _ h => h, fun _ _ _ _ _ h => h, id⟩

theorem Steady.trans {s t u : State} (h : Steady s t) (k : Steady t u) : Steady s u where
  rings := h.rings.trans k.rings
  live a b hl := ⟨(k.live a b (h.live a b hl).1).1, (k.live a b (h.live a b hl).1).2.trans (h.live a b hl).2⟩
  closed a b hc := ⟨(k.closed a b (h.closed a b hc).1).1, (k.closed a b (h.closed a b hc).1).2.trans (h.closed a b hc).2⟩
  tags w hw := k.tags w (h.tags w hw)
  reports x a d e hx hr := k.reports x a d e hx (h.reports x a d e hx hr)
  wanted hw := k.wanted (h.wanted hw)

/-- The fields that the relation speaks of. -/
def State.steadyPart (s : State) := (s.bm, s.geom, s.captures, s.recov, s.ck.wanted, s.tags, s.exceptions)

/-- An update of a field that the relation does not speak of. -/
theorem Steady.of_eq {s t : State} (h : t.steadyPart = s.steadyPart) : Steady s t := by
  simp only [State.steadyPart, Prod.mk.injEq] at h
  obtain ⟨hbm, hgeom, hcap, hrec, hwant, htags, hexc⟩ := h
  have hb : ∀ a b, t.bandRec a b = s.bandRec a b := fun a b => by rw [State.bandRec, hbm]; rfl
  refine ⟨.of_eq ?_, fun a b h => ?_, fun a b h => ?_, fun w h => ?_, fun k a x y _ h => ?_, fun h => hwant.trans h⟩
  · simp only [State.ringPart, State.ring, hbm, hgeom, hcap, hrec]
  · rw [hb]
    exact ⟨h, rfl⟩
  · unfold State.closedBand at *
    rw [hb, hbm]
    exact ⟨h, rfl⟩
  · rw [State.tag, htags]
    exact h
  · unfold State.reports at *
    rw [hexc]
    exact h

theorem Steady.foldl {α : Type} {f : State → α → State} (h : ∀ s x, Steady s (f s x)) (l : List α) (s : State) :
    Steady s (l.foldl f s) := by
  induction l generalizing s with
  | nil => exact Steady.refl s
  | cons x l ih => exact (h s x).trans (ih _)

theorem anyOrder_steady {α : Type} (s : State) (l : List α) : Steady s (s.anyOrder l).2 := by
  unfold State.anyOrder
  split <;> exact .of_eq rfl

theorem Steady.forAny {α : Type} {f : State → α → State} (h : ∀ s x, Steady s (f s x)) (l : List α) (s : State) :
    Steady s (s.forAny l f) :=
  (anyOrder_steady s l).trans (Steady.foldl h _ _)

/-! ## The updates the relation speaks of -/

/-- One actuator's bands and parked list changed, its ring left alone. -/
theorem modMgr_steady (s : State) (a : Actuator) (f : BandMgr → BandMgr)
    (hring : (f (s.bm.get a)).ring = (s.bm.get a).ring)
    (hlive : ∀ b, (s.bandRec a b).live → ((s.modMgr a f).bandRec a b).live ∧
      ((s.modMgr a f).bandRec a b).written = (s.bandRec a b).written)
    (hclosed : ∀ b, s.closedBand a b → b ∉ (f (s.bm.get a)).parked ∧
      ((s.modMgr a f).bandRec a b).core = (s.bandRec a b).core) : Steady s (s.modMgr a f) := by
  have hne : ∀ {x}, x ≠ a → (s.modMgr a f).bm.get x = s.bm.get x := fun h => Two.get_modify_of_ne _ _ _ _ h
  refine ⟨.of_eq ?_, fun x b h => ?_, fun x b h => ?_, fun _ h => h, fun _ _ _ _ _ h => h, id⟩
  · have hx : ∀ x, (s.modMgr a f).ring x = s.ring x := fun x => by
      by_cases hx : x = a
      · subst hx
        simp only [State.ring, State.modMgr, Two.get_modify]
        exact hring
      · exact ring_modMgr_of_ne s f hx
    simp only [State.ringPart, hx]
    rfl
  · by_cases hx : x = a
    · subst hx
      exact hlive b h
    · rw [State.bandRec, hne hx]
      exact ⟨h, rfl⟩
  · by_cases hx : x = a
    · subst hx
      obtain ⟨hp, hcore⟩ := hclosed b h
      refine ⟨⟨?_, ?_⟩, hcore⟩
      · simp only [Band.core, Prod.mk.injEq] at hcore
        exact hcore.1.trans h.1
      · simp only [State.modMgr, Two.get_modify]
        exact hp
    · unfold State.closedBand State.bandRec at *
      rw [hne hx]
      exact ⟨h, rfl⟩

/-- What a band record is after one record of the same actuator has changed. -/
theorem bandRec_modBand_cases (s : State) (a : Actuator) (b c : Nat) (f : Band → Band) :
    (s.modBand a b f).bandRec a c = s.bandRec a c ∨ c = b ∧ (s.modBand a b f).bandRec a c = f (s.bandRec a b) := by
  by_cases hc : c = b
  · subst hc
    by_cases hb : c < (s.bm.get a).bands.length
    · rw [State.bandRec_modBand s a c c f hb, if_pos rfl]
      exact .inr ⟨rfl, rfl⟩
    · exact .inl (by simp [State.bandRec, List.getD_eq_getElem?_getD, hb])
  · exact .inl (bandRec_modBand_ne s a a b c f (by simp [hc]))

/-- One band record changed mildly. -/
theorem modBand_steady_of (s : State) (a : Actuator) (b : Nat) (f : Band → Band) (h : (s.bandRec a b).mild (f (s.bandRec a b))) :
    Steady s (s.modBand a b f) := by
  refine modMgr_steady s a _ rfl (fun c hc => ?_) (fun c hc => ⟨hc.2, ?_⟩)
  · rcases bandRec_modBand_cases s a b c f with he | ⟨rfl, he⟩
    · exact ⟨he ▸ hc, congrArg Band.written he⟩
    · obtain ⟨hl, hw⟩ := h.1 hc
      exact ⟨he ▸ hl, (congrArg Band.written he).trans hw⟩
  · rcases bandRec_modBand_cases s a b c f with he | ⟨rfl, he⟩
    · exact congrArg Band.core he
    · exact (congrArg Band.core he).trans (h.2 hc.1)

/-- A change of the counts that a band's closing does not fix. -/
theorem modBand_steady (s : State) (a : Actuator) (b : Nat) (f : Band → Band) (h : ∀ r, (f r).core = r.core) :
    Steady s (s.modBand a b f) := by
  refine modBand_steady_of s a b f ⟨fun hl => ?_, fun _ => h _⟩
  have hc := h (s.bandRec a b)
  simp only [Band.core, Prod.mk.injEq] at hc
  unfold Band.live at *
  rw [hc.1]
  exact ⟨hl, hc.2.2.2.1⟩

/-- A record whose band is neither live nor FULL may become anything. -/
theorem Band.mild_of_not_live {r : Band} (h : ¬ r.live) (r' : Band) : r.mild r' :=
  ⟨fun hl => absurd hl h, fun hf => absurd (.inr (.inr (.inr hf))) h⟩

/-- An open band stays live with its written pointer. -/
theorem Band.mild_of_opened {r r' : Band} (h : r.state = .opened) (hl : r'.live) (hw : r'.written = r.written) : r.mild r' :=
  ⟨fun _ => ⟨hl, hw⟩, fun hf => by rw [h] at hf; cases hf⟩

/-- One ring changed so that it stays in order and its migrate_head does not fall. -/
theorem modRing_steady (s : State) (a : Actuator) (f : Ring → Ring)
    (h : (s.ring a).Ordered s.mcs → (f (s.ring a)).Ordered s.mcs ∧ (s.ring a).migrateHead ≤ (f (s.ring a)).migrateHead) :
    Steady s (s.modRing a f) := by
  have hb : ∀ x b, (s.modRing a f).bandRec x b = s.bandRec x b := fun x b => by
    by_cases hx : x = a
    · subst hx
      simp [State.bandRec]
    · simp [State.bandRec, Two.get_modify_of_ne _ _ _ _ hx]
  have hp : ∀ x, ((s.modRing a f).bm.get x).parked = (s.bm.get x).parked := fun x => by
    by_cases hx : x = a
    · subst hx
      simp
    · simp [Two.get_modify_of_ne _ _ _ _ hx]
  refine ⟨modRing_ringsKept s a f h, fun x b hl => ?_, fun x b hc => ?_, fun _ h => h, fun _ _ _ _ _ h => h, id⟩
  · rw [hb]
    exact ⟨hl, rfl⟩
  · unfold State.closedBand at *
    rw [hb, hp]
    exact ⟨hc, rfl⟩

/-- The tag table with no tag taken. -/
theorem tags_steady (s : State) (l : List (Option TagEntry)) (h : ∀ w, s.tag w = none → l.getD w none = none) :
    Steady s { s with tags := l } :=
  ⟨.of_eq rfl, fun _ _ h => ⟨h, rfl⟩, fun _ _ h => ⟨h, rfl⟩, h, fun _ _ _ _ _ h => h, id⟩

/-- A list of exceptions in which those of media writes stand as before. -/
theorem exceptions_steady (s : State) (l : List Exc)
    (h : ∀ k : ExcKind, k.ofWrite → ∀ e ∈ s.exceptions, e.kind = k → e ∈ l) : Steady s { s with exceptions := l } :=
  ⟨.of_eq rfl, fun _ _ h => ⟨h, rfl⟩, fun _ _ h => ⟨h, rfl⟩, fun _ h => h,
    fun k _ _ _ hk ⟨e, he, hek, hrest⟩ => ⟨e, h k hk e he hek, hek, hrest⟩, id⟩

theorem mem_postTo_of_ne {l : List Exc} {k : ExcKind} {e : Exc} (h : e.kind ≠ k) (he : e ∈ l) (a : Actuator) (q x y : Nat) :
    e ∈ postTo l k a q x y := by
  unfold postTo
  split
  · exact List.mem_map.2 ⟨e, he, by simp [h]⟩
  · simp [he]

theorem post_steady (k : ExcKind) (hk : ¬ k.ofWrite) (a : Actuator) (x y : Nat) (s : State) : Steady s (post k a x y s) :=
  exceptions_steady s _ (fun _ hj _ he hek => mem_postTo_of_ne (fun h => hk (by rw [← h, hek]; exact hj)) he _ _ _ _)

/-- A post stands in the list as it was made (R192). -/
theorem post_reports (k : ExcKind) (a : Actuator) (x y : Nat) (s : State) : (post k a x y s).reports k a x y := by
  unfold State.reports post postTo
  dsimp only
  split
  · rename_i h
    obtain ⟨e, he, hk⟩ := List.any_eq_true.1 h
    simp only [Bool.and_eq_true, decide_eq_true_eq] at hk
    exact ⟨_, List.mem_map.2 ⟨e, he, if_pos hk⟩, hk.1, hk.2, rfl, rfl⟩
  · exact ⟨_, List.mem_append_right _ (List.mem_singleton.2 rfl), rfl, rfl, rfl, rfl⟩

theorem requestCk_steady (s : State) : Steady s (requestCk s) :=
  ⟨.of_eq rfl, fun _ _ h => ⟨h, rfl⟩, fun _ _ h => ⟨h, rfl⟩, fun _ h => h, fun _ _ _ _ _ h => h, fun _ => rfl⟩

theorem modTag_steady (s : State) (t : Nat) (f : TagEntry → TagEntry) : Steady s (s.modTag t f) := by
  refine tags_steady s _ (fun w h => ?_)
  rw [State.tag, List.getD_eq_getElem?_getD] at h
  rw [List.getD_eq_getElem?_getD, List.getElem?_modify]
  split <;> cases hw : s.tags[w]? <;> simp_all

theorem complete_steady (t : Nat) (o : Outcome) (d : Nat) (s : State) : Steady s (complete t o d s) := by
  refine Steady.trans (t := { s with tags := s.tags.set t none }) (tags_steady s _ (fun w h => ?_)) (.of_eq rfl)
  rw [State.tag, List.getD_eq_getElem?_getD] at h
  rw [List.getD_eq_getElem?_getD, List.getElem?_set]
  split
  · split <;> rfl
  · exact h

/-! ## The other updates of one piece of state -/

theorem modLane_steady (s : State) (n : Nat) (f : Lane → Lane) : Steady s (s.modLane n f) := .of_eq rfl

theorem modFrame_steady (s : State) (id : Nat) (f : Frame → Frame) : Steady s (s.modFrame id f) := .of_eq rfl

theorem modJob_steady (s : State) (f : Job → Job) : Steady s (s.modJob f) := .of_eq rfl

theorem modEntry_steady (s : State) (l : SegLoc) (f : ReadEntry → ReadEntry) : Steady s (s.modEntry l f) := .of_eq rfl

theorem modRead_steady (t : Nat) (f : ReadRec → ReadRec) (s : State) : Steady s (s.modRead t f) := .of_eq rfl

theorem modSource_steady (s : State) (l : SegLoc) (f : SourceRead → SourceRead) : Steady s (s.modSource l f) := .of_eq rfl

theorem modPort_steady (s : State) (a : Actuator) (f : Port → Port) : Steady s (s.modPort a f) := .of_eq rfl

theorem credit_steady (s : State) (c : Two Credit) : Steady s { s with credit := c } := .of_eq rfl

theorem rc_steady (s : State) (c : Reclaim) : Steady s { s with rc := c } := .of_eq rfl

theorem rs_steady (s : State) (c : ReadServer) : Steady s { s with rs := c } := .of_eq rfl

theorem pool_steady (s : State) (p : Pool) : Steady s { s with pool := p } := .of_eq rfl

theorem extents_steady (s : State) (t : List Extent) : Steady s { s with extents := t } := .of_eq rfl

theorem send_steady (m : FrontMsg) (s : State) : Steady s (s.send m) := .of_eq rfl

theorem assignSeq_steady (s : State) : Steady s (assignSeq s).2 := .of_eq rfl

/-- A change of the checkpoint writer that leaves the wanted flag and the captured counters alone. -/
theorem modCk_steady (s : State) (f : Ckpt → Ckpt) (hw : (f s.ck).wanted = s.ck.wanted)
    (hr : (f s.ck).run.map (fun r => r.captured) = s.ck.run.map (fun r => r.captured)) : Steady s (s.modCk f) :=
  .of_eq (by simp only [State.steadyPart, State.modCk, State.captures, hw, hr])

end Sys2Proof.Machine
end

section
/-! The lanes, the extent map, the bands and the reclaim engine work steadily, and so does all that follows a command. -/

namespace Sys2Proof.Machine

/-! ## Frames, sequence numbers, pressures -/

theorem requestFrame_steady (r : Requester) (s : State) : Steady s (requestFrame r s).2 := by
  grind [requestFrame, grantFrame, Steady.refl, pool_steady, modFrame_steady]

theorem requestNoWait_steady (r : Requester) (s : State) : Steady s (requestNoWait r s).2 := by
  grind [requestNoWait, grantFrame, Steady.refl, modFrame_steady]

theorem withdraw_steady (r : Requester) (s : State) : Steady s (withdraw r s) := pool_steady _ _

theorem releaseFrame_steady (id : Nat) (s : State) : Steady s (releaseFrame id s) := modFrame_steady _ _ _

theorem releaseHeld_steady (frame : Option Nat) (s : State) : Steady s (releaseHeld frame s) := by
  cases frame
  · exact Steady.refl s
  · exact releaseFrame_steady _ _

theorem countDataSegment_steady (s : State) : Steady s (countDataSegment s) := by
  have h := modCk_steady s (fun c => { c with dStart := c.dStart + 1, dComplete := c.dComplete + 1 }) rfl rfl
  grind [countDataSegment, Steady.trans, requestCk_steady]

theorem evalMapPressure_steady (s : State) : Steady s (evalMapPressure s) := by
  unfold evalMapPressure
  repeat' split
  · exact Steady.refl s
  · exact Steady.refl s
  · exact Steady.trans (t := { s with mapPressure := true }) (.of_eq rfl) (post_steady _ (by simp [ExcKind.ofWrite]) _ _ _ _)
  · exact .of_eq rfl
  · exact Steady.refl s

theorem evalBandPressure_steady (a : Actuator) (s : State) : Steady s (evalBandPressure a s) := by
  unfold evalBandPressure
  repeat' split
  all_goals exact .of_eq rfl

theorem returnCredit_steady (a : Actuator) (x : Nat) (s : State) : Steady s (returnCredit a x s) := by
  grind [returnCredit, Steady.refl, credit_steady]

theorem chargeCredit_steady (a : Actuator) (s : State) : Steady s (chargeCredit a s) := by
  grind [chargeCredit, Steady.refl, credit_steady]

theorem evalLatch_steady (a : Actuator) (s : State) : Steady s (evalLatch a s) := by
  grind [evalLatch, Steady.refl, rc_steady]

/-! ## Bands (R43 to R55) -/

theorem bandRec_of_findIdx {s : State} {a : Actuator} {b : Nat} {p : Band → Bool}
    (h : (s.bm.get a).bands.findIdx? p = some b) : p (s.bandRec a b) = true := by
  obtain ⟨hb, hp, -⟩ := List.findIdx?_eq_some_iff_getElem.1 h
  simpa [State.bandRec, List.getD_eq_getElem?_getD, hb] using hp

/-- A band taken off the head of the parked list opens with its written pointer (R43). -/
theorem unpark_steady (s : State) (n : Nat) (a : Actuator) (b : Nat) (rest : List Nat) (h : (s.bm.get a).parked = b :: rest) :
    Steady s ((s.modMgr a (fun m => { m with parked := rest })).modBand a b
      (fun r => { r with state := .opened, owner := some n })) := by
  have hm : (s.modMgr a (fun m => { m with parked := rest })).modBand a b (fun r => { r with state := .opened, owner := some n }) =
      s.modMgr a (fun m => { m with parked := rest, bands := m.bands.modify b (fun r => { r with state := .opened, owner := some n }) }) := by
    cases a <;> rfl
  have hrec : ∀ c, (s.modMgr a (fun m =>
      { m with parked := rest, bands := m.bands.modify b (fun r => { r with state := .opened, owner := some n }) })).bandRec a c =
      (s.modBand a b (fun r => { r with state := .opened, owner := some n })).bandRec a c := fun c => by
    cases a <;> rfl
  rw [hm]
  refine modMgr_steady s a _ rfl (fun c hl => ?_) (fun c hc => ?_)
  · rw [hrec]
    rcases bandRec_modBand_cases s a b c (fun r => { r with state := .opened, owner := some n }) with he | ⟨rfl, he⟩
    · rw [he]
      exact ⟨hl, rfl⟩
    · rw [he]
      exact ⟨.inl rfl, rfl⟩
  · have hcb : c ≠ b := fun hcb => hc.2 (by simp [h, hcb])
    rw [hrec, bandRec_modBand_ne s a a b c _ (by simp [hcb])]
    exact ⟨fun hin => hc.2 (by simp [h, hin]), rfl⟩

theorem allocate_steady (n : Nat) (a : Actuator) (s : State) : Steady s (allocate n a s).2 := by
  unfold allocate
  split
  · exact Steady.refl s
  · split
    · exact unpark_steady _ _ _ _ _ ‹_›
    · split
      · rename_i b hb
        split
        · have hblank : (s.bandRec a b).state = .blank := by simpa using bandRec_of_findIdx hb
          exact (modBand_steady_of _ _ _ _ (Band.mild_of_not_live (by simp [Band.live, hblank]) _)).trans
            (evalBandPressure_steady _ _)
        · exact Steady.refl s
      · exact Steady.refl s

theorem reserveSegment_steady (n : Nat) (a : Actuator) (b : Nat) (s : State) : Steady s (reserveSegment n a b s).2 := by
  unfold reserveSegment
  dsimp only
  split
  · rename_i h
    refine modBand_steady_of _ _ _ _ (Band.mild_of_opened h.1 ?_ ?_) <;> split <;> simp [Band.live, h.1]
  · exact Steady.refl s

/-- An open band that parks stays live (R44, R46). -/
theorem park_steady (s : State) (a : Actuator) (b : Nat) (h : (s.bandRec a b).state = .opened) : Steady s (park a b s) := by
  have hm : park a b s = s.modMgr a (fun m =>
      { m with bands := m.bands.modify b (fun r => { r with state := .parked, owner := none }), parked := m.parked ++ [b] }) := by
    cases a <;> rfl
  have hrec : ∀ c, (s.modMgr a (fun m => { m with
      bands := m.bands.modify b (fun r => { r with state := .parked, owner := none }), parked := m.parked ++ [b] })).bandRec a c =
      (s.modBand a b (fun r => { r with state := .parked, owner := none })).bandRec a c := fun c => by
    cases a <;> rfl
  rw [hm]
  refine modMgr_steady s a _ rfl (fun c hl => ?_) (fun c hc => ?_)
  · rw [hrec]
    rcases bandRec_modBand_cases s a b c (fun r => { r with state := .parked, owner := none }) with he | ⟨rfl, he⟩
    · rw [he]
      exact ⟨hl, rfl⟩
    · rw [he]
      exact ⟨.inr (.inr (.inl rfl)), rfl⟩
  · have hcb : c ≠ b := fun hcb => by
      have := hc.1
      rw [hcb, h] at this
      cases this
    rw [hrec, bandRec_modBand_ne s a a b c _ (by simp [hcb])]
    exact ⟨by simpa [hcb] using hc.2, rfl⟩

theorem giveUpBand_steady (n : Nat) (a : Actuator) (b : Nat) (s : State) : Steady s (giveUpBand n a b s) := by
  unfold giveUpBand
  dsimp only
  split
  · rename_i h
    split
    · exact park_steady _ _ _ h.1
    · exact modBand_steady_of _ _ _ _ (Band.mild_of_opened h.1 (.inr (.inl rfl)) rfl)
  · exact Steady.refl s

theorem leaveBand_steady (l : SegLoc) (s : State) : Steady s (leaveBand l s) := by
  unfold leaveBand
  split
  · exact modBand_steady _ _ _ _ (fun _ => rfl)
  · exact Steady.refl s
  · exact Steady.refl s

theorem testEvacuated_steady (a : Actuator) (b : Nat) (s : State) : Steady s (testEvacuated a b s) := by
  unfold testEvacuated
  dsimp only
  split
  · rename_i h
    have hl : ¬ (s.bandRec a b).live := by simp [Band.live, h.1]
    split
    · exact (modBand_steady_of _ _ _ _ (Band.mild_of_not_live hl _)).trans (evalBandPressure_steady _ _)
    · exact (modBand_steady_of _ _ _ _ (Band.mild_of_not_live hl _)).trans (post_steady _ (by simp [ExcKind.ofWrite]) _ _ _ _)
  · exact Steady.refl s

/-! ## Cache rings and pins (R58 to R62) -/

theorem advanceFree_steady (a : Actuator) (s : State) : Steady s (advanceFree a s) :=
  (modRing_steady s a _ (fun h => ⟨h.freed, le_refl _⟩)).trans (evalLatch_steady _ _)

theorem cacheSlot_steady (a : Actuator) (s : State) : Steady s (cacheSlot a s).2 := by
  unfold cacheSlot
  split
  · rename_i hroom
    have hfree : (s.ring a).tail - (s.ring a).freeHead < s.mcs := by
      have := hroom.2.2
      unfold State.ringFree at this
      omega
    exact (modRing_steady s a (fun r => { r with tail := r.tail + 1 }) (fun h => ⟨h.tail_succ hfree, le_refl _⟩)).trans
      (evalLatch_steady _ _)
  · exact Steady.refl s

theorem pins_steady (s : State) (a : Actuator) (f : List (Nat × Nat) → List (Nat × Nat)) :
    Steady s (s.modRing a (fun r => { r with pins := f r.pins })) :=
  modRing_steady s a _ (fun h => ⟨h, le_refl _⟩)

theorem pinSegment_steady (l : SegLoc) (s : State) : Steady s (pinSegment l s) := by
  unfold pinSegment
  split
  · exact modBand_steady s l.act l.band (fun r => { r with readPins := r.readPins + 1 }) (fun _ => rfl)
  · exact pins_steady s l.act (addPin (s.pinCtr l.act l.seg))
  · exact Steady.refl s

theorem unpinSegment_steady (l : SegLoc) (s : State) : Steady s (unpinSegment l s) := by
  unfold unpinSegment
  split
  · exact (modBand_steady s l.act l.band (fun r => { r with readPins := r.readPins - 1 }) (fun _ => rfl)).trans
      (testEvacuated_steady _ _ _)
  · exact (pins_steady s l.act (dropPin (s.pinCtr l.act l.seg))).trans (advanceFree_steady _ _)
  · exact Steady.refl s

/-! ## Completions -/

theorem checkComplete_steady (t : Nat) (s : State) : Steady s (checkComplete t s) := by
  grind [checkComplete, completeWrite, completeFlush, Steady.refl, complete_steady]

theorem completeRelease_steady (ok : Bool) (s : State) (t : Nat) : Steady s (completeRelease ok s t) := by
  unfold completeRelease
  split
  · exact Steady.refl s
  · dsimp only
    refine Steady.trans ?_ (Steady.forAny (fun s t => checkComplete_steady t s) _ _)
    refine Steady.trans ?_ (tags_steady _ _ (fun w h => ?_))
    · split <;> exact complete_steady _ _ _ _
    · rw [State.tag, List.getD_eq_getElem?_getD] at h
      rw [List.getD_eq_getElem?_getD, List.getElem?_map]
      revert h
      generalize (State.tags _)[w]? = o
      cases o <;> simp_all

theorem wakeWaiters_steady (tags : List Nat) (s : State) : Steady s (wakeWaiters tags s) :=
  Steady.forAny (fun s t => checkComplete_steady t s) _ _

theorem tellLost_steady (id : Nat) (lbas : List Nat) (s : State) : Steady s (tellLost id lbas s) :=
  Steady.foldl (fun s t => modTag_steady s t _) _ _

theorem refuseHeads_steady (fuel : Nat) (s : State) : Steady s (refuseHeads fuel s) := by
  induction fuel generalizing s with
  | zero => exact Steady.refl s
  | succ fuel ih =>
    have refuse : ∀ t, Steady s (refuseHeads fuel (complete t .writeProtected 0 (popIntake s))) := fun t =>
      (Steady.trans (s := s) (t := popIntake s) (.of_eq rfl) (complete_steady _ _ _ _)).trans (ih _)
    unfold refuseHeads
    repeat' split
    all_goals first
      | exact Steady.refl _
      | exact refuse _

theorem refuseTurns_steady (s : State) : Steady s (refuseTurns s) := refuseHeads_steady _ _

/-! ## A lane's frames -/

theorem joinQueue_steady (n id : Nat) (b : Bool) (s : State) : Steady s (joinQueue n id b s) := by
  grind [joinQueue, Steady.refl, modLane_steady]

theorem leaveQueue_steady (n id : Nat) (s : State) : Steady s (leaveQueue n id s) := modLane_steady _ _ _

theorem stampFrame_steady (n id : Nat) (s : State) : Steady s (stampFrame n id s) := by
  unfold stampFrame
  dsimp only
  refine (assignSeq_steady s).trans ?_
  split
  · exact modFrame_steady _ _ _
  · exact Steady.refl _

theorem sealFrame_steady (n id : Nat) (s : State) : Steady s (sealFrame n id s) := by
  grind [sealFrame, Steady.trans, modFrame_steady, stampFrame_steady, joinQueue_steady]

theorem closeFrame_steady (n id : Nat) (s : State) : Steady s (closeFrame n id s) := by
  grind [closeFrame, Steady.trans, modLane_steady, modFrame_steady, sealFrame_steady]

theorem closeOpen_steady (n : Nat) (s : State) : Steady s (closeOpen n s) := by
  grind [closeOpen, Steady.refl, closeFrame_steady]

theorem giveUpLaneBand_steady (n : Nat) (s : State) : Steady s (giveUpLaneBand n s) := by
  grind [giveUpLaneBand, Steady.refl, Steady.trans, giveUpBand_steady, modLane_steady]

theorem dropRequest_steady (n : Nat) (s : State) : Steady s (dropRequest n s) := by
  grind [dropRequest, Steady.trans, withdraw_steady, modLane_steady, releaseFrame_steady]

/-! ## Evacuation (R53, R130, R144) -/

theorem unqueueEntry_steady (l : SegLoc) (s : State) : Steady s (unqueueEntry l s) := rs_steady _ _

theorem deleteEntry_steady (l : SegLoc) (s : State) : Steady s (deleteEntry l s) := by
  grind [deleteEntry, Steady.refl, Steady.trans, releaseHeld_steady, withdraw_steady, unqueueEntry_steady, rs_steady]

theorem dropAhead_steady (s : State) (l : SegLoc) : Steady s (dropAhead s l) := by
  grind [dropAhead, Steady.refl, modEntry_steady, deleteEntry_steady]

theorem dropAheadWhere_steady (p : ReadEntry → Bool) (s : State) : Steady s (dropAheadWhere p s) :=
  Steady.foldl dropAhead_steady _ _

theorem dropSource_steady (s : State) (e : SourceRead) : Steady s (dropSource s e) := by
  grind [dropSource, Steady.trans, releaseHeld_steady, withdraw_steady, rc_steady]

theorem endLaneSeven_steady (s : State) : Steady s (endLaneSeven s) := by
  grind [endLaneSeven, Steady.trans, dropRequest_steady, closeOpen_steady, giveUpLaneBand_steady, modLane_steady]

theorem endJob_steady (s : State) : Steady s (endJob s) :=
  ((Steady.foldl dropSource_steady _ s).trans (endLaneSeven_steady _)).trans (rc_steady _ _)

theorem endBandJob_steady (a : Actuator) (b q : Nat) (s : State) : Steady s (endBandJob a b q s) :=
  ((modCk_steady _ _ rfl rfl).trans (requestCk_steady _)).trans (endJob_steady _)

/-- A band is evacuated out of CLEANING (R52, R53). -/
theorem evacuate_steady (a : Actuator) (b : Nat) (s : State) (h : (s.bandRec a b).state = .cleaning) : Steady s (evacuate a b s) := by
  have leave : ∀ q x p, Steady s (dropAheadWhere p (returnCredit a x (s.modBand a b
      (fun r => { r with state := .evacuated, evacSeq := some q, closeSeq := none })))) := fun q x p =>
    ((modBand_steady_of _ _ _ _ (Band.mild_of_not_live (by simp [Band.live, h]) _)).trans (returnCredit_steady _ _ _)).trans
      (dropAheadWhere_steady _ _)
  unfold evacuate
  dsimp only
  repeat' split
  · exact (leave _ _ _).trans (endBandJob_steady _ _ _ _)
  · exact leave _ _ _
  · exact leave _ _ _

theorem testEmptied_steady (s : State) (h : Actuator × Nat) : Steady s (testEmptied s h) := by
  unfold testEmptied
  dsimp only
  split
  · exact evacuate_steady _ _ _ (‹_ ∧ _›).1
  · exact Steady.refl s

/-! ## The extent map's operations -/

theorem countRecord_steady (s : State) (e : Extent) : Steady s (countRecord s e) := by
  unfold countRecord
  split
  · exact modBand_steady _ _ _ _ (fun _ => rfl)
  · exact Steady.refl s

theorem uncountRecord_steady (s : State) (e : Extent) : Steady s (uncountRecord s e) := by
  unfold uncountRecord
  split
  · exact modBand_steady _ _ _ _ (fun _ => rfl)
  · exact Steady.refl s

theorem commitTable_steady (t : List Extent) (s : State) : Steady s (commitTable t s) := by
  unfold commitTable
  dsimp only
  split
  · exact extents_steady s t
  · refine Steady.trans ?_ (evalMapPressure_steady _)
    refine Steady.trans ?_ (Steady.foldl testEmptied_steady _ _)
    refine Steady.trans ?_ (Steady.foldl uncountRecord_steady _ _)
    exact (extents_steady s t).trans (Steady.foldl countRecord_steady _ _)

theorem tellRecord_steady (e : Extent) (s : State) : Steady s (tellRecord e s) := by
  unfold tellRecord
  split
  · exact Steady.refl s
  · refine Steady.foldl (fun s id => ?_) _ _
    grind [Steady.refl, tellLost_steady]

theorem reportConverted_steady (s : State) (e : Extent) : Steady s (reportConverted s e) :=
  (post_steady _ (by simp [ExcKind.ofWrite]) _ _ _ _).trans (tellRecord_steady _ _)

theorem exhaust_steady (lba : Nat) (s : State) : Steady s (exhaust lba s) := by
  unfold exhaust
  split
  · exact (commitTable_steady _ _).trans (reportConverted_steady _ _)
  · exact post_steady _ (by simp [ExcKind.ofWrite]) _ _ _ _

theorem place_steady (lba : Nat) (loc : Loc) (s : State) : Steady s (place lba loc s).2 := by
  unfold place
  split
  · exact commitTable_steady _ _
  · exact exhaust_steady _ _

theorem conditionalMove_steady (lba : Nat) (src dst : Loc) (s : State) : Steady s (conditionalMove lba src dst s).2 := by
  have h := place_steady lba dst s
  grind [conditionalMove, Steady.refl]

theorem releaseRange_steady (lba count : Nat) (s : State) : Steady s (releaseRange lba count s).2 := by
  grind [releaseRange, Steady.trans, commitTable_steady, reportConverted_steady]

theorem makeLost_steady (l : List (Nat × Loc)) (s : State) : Steady s (makeLost l s).2 :=
  (commitTable_steady _ s).trans (Steady.foldl reportConverted_steady _ _)

theorem makeLostEach_steady (l : List (List (Nat × Loc))) (s : State) : Steady s (makeLostEach l s).2 := by
  induction l generalizing s with
  | nil => exact Steady.refl s
  | cons b l ih => exact (makeLost_steady b s).trans (ih _)

/-! ## Lanes: locations and give-up (R70 to R80) -/

theorem askBand_steady (n : Nat) (s : State) : Steady s (askBand n s).2 := by
  grind [askBand, Steady.refl, allocate_steady]

theorem obtainBand_steady (n : Nat) (s : State) : Steady s (obtainBand n s).2 := by
  grind [obtainBand, Steady.trans, askBand_steady, modLane_steady]

theorem reserveHeld_steady (n : Nat) (a : Actuator) (b : Nat) (s : State) : Steady s (reserveHeld n a b s).2 := by
  grind [reserveHeld, Steady.trans, reserveSegment_steady, modLane_steady]

theorem bandSegment_steady (n : Nat) (s : State) : Steady s (bandSegment n s).2 := by
  grind [bandSegment, Steady.trans, Steady.refl, reserveHeld_steady, obtainBand_steady]

theorem ringSegment_steady (s : State) : Steady s (ringSegment s).2 := by
  grind [ringSegment, Steady.refl, cacheSlot_steady]

theorem laneLocation_steady (n : Nat) (s : State) : Steady s (laneLocation n s).2 := by
  grind [laneLocation, ringSegment_steady, bandSegment_steady]

theorem openFrame_steady (n id : Nat) (loc : SegLoc) (ctr : Nat) (s : State) : Steady s (openFrame n id loc ctr s) :=
  ((modFrame_steady _ _ _).trans (modLane_steady _ _ _)).trans (countDataSegment_steady _)

theorem giveUpLane_steady (n : Nat) (s : State) : Steady s (giveUpLane n s) :=
  ((closeOpen_steady _ _).trans (giveUpLaneBand_steady _ _)).trans (modLane_steady _ _ _)

theorem evictLane_steady (n : Nat) (s : State) : Steady s (evictLane n s) :=
  ((closeOpen_steady _ _).trans (giveUpLaneBand_steady _ _)).trans (modLane_steady _ _ _)

theorem waitLane_steady (n : Nat) (s : State) : Steady s (waitLane n s) := modLane_steady _ _ _

theorem laneFrame_steady (n : Nat) (s : State) : Steady s (laneFrame n s).2 := by
  grind [laneFrame, Steady.refl, Steady.trans, requestFrame_steady, modLane_steady]

/-! ## Lanes: failed writes and rebinding (R84 to R86) -/

theorem loseFrame_steady (id : Nat) (f : Frame) (l : SegLoc) (s : State) : Steady s (loseFrame id f l s) := by
  unfold loseFrame
  dsimp only
  refine (makeLostEach_steady (f.runs.map (fun r => lossRange r.start r.len (l.at r.first))) s).trans ?_
  split
  · exact tellLost_steady _ _ _
  · exact (post_steady _ (by simp [ExcKind.ofWrite]) _ _ _ _).trans (tellLost_steady _ _ _)

theorem abandonFrame_steady (n id : Nat) (s : State) : Steady s (abandonFrame n id s) := by
  unfold abandonFrame
  dsimp only
  split
  · exact Steady.refl s
  · refine Steady.trans ?_ (wakeWaiters_steady _ _)
    refine Steady.trans ?_ (releaseFrame_steady _ _)
    refine Steady.trans ?_ (modLane_steady _ _ _)
    refine Steady.trans ?_ (leaveBand_steady _ _)
    refine Steady.trans ?_ (modFrame_steady _ _ _)
    split
    · exact modJob_steady _ _
    · exact loseFrame_steady _ _ _ _

theorem replaceBlock_steady (l loc : SegLoc) (s : State) (x : Nat × Nat) : Steady s (replaceBlock l loc s x) := by
  grind [replaceBlock, Steady.refl, place_steady]

theorem moveFrame_steady (n id : Nat) (loc : SegLoc) (ctr : Nat) (s : State) : Steady s (moveFrame n id loc ctr s) := by
  unfold moveFrame
  dsimp only
  split
  · exact Steady.refl s
  · rename_i old _
    generalize (if n = 7 then [] else _) = cur
    refine (Steady.foldl (replaceBlock_steady old loc) cur s).trans ?_
    have rebind : ∀ x t, Steady t ((countDataSegment (leaveBand old (tellLost id x
        (t.modFrame id (fun f => { f with bound := some loc, ringCtr := ctr }))))).modLane n
          (fun c => { c with rebind := c.rebind.filter (fun i => i ≠ id) })) := fun x t =>
      ((((modFrame_steady _ _ _).trans (tellLost_steady _ _ _)).trans (leaveBand_steady _ _)).trans
        (countDataSegment_steady _)).trans (modLane_steady _ _ _)
    split
    · exact ((rebind _ _).trans (stampFrame_steady _ _ _)).trans (joinQueue_steady _ _ _ _)
    · exact rebind _ _

theorem endRebind_steady (n : Nat) (s : State) : Steady s (endRebind n s) := by
  grind [endRebind, Steady.refl, Steady.trans, giveUpLaneBand_steady, modLane_steady]

theorem workRebinds_steady (n fuel : Nat) (s : State) : Steady s (workRebinds n fuel s) := by
  induction fuel generalizing s with
  | zero => exact Steady.refl s
  | succ fuel ih =>
    unfold workRebinds
    split
    · exact endRebind_steady _ _
    · split
      · exact (abandonFrame_steady _ _ _).trans (ih _)
      · have h := laneLocation_steady n s
        split <;> (rename_i hl; rw [hl] at h)
        · exact (h.trans (moveFrame_steady _ _ _ _ _)).trans (ih _)
        · exact h.trans (modLane_steady _ _ _)

theorem workRebindList_steady (n : Nat) (s : State) : Steady s (workRebindList n s) := workRebinds_steady _ _ _

theorem failFrame_steady (n id : Nat) (s : State) : Steady s (failFrame n id s) := by
  unfold failFrame
  split
  · exact Steady.refl s
  · exact (((Steady.foldl (fun s i => leaveQueue_steady n i s) _ _).trans (modFrame_steady _ _ _)).trans
      (modLane_steady _ _ _)).trans (workRebindList_steady _ _)

theorem retryFaulted_steady (s : State) (n : Nat) : Steady s (retryFaulted s n) := by
  grind [retryFaulted, Steady.refl, workRebindList_steady]

theorem retryWaiting_steady (s : State) (n : Nat) : Steady s (retryWaiting s n) := by
  grind [retryWaiting, Steady.refl, Steady.trans, obtainBand_steady, modLane_steady]

theorem informLanes_steady (s : State) : Steady s (informLanes s) :=
  Steady.forAny (fun s n => (retryFaulted_steady s n).trans (retryWaiting_steady _ n)) _ _

/-! ## The reclaim job (R138 to R147) -/

theorem beginPass_steady (s : State) : Steady s (beginPass s) := by
  grind [beginPass, beginBandPass, beginCachePass, Steady.refl, modJob_steady]

theorem resolveMoves_steady (st : MoveState) (p : Move → Bool) (s : State) : Steady s (resolveMoves st p s) := modJob_steady _ _

theorem grantSource_steady (l : SegLoc) (id : Nat) (s : State) : Steady s (grantSource l id s) := .of_eq rfl

theorem deleteSource_steady (l : SegLoc) (s : State) : Steady s (deleteSource l s) := by
  grind [deleteSource, Steady.refl, Steady.trans, releaseHeld_steady, rc_steady]

theorem tidySource_steady (l : SegLoc) (s : State) : Steady s (tidySource l s) := by
  grind [tidySource, Steady.refl, deleteSource_steady]

theorem makeSource_steady {s t : State} (h : makeSource s = some t) : Steady s t := by
  grind [makeSource, Steady.trans, resolveMoves_steady, rc_steady, requestFrame_steady, grantSource_steady]

theorem placeRelocation_steady (id : Nat) (m : Move) (s : State) : Steady s (placeRelocation id m s) := by
  grind [placeRelocation, Steady.trans, modFrame_steady, modJob_steady, closeFrame_steady, tidySource_steady]

theorem wakeLaneSeven_steady (a : Actuator) (s : State) : Steady s (wakeLaneSeven a s) := modLane_steady _ _ _

theorem openLaneSeven_steady (s : State) : Steady s (openLaneSeven s).2 := by
  grind [openLaneSeven, Steady.refl, Steady.trans, laneFrame_steady, laneLocation_steady, closeOpen_steady, openFrame_steady,
    dropRequest_steady, waitLane_steady]

theorem handBlock_steady {s t : State} (h : handBlock s = some t) : Steady s t := by
  unfold handBlock at h
  split at h
  · rename_i j m _ _
    have hw := wakeLaneSeven_steady j.act s
    have ho := hw.trans (openLaneSeven_steady _)
    grind [Steady.trans, resolveMoves_steady, tidySource_steady, placeRelocation_steady, closeFrame_steady]
  · cases h

theorem askLaneSeven_steady (s : State) : Steady s (askLaneSeven s) := by
  grind [askLaneSeven, Steady.refl, Steady.trans, wakeLaneSeven_steady, openLaneSeven_steady]

theorem endHanding_steady {s t : State} (h : endHanding s = some t) : Steady s t := by
  grind [endHanding, Steady.trans, closeOpen_steady, dropRequest_steady, modJob_steady]

theorem advanceMigrate_steady {s t : State} (h : advanceMigrate s = some t) : Steady s t := by
  unfold advanceMigrate at h
  split at h
  · cases h
  · rename_i j _
    dsimp only at h
    split at h
    · rename_i hpass
      cases h
      exact (modRing_steady s j.act (fun r => { r with migrateHead := (s.ring j.act).migrateHead + 1 })
        (fun h => ⟨h.migrate_succ hpass.2.1, Nat.le_succ _⟩)).trans (modJob_steady _ _)
    · cases h

theorem endCachePass_steady (j : Job) (s : State) : Steady s (endCachePass j s) := by
  grind [endCachePass, Steady.trans, Steady.refl, requestCk_steady, modJob_steady, beginPass_steady, endJob_steady]

theorem endPass_steady {s t : State} (h : endPass s = some t) : Steady s t := by
  grind [endPass, nextBandPass, Steady.trans, modJob_steady, beginPass_steady, endCachePass_steady]

theorem endPausedPass_steady {s t : State} (h : endPausedPass s = some t) : Steady s t := by
  grind [endPausedPass, Steady.trans, endCachePass_steady, requestCk_steady, modJob_steady]

theorem pauseForProtect_steady {s t : State} (h : pauseForProtect s = some t) : Steady s t := by
  grind [pauseForProtect, closeOpen_steady, modJob_steady]

theorem resumePass_steady {s t : State} (h : resumePass s = some t) : Steady s t := by
  grind [resumePass, beginPass_steady]

theorem firstStep_steady {l : List (State → Option State)} (hl : ∀ f ∈ l, ∀ s t, f s = some t → Steady s t) {s t : State}
    (h : firstStep l s = some t) : Steady s t := by
  induction l with
  | nil => cases h
  | cons f l ih =>
    unfold firstStep at h
    split at h
    · cases h
      exact hl f (by simp) _ _ ‹_›
    · exact ih (fun g hg => hl g (by simp [hg])) h

theorem pumpStep_steady {s t : State} (h : pumpStep s = some t) : Steady s t := by
  have all : ∀ f ∈ [advanceMigrate, handBlock, makeSource, endHanding, endPass, endPausedPass, resumePass, pauseForProtect],
      ∀ s t, f s = some t → Steady s t := by
    simp only [List.forall_mem_cons, List.not_mem_nil, false_implies, implies_true, and_true]
    exact ⟨@advanceMigrate_steady, @handBlock_steady, @makeSource_steady, @endHanding_steady, @endPass_steady,
      @endPausedPass_steady, @resumePass_steady, @pauseForProtect_steady⟩
  unfold pumpStep at h
  repeat' split at h
  · cases h
  all_goals exact firstStep_steady (fun f hf => all f (by simp only [List.mem_cons, List.not_mem_nil, or_false] at hf ⊢; tauto)) h

theorem pumpSteps_steady (fuel : Nat) (s : State) : Steady s (pumpSteps fuel s) := by
  induction fuel generalizing s with
  | zero => exact Steady.refl s
  | succ fuel ih =>
    unfold pumpSteps
    split
    · exact (pumpStep_steady ‹_›).trans (ih _)
    · exact askLaneSeven_steady _

theorem pump_steady (s : State) : Steady s (pump s) := by
  grind [pump, Steady.refl, pumpSteps_steady]

/-! ## What follows a command -/

theorem gateEdge_steady (s : State) : Steady s (gateEdge s) := by
  have level : ∀ b, Steady s { s with gate := b } := fun _ => .of_eq rfl
  unfold gateEdge assertGate deassertGate
  repeat' split
  · exact Steady.refl s
  · exact ((level true).trans (Steady.forAny (fun s n => closeOpen_steady n s) _ _)).trans (refuseTurns_steady _)
  · exact (level false).trans (modJob_steady _ _)
  · exact Steady.refl s

theorem settleRound_steady (s : State) : Steady s (settleRound s) :=
  ((((gateEdge_steady s).trans (informLanes_steady _)).trans (pump_steady _)).trans (informLanes_steady _)).trans
    ((pump_steady _).trans (rs_steady _ _))

/-- What follows a command is steady. -/
theorem settle_steady (s : State) : Steady s (settle s) := by
  unfold settle
  dsimp only
  split
  · exact settleRound_steady s
  · exact (settleRound_steady s).trans (settleRound_steady _)

end Sys2Proof.Machine
end

section
/-! Reads, the data phase, notices and the reclaim engine's reads work steadily too. -/

namespace Sys2Proof.Machine

/-! ## Reads (chapter 7) -/

theorem pinFrame_steady (id : Nat) (s : State) : Steady s (pinFrame id s) := modFrame_steady _ _ _

theorem unpinFrame_steady (id : Nat) (s : State) : Steady s (unpinFrame id s) := modFrame_steady _ _ _

theorem grantEntry_steady (l : SegLoc) (id : Nat) (s : State) : Steady s (grantEntry l id s) := .of_eq rfl

theorem addEntry_steady (e : ReadEntry) (s : State) : Steady s (addEntry e s) := rs_steady _ _

theorem leaveEntry_steady (t : Nat) (l : SegLoc) (s : State) : Steady s (leaveEntry t l s) := by
  grind [leaveEntry, Steady.refl, Steady.trans, modEntry_steady, deleteEntry_steady]

theorem giveUpSegment_steady (t : Nat) (s : State) (l : SegLoc) : Steady s (giveUpSegment t s l) :=
  (unpinSegment_steady _ _).trans (leaveEntry_steady _ _ _)

theorem updateRead_steady (t : Nat) (f : ReadRec → ReadRec) (s : State) : Steady s (updateRead t f s) := by
  unfold updateRead
  split
  · exact Steady.refl s
  · exact ((modRead_steady _ _ _).trans (Steady.foldl (fun s id => unpinFrame_steady id s) _ _)).trans
      (Steady.foldl (giveUpSegment_steady t) _ _)

theorem finishRead_steady (t : Nat) (s : State) : Steady s (finishRead t s) := by
  have failed : ∀ a x y s, Steady s (post .readFailed a x y s) := post_steady _ (by simp [ExcKind.ofWrite])
  grind [finishRead, Steady.refl, Steady.trans, rs_steady, complete_steady]

theorem recycleStalled_steady (s : State) : Steady s (recycleStalled s) := by
  grind [recycleStalled, Steady.refl, Steady.trans, releaseHeld_steady, modEntry_steady, requestFrame_steady]

theorem testStalled_steady (l : List SegLoc) (s : State) : Steady s (testStalled l s) := by
  grind [testStalled, Steady.refl, recycleStalled_steady]

theorem recordFailure_steady (t i : Nat) (k : ReadFail) (a : Actuator) (s : State) : Steady s (recordFailure t i k a s) := by
  grind [recordFailure, Steady.refl, Steady.trans, testStalled_steady, finishRead_steady, updateRead_steady]

theorem askEntry_steady (l : SegLoc) (s : State) : Steady s (askEntry l s) := by
  grind [askEntry, Steady.trans, requestFrame_steady, grantEntry_steady, recycleStalled_steady]

theorem joinEntry_steady (t : Nat) (s : State) (l : SegLoc) : Steady s (joinEntry t s l) := by
  grind [joinEntry, Steady.trans, testStalled_steady, modEntry_steady, askEntry_steady, addEntry_steady]

theorem fetchAhead_steady (a : Actuator) (s : State) : Steady s (fetchAhead a s).2 := by
  grind [fetchAhead, Steady.refl, Steady.trans, requestNoWait_steady, grantEntry_steady, addEntry_steady]

theorem fetchMany_steady (a : Actuator) (fuel : Nat) (s : State) : Steady s (fetchMany a fuel s) := by
  induction fuel generalizing s with
  | zero => exact Steady.refl s
  | succ fuel ih =>
    have h := fetchAhead_steady a s
    unfold fetchMany
    split <;> (rename_i hf; rw [hf] at h)
    · exact h.trans (ih _)
    · exact h

theorem updateAhead_steady (r : ReadRec) (taken : Actuator → Bool) (s : State) (a : Actuator) :
    Steady s (updateAhead r taken s a) := by
  grind [updateAhead, Steady.refl, Steady.trans, rs_steady, fetchAhead_steady, fetchMany_steady]

theorem acceptRead_steady (t lba count : Nat) (s : State) : Steady s (acceptRead t lba count s) := by
  unfold acceptRead
  dsimp only
  refine Steady.trans ?_ (finishRead_steady _ _)
  refine Steady.trans ?_ (Steady.foldl (updateAhead_steady _ _) _ _)
  refine Steady.trans ?_ (Steady.foldl (fun s l => (pinSegment_steady l s).trans (joinEntry_steady t _ l)) _ _)
  refine Steady.trans ?_ (Steady.foldl (fun s id => pinFrame_steady id s) _ _)
  exact rs_steady _ _

theorem deliver_steady (t : Nat) (s : State) : Steady s (deliver t s) := by
  unfold deliver
  repeat' split
  · exact Steady.refl s
  · exact Steady.refl s
  · exact (((send_steady _ _).trans (updateRead_steady _ _ _)).trans (finishRead_steady _ _)).trans (testStalled_steady _ _)

theorem releaseDropped_steady (l : SegLoc) (n : Nat) (s : State) : Steady s (releaseDropped l n s) :=
  (modEntry_steady _ _ _).trans (Steady.foldl (fun s _ => unpinSegment_steady l s) _ _)

theorem failEntry_steady (e : ReadEntry) (s : State) : Steady s (failEntry e s) := by
  unfold failEntry
  refine (deleteEntry_steady _ _).trans (Steady.forAny (fun s t => ?_) _ _)
  grind [Steady.refl, recordFailure_steady]

theorem retryEntry_steady (e : ReadEntry) (s : State) : Steady s (retryEntry e s) := by
  grind [retryEntry, Steady.trans, deleteEntry_steady, failEntry_steady, releaseHeld_steady, unqueueEntry_steady,
    modEntry_steady, askEntry_steady]

theorem entryResult_steady (l : SegLoc) (r : ReadEnd) (s : State) : Steady s (entryResult l r s) := by
  unfold entryResult
  split
  · exact Steady.refl s
  · dsimp only
    rename_i e _
    refine (releaseDropped_steady l e.droppedPins s).trans ?_
    repeat' split
    · exact deleteEntry_steady _ _
    · exact modEntry_steady _ _ _
    · exact retryEntry_steady _ _
    · exact ((modEntry_steady _ _ _).trans (unqueueEntry_steady _ _)).trans (testStalled_steady _ _)
    · exact retryEntry_steady _ _
    · exact retryEntry_steady _ _

theorem expireWait_steady (t : Nat) (s : State) : Steady s (expireWait t s) := by
  grind [expireWait, Steady.refl, recordFailure_steady]

theorem dropSegment_steady (t : Nat) (s : State) (l : SegLoc) : Steady s (dropSegment t s l) := by
  grind [dropSegment, Steady.trans, leaveEntry_steady, modEntry_steady, giveUpSegment_steady]

theorem dropRead_steady (s : State) (r : ReadRec) : Steady s (dropRead s r) := by
  unfold dropRead
  dsimp only
  refine Steady.trans ?_ (Steady.foldl (dropSegment_steady _) _ _)
  refine Steady.trans ?_ (Steady.foldl (fun s id => unpinFrame_steady id s) _ _)
  exact rs_steady _ _

/-! ## The data phase (chapters 4 and 5) -/

theorem phase_steady (s : State) (p : Option DataPhase) (n : Nat) : Steady s { s with phase := p, earmarks := n } := .of_eq rfl

theorem popIntake_steady (s : State) : Steady s (popIntake s) := .of_eq rfl

theorem modPhase_steady (s : State) (f : DataPhase → DataPhase) : Steady s (s.modPhase f) := .of_eq rfl

theorem enterLane_steady (n : Nat) (s : State) : Steady s (enterLane n s) := modLane_steady _ _ _

theorem takeStream_steady (s : State) : Steady s (takeStream s).2 := by
  grind [takeStream, Steady.refl, evictLane_steady]

theorem classify_steady (lba n : Nat) (s : State) : Steady s (classify lba n s).2 := by
  grind [classify, Steady.refl, takeStream_steady]

theorem leavePhase_steady (n : Nat) (s : State) : Steady s (leavePhase n s) :=
  (dropRequest_steady n s).trans (modLane_steady _ _ _)

theorem lateGiveUps_steady (s : State) : Steady s (lateGiveUps s) := by
  refine Steady.forAny (fun s n => ?_) _ _
  split
  · exact giveUpLane_steady _ _
  · exact modLane_steady _ _ _

theorem endPhase_steady (s : State) : Steady s (endPhase s) := by
  unfold endPhase
  split
  · exact Steady.refl s
  · dsimp only
    refine Steady.trans ?_ (refuseTurns_steady _)
    refine Steady.trans ?_ (checkComplete_steady _ _)
    refine Steady.trans ?_ (popIntake_steady _)
    refine Steady.trans ?_ (modTag_steady _ _ _)
    refine Steady.trans ?_ (lateGiveUps_steady _)
    exact (phase_steady s none s.earmarks).trans (leavePhase_steady _ _)

theorem testPhaseEnd_steady (s : State) : Steady s (testPhaseEnd s) := by
  grind [testPhaseEnd, Steady.refl, endPhase_steady]

theorem redirect_steady (m : Nat) (s : State) : Steady s (redirect m s) := by
  grind [redirect, Steady.refl, Steady.trans, leavePhase_steady, modPhase_steady, enterLane_steady]

theorem closeAtNinthRun_steady (n lba : Nat) (s : State) : Steady s (closeAtNinthRun n lba s) := by
  grind [closeAtNinthRun, Steady.refl, closeFrame_steady]

theorem settleLane_steady (lba : Nat) (s : State) : Steady s (settleLane lba s) := by
  grind [settleLane, Steady.refl, Steady.trans, redirect_steady, closeAtNinthRun_steady]

theorem laneSlot_steady (n : Nat) (s : State) : Steady s (laneSlot n s).2 := by
  grind [laneSlot, Steady.refl, Steady.trans, laneFrame_steady, waitLane_steady, dropRequest_steady, laneLocation_steady,
    closeOpen_steady, openFrame_steady]

theorem findSlot_steady (n : Nat) (s : State) : Steady s (findSlot n s).2 := by
  grind [findSlot, Steady.refl, Steady.trans, laneSlot_steady, takeStream_steady, redirect_steady, waitLane_steady]

theorem sendPull_steady (p : DataPhase) (id : Nat) (s : State) : Steady s (sendPull p id s) := by
  have asked : ∀ f g, Steady s (((s.send (.dataPull p.tag)).modFrame id f).modLane p.lane g) := fun f g =>
    ((send_steady _ s).trans (modFrame_steady _ id f)).trans (modLane_steady _ p.lane g)
  have counted : ∀ u (g : DataPhase → DataPhase), Steady u { u.modPhase g with earmarks := (u.modPhase g).earmarks + 1 } :=
    fun u g => phase_steady u (u.phase.map g) _
  unfold sendPull
  dsimp only
  refine Steady.trans ?_ (evalMapPressure_steady _)
  exact (asked _ _).trans (counted _ _)

theorem holdBlock_steady (c : HoldCause) (s : State) : Steady s (holdBlock c s) := modPhase_steady _ _

theorem passBlock_steady (s : State) : Steady s (passBlock s) := by
  grind [passBlock, Steady.refl, holdBlock_steady, sendPull_steady]

theorem testGate_steady (s : State) : Steady s (testGate s) := by
  unfold testGate
  split
  · exact Steady.refl s
  · rename_i p _
    split
    · have hlane := settleLane_steady (p.lba + p.next) s
      dsimp only
      split
      · exact hlane
      · rename_i q _
        have hslot := hlane.trans (findSlot_steady q.lane _)
        split <;> (rename_i hf; rw [hf] at hslot)
        · exact hslot.trans (holdBlock_steady _ _)
        · exact hslot.trans (passBlock_steady _)
    · exact Steady.refl s

theorem acceptLane_steady (u : Pull) (c : Bool) (s : State) : Steady s (acceptLane u c s) := modLane_steady _ _ _

theorem closeAtAcceptance_steady (u : Pull) (s : State) : Steady s (closeAtAcceptance u s) := by
  grind [closeAtAcceptance, Steady.refl, sealFrame_steady, closeFrame_steady]

theorem acceptBlock_steady (p : DataPhase) (u : Pull) (d : Block) (s : State) : Steady s (acceptBlock p u d s) := by
  have store : ∀ f g, Steady s (({ s.modFrame u.frame f with earmarks := s.earmarks - 1 }).modPhase g) := fun _ _ => .of_eq rfl
  unfold acceptBlock
  dsimp only
  split
  · exact store _ _
  · refine Steady.trans ?_ ((acceptLane_steady _ _ _).trans (closeAtAcceptance_steady _ _))
    split
    · exact ((store _ _).trans (place_steady _ _ _)).trans (chargeCredit_steady _ _)
    · exact (store _ _).trans (place_steady _ _ _)

theorem abandonPromise_steady (s : State) (u : Pull) : Steady s (abandonPromise s u) := by
  grind [abandonPromise, Steady.trans, modFrame_steady, sealFrame_steady, modLane_steady]

theorem dropPhase_steady (s : State) : Steady s (dropPhase s) := by
  unfold dropPhase
  split
  · exact Steady.refl s
  · refine Steady.trans ?_ (evalMapPressure_steady _)
    refine Steady.trans ?_ (lateGiveUps_steady _)
    refine Steady.trans ?_ (leavePhase_steady _ _)
    exact (phase_steady s none _).trans (Steady.foldl abandonPromise_steady _ _)

theorem expireHold_steady (s : State) : Steady s (expireHold s) := by
  unfold expireHold
  split
  · exact Steady.refl s
  · refine Steady.trans ?_ (testPhaseEnd_steady _)
    refine Steady.trans ?_ (modLane_steady _ _ _)
    refine Steady.trans ?_ (dropRequest_steady _ _)
    exact (post_steady _ (by simp [ExcKind.ofWrite]) _ _ _ _).trans (modPhase_steady _ _)

theorem startPhase_steady (t : Nat) (e : TagEntry) (s : State) : Steady s (startPhase t e s) :=
  ((classify_steady e.lba e.count s).trans (enterLane_steady _ _)).trans
    ((phase_steady _ _ _).trans (modTag_steady _ _ _))

/-! ## Checkpoint-ring segments and notices (R150 to R153) -/

/-- A change of the running checkpoint that leaves its captured counters alone. -/
theorem modRun_steady (s : State) (f : CkRun → CkRun) (h : ∀ r, (f r).captured = r.captured) : Steady s (s.modRun f) :=
  modCk_steady _ _ rfl (by cases s.ck.run <;> simp [h])

theorem bindRing_steady (k : RingKind) (g : SegKind) (id : Nat) (p : List Block) (n : Nat) (s : State) :
    Steady s (bindRing k g id p n s) := .of_eq rfl

theorem testRingHalf_steady (s : State) : Steady s (testRingHalf s) := by
  grind [testRingHalf, Steady.refl, requestCk_steady]

theorem bindNotice_steady (s : State) : Steady s (bindNotice s) := by
  unfold bindNotice
  repeat' split
  any_goals exact Steady.refl _
  exact (((bindRing_steady _ _ _ _ _ _).trans (modCk_steady _ _ rfl rfl)).trans (modRun_steady _ _ (fun _ => by exact rfl))).trans
    (testRingHalf_steady _)

theorem grantNotice_steady (id : Nat) (s : State) : Steady s (grantNotice id s) :=
  (modCk_steady _ _ rfl rfl).trans (bindNotice_steady _)

theorem takeBatch_steady (s : State) : Steady s (takeBatch s) := by
  have take := modCk_steady s (fun c => { c with notice := some ⟨c.batch, none, false, 0⟩, batch := [] }) rfl rfl
  grind [takeBatch, Steady.refl, Steady.trans, requestFrame_steady, grantNotice_steady]

theorem endNotice_steady (ok : Bool) (s : State) : Steady s (endNotice ok s) := by
  unfold endNotice
  split
  · exact Steady.refl s
  · exact (((releaseHeld_steady _ _).trans (modCk_steady _ _ rfl rfl)).trans
      (Steady.forAny (completeRelease_steady ok) _ _)).trans (takeBatch_steady _)

theorem unqueueRing_steady (id : Nat) (s : State) : Steady s (unqueueRing id s) := modCk_steady _ _ rfl rfl

theorem restartCk_steady (s : State) : Steady s (restartCk s) := by
  have again := modCk_steady s (fun c => { c with restart := true }) rfl rfl
  grind [restartCk, requestCk_steady]

theorem bindClose_steady (s : State) : Steady s (bindClose s) := by
  unfold bindClose
  repeat' split
  any_goals exact Steady.refl _
  exact (bindRing_steady _ _ _ _ _ _).trans (modRun_steady _ _ (fun _ => by exact rfl))

theorem grantClose_steady (id : Nat) (s : State) : Steady s (grantClose id s) :=
  (modRun_steady _ _ (fun _ => by exact rfl)).trans (bindClose_steady _)

theorem askNext_steady (s : State) : Steady s (askNext s).2 := by
  have page := modRun_steady s (fun r => { r with ask := .page }) (fun _ => rfl)
  have close := modRun_steady s (fun r => { r with ask := .close }) (fun _ => rfl)
  grind [askNext, Steady.refl, Steady.trans, requestFrame_steady, grantClose_steady]

theorem captureBands_steady (a : Actuator) (b id : Nat) (r : CkRun) (s : State) : Steady s (captureBands a b id r s) :=
  (bindRing_steady _ _ _ _ _ _).trans (modRun_steady _ _ (fun _ => by exact rfl))

theorem captureExtents_steady (l : List Extent) (id : Nat) (s : State) : Steady s (captureExtents l id s) :=
  (bindRing_steady _ _ _ _ _ _).trans (modRun_steady _ _ (fun _ => by exact rfl))

/-! ## Source reads, commits, ports -/

theorem popSource_steady (a : Actuator) (s : State) : Steady s (popSource a s) := rc_steady _ _

theorem failSource_steady (l : SegLoc) (s : State) : Steady s (failSource l s) := by
  unfold failSource
  dsimp only
  have h : ∀ b p q, Steady s (resolveMoves .dead q (resolveMoves .lost p (makeLostEach b (deleteSource l s)).2)) := fun b p q =>
    (((deleteSource_steady l s).trans (makeLostEach_steady b _)).trans (resolveMoves_steady _ p _)).trans
      (resolveMoves_steady _ q _)
  split
  · exact h _ _ _
  · exact (h _ _ _).trans (post_steady _ (by simp [ExcKind.ofWrite]) _ _ _ _)

theorem retrySource_steady (e : SourceRead) (s : State) : Steady s (retrySource e s) := by
  grind [retrySource, Steady.trans, resolveMoves_steady, deleteSource_steady, failSource_steady, modSource_steady, rc_steady]

theorem readSource_steady (e : SourceRead) (t : Stamp) (s : State) : Steady s (readSource e t s) := by
  grind [readSource, Steady.trans, resolveMoves_steady, modJob_steady, modSource_steady, tidySource_steady, retrySource_steady]

theorem sourceResult_steady (l : SegLoc) (r : ReadEnd) (s : State) : Steady s (sourceResult l r s) := by
  unfold sourceResult
  repeat' split
  · exact Steady.refl _
  · exact modSource_steady _ _ _
  · exact (popSource_steady _ _).trans (retrySource_steady _ _)
  · exact (popSource_steady _ _).trans (readSource_steady _ _ _)
  · exact (popSource_steady _ _).trans (retrySource_steady _ _)
  · exact ((popSource_steady _ _).trans (releaseHeld_steady _ _)).trans (rc_steady _ _)

theorem commitSlot_steady {f : Frame} {l : SegLoc} {k : Nat} {s t : State} (h : commitSlot f l k s = some t) : Steady s t := by
  grind [commitSlot, Steady.refl, Steady.trans, resolveMoves_steady, conditionalMove_steady]

theorem commitSlots_steady (f : Frame) (l : SegLoc) (ks : List Nat) (s : State) : Steady s (commitSlots f l ks s).2 := by
  induction ks generalizing s with
  | nil => exact Steady.refl s
  | cons k ks ih =>
    unfold commitSlots
    split
    · exact ((commitSlot_steady ‹_›).trans (rc_steady _ _)).trans (ih _)
    · exact rc_steady _ _

theorem commitHead_steady (s : State) : Steady s (commitHead s) := by
  unfold commitHead
  dsimp only
  split
  · exact Steady.refl s
  split
  · exact Steady.refl s
  · rename_i id rest _ _ l _
    have h := commitSlots_steady (s.frame id) l ((List.range (s.frame id).fill).drop s.rc.commitAt) s
    split <;> (rename_i hc; rw [hc] at h)
    · exact (h.trans (rc_steady _ _)).trans (releaseFrame_steady _ _)
    · exact h

theorem issue_steady (a : Actuator) (r : Request) (s : State) : Steady s (issue a r s) := by
  unfold issue
  dsimp only
  repeat' split
  all_goals exact .of_eq rfl

theorem runArbiter_steady (a : Actuator) (s : State) : Steady s (runArbiter a s) := by
  grind [runArbiter, grantRequester, Steady.refl, Steady.trans, issue_steady, modPort_steady]

theorem losePort_steady (a : Actuator) (s : State) (n : Nat) : Steady s (losePort a s n) := by
  grind [losePort, Steady.refl, Steady.trans, closeOpen_steady, giveUpLaneBand_steady, modLane_steady]

theorem enterDown_steady (a : Actuator) (s : State) : Steady s (enterDown a s) :=
  (((post_steady _ (by simp [ExcKind.ofWrite]) _ _ _ _).trans (modPort_steady _ _ _)).trans
    (Steady.forAny (losePort_steady a) _ _)).trans (modJob_steady _ _)

theorem endOp_steady (a : Actuator) (s : State) : Steady s (endOp a s) := modPort_steady _ _ _

theorem scramble_steady (f : Option Nat) (s : State) : Steady s (scramble f s) := by
  unfold scramble
  split <;> exact .of_eq rfl

theorem fillFrame_steady (f : Option Nat) (p : List Block) (s : State) : Steady s (fillFrame f p s) := by
  cases f
  · exact Steady.refl s
  · exact modFrame_steady _ _ _

theorem takeWritten_steady (id : Nat) (l : SegLoc) (s : State) : Steady s (takeWritten id l s) :=
  ((modJob_steady _ _).trans (modFrame_steady _ _ _)).trans (rc_steady _ _)

theorem routeNotReady_steady (o : Op) (s : State) : Steady s (routeNotReady o s) := by
  have ended : ∀ id seg s, Steady s (endAbandoned id seg false s) := fun _ _ _ => releaseFrame_steady _ _
  grind [routeNotReady, Steady.refl, Steady.trans, scramble_steady, releaseHeld_steady, entryResult_steady, sourceResult_steady]

theorem endNotReady_steady (a : Actuator) (o : Op) (s : State) : Steady s (endNotReady a o s) := by
  grind [endNotReady, Steady.trans, endOp_steady, routeNotReady_steady, enterDown_steady]

end Sys2Proof.Machine
end

section
/-! Every command that is no reset leaves the rings in order outside recovery (O10). -/

namespace Sys2Proof.Machine

/-! ## Updates that are not steady -/

/-- A change of an actuator's bands and parked list. -/
theorem modMgr_ringsKept (s : State) (a : Actuator) (f : BandMgr → BandMgr) (h : ∀ m, (f m).ring = m.ring) :
    RingsKept s (s.modMgr a f) := by
  refine .of_eq ?_
  cases a <;> simp [State.ringPart, State.ring, State.modMgr, Two.modify, Two.get, h, State.captures]

theorem modBand_ringsKept (s : State) (a : Actuator) (b : Nat) (f : Band → Band) : RingsKept s (s.modBand a b f) :=
  modMgr_ringsKept s a _ (fun _ => rfl)

theorem park_ringsKept (a : Actuator) (b : Nat) (s : State) : RingsKept s (park a b s) :=
  (modBand_ringsKept s a b _).trans (modMgr_ringsKept _ a _ (fun _ => by exact rfl))

theorem post_ringsKept (k : ExcKind) (a : Actuator) (x y : Nat) (s : State) : RingsKept s (post k a x y s) := .of_eq rfl

theorem maint_ringsKept (s : State) (m : Maint) : RingsKept s { s with maint := m } := .of_eq rfl

theorem respond_ringsKept (st : Status) (p : List Byte) (s : State) : RingsKept s (respond st p s) := .of_eq rfl

theorem service_ringsKept (s : State) (x : Service) : RingsKept s { s with service := x } := .of_eq rfl

theorem modCk_ringsKept (s : State) (f : Ckpt → Ckpt) (h : (f s.ck).run = s.ck.run) : RingsKept s (s.modCk f) :=
  .of_eq (by simp only [State.ringPart, State.modCk, State.captures, h]; rfl)

/-- Without a running checkpoint there is nothing captured to respect. -/
theorem endRun_ringsKept (s : State) (f : Ckpt → Ckpt) (h : (f s.ck).run = none) : RingsKept s (s.modCk f) := by
  refine ⟨fun hoff hok => ⟨hoff, ?_⟩⟩
  rw [ringsOk_iff] at *
  exact fun a => ⟨(hok a).1, fun c hc => by simp [State.captures, State.modCk, h] at hc⟩

/-! ## The checkpoint writer (chapter 9) -/

theorem failNotice_ringsKept (id ctr : Nat) (s : State) : RingsKept s (failNotice id ctr s) := by
  have failed : RingsKept s ((post .checkpointFailed .A (ctr % s.cks) 0 (unqueueRing id s)).modCk (fun c =>
      { c with notice := c.notice.map (fun n => { n with bound := false, attempts := n.attempts + 1 }) })) :=
    ((unqueueRing_steady id s).rings.trans (post_ringsKept _ _ _ _ _)).trans (modCk_ringsKept _ _ rfl)
  unfold failNotice
  dsimp only
  repeat' split
  · exact failed
  · exact failed.trans ((endNotice_steady _ _).trans (requestCk_steady _)).rings
  · exact failed.trans (bindNotice_steady _).rings

/-! ## The abandonment of a checkpoint (R160) -/

/-- What an abandoned checkpoint leaves of its run: notices alone in the queue, ring_tail at the rewind point. -/
def rewindRun (r : CkRun) (s : State) : State :=
  let s := s.modCk (fun c =>
    { c with queue := c.queue.filter (fun q => q.kind = .notice), ringTail := max r.startPos r.noticeEnd, run := none })
  if r.answers then { s with maint := { s.maint with awaitStart := true } } else s

/-- The start that follows an abandonment, or the end of the last attempt after FORMAT (R160, R176). -/
def retryCk (s : State) : State :=
  match s.ck.formatTries with
  | some n =>
    if Config.maxWriteAttempts ≤ n + 1 then
      { s.modCk (fun c => { c with wanted := false, formatTries := none }) with service := .halted }
    else restartCk (s.modCk (fun c => { c with formatTries := some (n + 1) }))
  | none => restartCk s

/-- Only the frame pool differs. -/
def PoolOnly (s t : State) : Prop := ∃ p, t = { s with pool := p }

theorem PoolOnly.refl (s : State) : PoolOnly s s := ⟨s.pool, rfl⟩

theorem PoolOnly.trans {s t u : State} : PoolOnly s t → PoolOnly t u → PoolOnly s u := by
  rintro ⟨p, rfl⟩ ⟨q, rfl⟩
  exact ⟨q, rfl⟩

theorem releaseFrame_poolOnly (id : Nat) (s : State) : PoolOnly s (releaseFrame id s) := ⟨_, rfl⟩

theorem withdraw_poolOnly (r : Requester) (s : State) : PoolOnly s (withdraw r s) := ⟨_, rfl⟩

theorem releaseHeld_poolOnly (f : Option Nat) (s : State) : PoolOnly s (releaseHeld f s) := by
  cases f
  · exact PoolOnly.refl s
  · exact releaseFrame_poolOnly _ s

theorem releaseFrames_poolOnly (l : List Nat) (s : State) : PoolOnly s (l.foldl (fun s id => releaseFrame id s) s) := by
  induction l generalizing s with
  | nil => exact PoolOnly.refl s
  | cons id l ih => exact (releaseFrame_poolOnly id s).trans (ih _)

/-- An abandonment releases frames, rewinds the ring, starts again where it may, and binds a waiting notice. -/
theorem abandonCheckpoint_eq {s : State} {r : CkRun} (h : s.ck.run = some r) :
    ∃ p, abandonCheckpoint s = bindNotice (retryCk (rewindRun r { s with pool := p })) := by
  have frames := releaseFrames_poolOnly
    (((s.ck.queue.filter (fun q => q.kind ≠ .notice)).map (fun q => q.frame)).filter (fun id => !s.writing .A id)) s
  have close : ∀ t, PoolOnly t (if r.closeBound then t else releaseHeld r.closeFrame t) := fun t => by
    split
    · exact PoolOnly.refl t
    · exact releaseHeld_poolOnly _ t
  obtain ⟨p, hp⟩ := (((frames.trans (close _)).trans (releaseHeld_poolOnly r.pageFrame _)).trans
    (withdraw_poolOnly .page _)).trans (withdraw_poolOnly .close _)
  refine ⟨p, ?_⟩
  unfold abandonCheckpoint
  rw [h]
  dsimp only
  rw [hp]
  rfl

theorem retryCk_ringsKept (s : State) : RingsKept s (retryCk s) := by
  unfold retryCk
  repeat' split
  · exact (modCk_ringsKept _ _ rfl).trans (service_ringsKept _ _)
  · exact (modCk_ringsKept _ _ rfl).trans (restartCk_steady _).rings
  · exact (restartCk_steady _).rings

theorem rewindRun_ringsKept (r : CkRun) (s : State) : RingsKept s (rewindRun r s) := by
  unfold rewindRun
  dsimp only
  split
  · exact (endRun_ringsKept s _ rfl).trans (maint_ringsKept _ _)
  · exact endRun_ringsKept s _ rfl

theorem abandonCheckpoint_ringsKept (s : State) : RingsKept s (abandonCheckpoint s) := by
  cases h : s.ck.run with
  | none =>
    unfold abandonCheckpoint
    rw [h]
    exact RingsKept.refl s
  | some r =>
    obtain ⟨p, hp⟩ := abandonCheckpoint_eq h
    have pool : RingsKept s { s with pool := p } := .of_eq rfl
    rw [hp]
    exact ((pool.trans (rewindRun_ringsKept r _)).trans (retryCk_ringsKept _)).trans (bindNotice_steady _).rings

theorem failCheckpoint_ringsKept (ctr : Nat) (s : State) : RingsKept s (failCheckpoint ctr s) :=
  (post_ringsKept _ _ _ _ _).trans (abandonCheckpoint_ringsKept _)

theorem endAbandoned_ringsKept (id seg : Nat) (failed : Bool) (s : State) : RingsKept s (endAbandoned id seg failed s) := by
  unfold endAbandoned
  split
  · exact (post_ringsKept _ _ _ _ _).trans (releaseFrame_steady _ _).rings
  · exact (releaseFrame_steady _ _).rings

theorem testOverflow_ringsKept (s : State) : RingsKept s (testOverflow s) := by
  unfold testOverflow
  dsimp only
  repeat' split
  any_goals exact RingsKept.refl _
  exact (post_ringsKept _ _ _ _ _).trans (abandonCheckpoint_ringsKept _)

theorem capturePages_ringsKept (fuel id : Nat) (s : State) : RingsKept s (capturePages fuel id s) := by
  induction fuel generalizing id s with
  | zero => exact RingsKept.refl s
  | succ fuel ih =>
    have after : ∀ t, RingsKept s t → RingsKept s (match askNext t with
        | (some id, s) => capturePages fuel id s
        | (none, s) => s) := by
      intro t ht
      have h := ht.trans (askNext_steady t).rings
      split <;> (rename_i ha; rw [ha] at h)
      · exact h.trans (ih _ _)
      · exact h
    unfold capturePages
    split
    · exact RingsKept.refl s
    · dsimp only
      split
      · exact (modRun_steady _ _ (fun _ => by exact rfl)).rings
      · split
        · exact after _ (captureBands_steady _ _ _ _ _).rings
        · split
          · exact (grantClose_steady _ _).rings
          · exact after _ ((captureExtents_steady _ _ _).rings.trans (testOverflow_ringsKept _))

theorem grantPage_ringsKept (id : Nat) (s : State) : RingsKept s (grantPage id s) := capturePages_ringsKept _ _ _

/-- A checkpoint that starts captures the present migrate_head of each ring (R63). -/
theorem startRun_ringsKept (s : State) (f : Ckpt → Ckpt) {r : CkRun} (h : (f s.ck).run = some r)
    (hc : r.captured = ⟨s.captureRing .A, s.captureRing .B⟩) : RingsKept s (s.modCk f) := by
  refine ⟨fun hoff hok => ⟨hoff, ?_⟩⟩
  rw [ringsOk_iff] at *
  refine fun a => ⟨(hok a).1, fun c h' => ?_⟩
  simp only [State.captures, State.modCk, h, Option.map_some, Option.some.injEq] at h'
  rw [← h', hc]
  cases a <;> exact le_refl _

theorem startCheckpoint_ringsKept (s : State) : RingsKept s (startCheckpoint s) := by
  unfold startCheckpoint
  split
  · dsimp only
    generalize hr : (CkRun.mk _ _ _ _ _ _ _ _ _ _ _ _ _ _ _ _) = run
    have h := ((startRun_ringsKept s (fun c =>
      { c with run := some run, wanted := c.restart && c.wanted, restart := false, dStart := 0 }) rfl (by rw [← hr])).trans
      (maint_ringsKept _ { s.maint with awaitStart := false })).trans (requestFrame_steady .page _).rings
    split
    · rename_i hq
      have h' := (congrArg (fun x : Option Nat × State => RingsKept s x.2) hq).mp h
      exact h'.trans (grantPage_ringsKept _ _)
    · rename_i hq
      exact (congrArg (fun x : Option Nat × State => RingsKept s x.2) hq).mp h
  · exact RingsKept.refl s

/-- The free target takes a captured migrate_head, which is no higher than the present one (R62, R63). -/
theorem releaseRing_ringsKept {s : State} {r : CkRun} (hr : s.ck.run = some r) (a : Actuator) :
    RingsKept s (releaseRing a (r.captured.get a).migrateHead s) := by
  refine ⟨fun hoff hok => ?_⟩
  have hcap : (r.captured.get a).migrateHead ≤ (s.ring a).migrateHead := (hok a).2.2.2.2 r hr
  refine ((modRing_ringsKept s a (fun x => { x with freeTarget := max x.freeTarget (r.captured.get a).migrateHead })
    (fun ⟨h1, h2, h3, h4⟩ => ⟨⟨?_, ?_, h3, h4⟩, le_refl _⟩)).trans (advanceFree_steady _ _).rings).kept hoff hok
  · exact le_trans h1 (le_max_left _ _)
  · exact max_le h2 hcap

theorem evalLatch_ck (a : Actuator) (s : State) : (evalLatch a s).ck = s.ck := by
  unfold evalLatch
  dsimp only
  repeat' split
  all_goals rfl

theorem releaseRing_ck (a : Actuator) (n : Nat) (s : State) : (releaseRing a n s).ck = s.ck := evalLatch_ck _ _

theorem settlePendingBlank_steady (r : CkRun) (s : State) : Steady s (settlePendingBlank r s) := by
  have h := modCk_steady s (fun c => { c with pendingBlank := c.pendingBlank.filter (fun p => decide (r.sStart ≤ p.2.2)) }) rfl rfl
  grind [settlePendingBlank, Steady.trans, requestCk_steady]

theorem enterReady_ringsKept (s : State) : RingsKept s (enterReady s) :=
  RingsKept.trans (t := { s with service := .ready, rc := { s.rc with idleClock := some s.now, idleExpired := false } }) (.of_eq rfl)
    (((evalMapPressure_steady _).trans (evalBandPressure_steady _ _)).trans (evalBandPressure_steady _ _)).rings

theorem answerCheckpoint_ringsKept (r : CkRun) (s : State) : RingsKept s (answerCheckpoint r s) := by
  unfold answerCheckpoint
  split
  · exact maint_ringsKept _ _
  · exact RingsKept.refl s

theorem Inner.run {s t : State} (h : Inner s t) : t.ck.run = s.ck.run := by
  have := h.outside
  simp only [State.outside, Outside.mk.injEq] at this
  tauto

theorem completeCheckpoint_ringsKept (s : State) : RingsKept s (completeCheckpoint s) := by
  have last : ∀ t, RingsKept t (if t.service = .formatting then
      enterReady (t.modCk (fun c => { c with formatTries := none })) else t) := fun t => by
    split
    · exact (modCk_ringsKept _ _ rfl).trans (enterReady_ringsKept _)
    · exact RingsKept.refl t
  unfold completeCheckpoint
  split
  · exact RingsKept.refl s
  · rename_i r hr
    dsimp only
    refine RingsKept.trans ?_ ((bindNotice_steady _).trans (testRingHalf_steady _)).rings
    refine RingsKept.trans ?_ (last _)
    refine RingsKept.trans ?_ (answerCheckpoint_ringsKept _ _)
    refine RingsKept.trans ?_ (endRun_ringsKept _ _ rfl)
    refine RingsKept.trans ?_ ((settlePendingBlank_steady _ _).trans (releaseHeld_steady _ _)).rings
    generalize hu : State.forAny _ _ _ = u
    have hrings : RingsKept s u := by
      rw [← hu]
      refine RingsKept.trans ?_ (Steady.forAny (fun s (x : Actuator × Nat) => testEvacuated_steady x.1 x.2 s) _ _).rings
      exact .of_eq rfl
    have hrun : u.ck.run = some r := by
      rw [← hu, (Inner.forAny (fun s (x : Actuator × Nat) => testEvacuated_inner x.1 x.2 s) _ _).run]
      exact hr
    refine (hrings.trans (releaseRing_ringsKept hrun .A)).trans (releaseRing_ringsKept (r := r) ?_ .B)
    rw [releaseRing_ck]
    exact hrun

theorem ringWritten_ringsKept (q : RingSeg) (s : State) : RingsKept s (ringWritten q s) := by
  unfold ringWritten
  dsimp only
  refine (unqueueRing_steady q.frame s).rings.trans ?_
  split
  · exact (endNotice_steady _ _).rings
  · exact (((releaseFrame_steady _ _).trans (modRun_steady _ _ (fun _ => by exact rfl))).trans (bindClose_steady _)).rings
  · exact completeCheckpoint_ringsKept _

theorem ringFailed_ringsKept (q : RingSeg) (s : State) : RingsKept s (ringFailed q s) := by
  unfold ringFailed
  split
  · exact failNotice_ringsKept _ _ _
  · exact failCheckpoint_ringsKept _ _
  · exact failCheckpoint_ringsKept _ _

/-! ## Recovery -/

/-- While a recovery runs there is nothing to say of a step (R166). -/
theorem recovery_ringsKept {s : State} (h : s.recov ≠ Recovery.off) (t : State) : RingsKept s t := ⟨fun hoff => absurd hoff h⟩

theorem scanTaken_ringsKept (a : Actuator) (l : List ScanEntry) (s : State) : RingsKept s (scanTaken a l s) := by
  unfold scanTaken
  split
  · exact RingsKept.refl s
  · exact recovery_ringsKept (recov_ne_off ‹_›) _

theorem readTaken_ringsKept (a : Actuator) (r : ReadEnd) (p : List Block) (s : State) : RingsKept s (readTaken a r p s) := by
  unfold readTaken
  split
  · exact RingsKept.refl s
  · exact recovery_ringsKept (recov_ne_off ‹_›) _

theorem grantScanner_ringsKept (a : Actuator) (id : Nat) (s : State) : RingsKept s (grantScanner a id s) := by
  by_cases h : s.recov = Recovery.off
  · refine .of_eq ?_
    simp only [State.ringPart, grantScanner, State.modWork, State.modRec, h]
    cases a <;> rfl
  · exact recovery_ringsKept h _

/-! ## Media ports -/

theorem bandWritten_ringsKept (a : Actuator) (b : Nat) (s : State) : RingsKept s (bandWritten a b s) := by
  unfold bandWritten
  dsimp only
  refine (modBand_ringsKept s a b (fun r => { r with written := r.written + 1, bound := r.bound - 1 })).trans ?_
  repeat' split
  · exact modBand_ringsKept _ _ _ _
  · exact park_ringsKept _ _ _
  · exact RingsKept.refl _
  · exact RingsKept.refl _

theorem laneWritten_ringsKept (n id : Nat) (l : SegLoc) (s : State) : RingsKept s (laneWritten n id l s) := by
  have band : RingsKept s (if l.region = .band then bandWritten l.act l.band s else s) := by
    split
    · exact bandWritten_ringsKept _ _ _
    · exact RingsKept.refl s
  have queue := band.trans ((leaveQueue_steady n id _).trans
    (modFrame_steady _ id (fun f => { f with written := true, waiters := [] }))).rings
  unfold laneWritten
  dsimp only
  split
  · exact queue.trans (takeWritten_steady _ _ _).rings
  · exact queue.trans ((releaseFrame_steady _ _).trans (wakeWaiters_steady _ _)).rings

theorem laneFailed_ringsKept (n id : Nat) (l : SegLoc) (b : Bool) (s : State) : RingsKept s (laneFailed n id l b s) := by
  have lost : ∀ t, RingsKept t (loseBand l t) := fun _ => .of_eq rfl
  unfold laneFailed
  dsimp only
  refine RingsKept.trans ?_ (failFrame_steady _ _ _).rings
  split
  · exact ((modBand_ringsKept _ _ _ _).trans (post_ringsKept _ _ _ _ _)).trans (lost _)
  · exact post_ringsKept _ _ _ _ _

theorem routeWrite_ringsKept (o : Op) (ok b : Bool) (s : State) : RingsKept s (routeWrite o ok b s) := by
  unfold routeWrite
  repeat' split
  all_goals first
    | exact RingsKept.refl _
    | exact (releaseHeld_steady _ _).rings
    | exact laneWritten_ringsKept _ _ _ _
    | exact laneFailed_ringsKept _ _ _ _ _
    | exact ringWritten_ringsKept _ _
    | exact ringFailed_ringsKept _ _
    | exact endAbandoned_ringsKept _ _ _ _

theorem takeWrite_ringsKept (a : Actuator) (o : Op) (r : WriteResult) (s : State) : RingsKept s (takeWrite a o r s) := by
  unfold takeWrite
  repeat' split
  all_goals first
    | exact (endNotReady_steady _ _ _).rings
    | exact (endOp_steady a s).rings.trans (routeWrite_ringsKept _ _ _ _)

theorem routeRead_ringsKept (a : Actuator) (o : Op) (r : ReadEnd) (p : List Block) (s : State) :
    RingsKept s (routeRead a o r p s) := by
  unfold routeRead
  repeat' split
  all_goals first
    | exact RingsKept.refl _
    | exact (releaseHeld_steady _ _).rings
    | exact (entryResult_steady _ _ _).rings
    | exact (sourceResult_steady _ _ _).rings
    | exact readTaken_ringsKept _ _ _ _

theorem takeRead_ringsKept (a : Actuator) (o : Op) (r : ReadResult) (s : State) : RingsKept s (takeRead a o r s) := by
  have live : ∀ (f : State → State), (∀ u, Steady u (f u)) → ∀ u, RingsKept u (if o.live then f u else u) := fun f hf u => by
    split
    · exact (hf u).rings
    · exact RingsKept.refl u
  unfold takeRead
  split
  · exact (endNotReady_steady _ _ _).rings
  · cases r with
    | done header trailer payload =>
      exact ((endOp_steady a s).rings.trans (live _ (fun u => fillFrame_steady o.frame payload u) _)).trans
        (routeRead_ringsKept _ _ _ _ _)
    | unreadable =>
      exact ((endOp_steady a s).rings.trans (live _ (fun u => scramble_steady o.frame u) _)).trans
        (routeRead_ringsKept _ _ _ _ _)
    | notReady => exact (endNotReady_steady _ _ _).rings

theorem takeScan_ringsKept (a : Actuator) (o : Op) (r : ScanResult) (s : State) : RingsKept s (takeScan a o r s) := by
  unfold takeScan
  dsimp only
  repeat' split
  all_goals first
    | exact (endNotReady_steady _ _ _).rings
    | exact (endOp_steady _ _).rings
    | exact (endOp_steady a s).rings.trans (scanTaken_ringsKept _ _ _)

end Sys2Proof.Machine
end

section
/-! The rings under every command (O10): the trigger tests, the front link, maintenance and resets. -/

namespace Sys2Proof.Machine

/-! ## Triggers (R133) -/

theorem tellLaneSeven_steady (a : Actuator) (s : State) : Steady s (tellLaneSeven a s) := modLane_steady _ _ _

theorem evacuate_ringsKept (a : Actuator) (b : Nat) (s : State) : RingsKept s (evacuate a b s) := by
  have leave : ∀ f c p, RingsKept s (dropAheadWhere p (returnCredit a c (s.modBand a b f))) := fun f c p =>
    (modBand_ringsKept s a b f).trans ((returnCredit_steady _ _ _).trans (dropAheadWhere_steady _ _)).rings
  unfold evacuate
  dsimp only
  repeat' split
  · exact (leave _ _ _).trans (endBandJob_steady _ _ _ _).rings
  · exact leave _ _ _
  · exact leave _ _ _

theorem startBandJob_ringsKept (t : Trigger) (a : Actuator) (b : Nat) (s : State) : RingsKept s (startBandJob t a b s) := by
  have cleaning : ∀ c f, RingsKept s ((tellLaneSeven a { s with rc := c }).modBand a b f) := fun c f =>
    ((rc_steady s c).trans (tellLaneSeven_steady a _)).rings.trans (modBand_ringsKept _ _ _ _)
  unfold startBandJob
  dsimp only
  split
  · exact (cleaning _ _).trans (evacuate_ringsKept _ _ _)
  · exact (cleaning _ _).trans (beginPass_steady _).rings

theorem startCacheJob_ringsKept (t : Trigger) (a : Actuator) (s : State) : RingsKept s (startCacheJob t a s) :=
  (((rc_steady s _).trans (tellLaneSeven_steady _ _)).trans (beginPass_steady _)).rings

theorem tryEach_ringsKept {α : Type} {f : α → State → Bool × State} (h : ∀ x s, RingsKept s (f x s).2) (l : List α) (s : State) :
    RingsKept s (tryEach f l s).2 := by
  induction l generalizing s with
  | nil => exact RingsKept.refl s
  | cons x l ih =>
    have hx := h x s
    unfold tryEach
    split <;> (rename_i hf; rw [hf] at hx)
    · exact hx
    · exact hx.trans (ih _)

theorem rc_ringsKept (s : State) (c : Reclaim) : RingsKept s { s with rc := c } := (rc_steady s c).rings

theorem tryActuator_ringsKept (t : Trigger) (p : State → Actuator → Bool) (a : Actuator) (s : State) :
    RingsKept s (tryActuator t p a s).2 := by
  grind [tryActuator, RingsKept.refl, RingsKept.trans, rc_ringsKept, startBandJob_ringsKept, post_ringsKept]

theorem tryMap_ringsKept (s : State) : RingsKept s (tryMap s).2 := by
  grind [tryMap, RingsKept.refl, RingsKept.trans, rc_ringsKept, startBandJob_ringsKept, post_ringsKept]

theorem tryRing_ringsKept (t : Trigger) (p : State → Actuator → Bool) (a : Actuator) (s : State) :
    RingsKept s (tryRing t p a s).2 := by
  grind [tryRing, RingsKept.refl, startCacheJob_ringsKept]

theorem tryTrigger_ringsKept (t : Trigger) (s : State) : RingsKept s (tryTrigger t s).2 := by
  cases t
  · exact tryEach_ringsKept (tryActuator_ringsKept _ _) _ _
  · exact tryMap_ringsKept _
  · exact tryEach_ringsKept (tryRing_ringsKept _ _) _ _
  · exact tryEach_ringsKept (tryActuator_ringsKept _ _) _ _
  · exact tryEach_ringsKept (tryRing_ringsKept _ _) _ _

theorem testTriggers_ringsKept (s : State) : RingsKept s (testTriggers s) := by
  unfold testTriggers
  split
  · exact tryEach_ringsKept tryTrigger_ringsKept _ _
  · exact RingsKept.refl s

/-! ## The front link and the write intake -/

theorem arrive_ringsKept (t : Nat) (r : Arrival) (x : Stand) (f : State → State) (h : ∀ s, Steady s (f s)) (s : State) :
    RingsKept s (arrive t r x f s) := by
  unfold arrive
  dsimp only
  split
  · exact .of_eq rfl
  · have tagged : RingsKept s (takeTag t r x (restartIdleClock s)) := .of_eq rfl
    exact tagged.trans ((h _).trans (settle_steady _)).rings

theorem joinIntake_steady (t : Nat) (s : State) : Steady s (joinIntake t s) := .of_eq rfl

theorem dropRequests_ringsKept (s : State) : RingsKept s (dropRequests s) := by
  unfold dropRequests
  dsimp only
  have h := (dropPhase_steady s).trans (Steady.foldl dropRead_steady (dropPhase s).rs.reads _)
  generalize (dropPhase s).rs.reads.foldl dropRead (dropPhase s) = u at *
  exact h.rings.trans (.of_eq rfl)

theorem acceptRelease_ringsKept (t : Nat) (e : TagEntry) (s : State) : RingsKept s (acceptRelease t e s) := by
  unfold acceptRelease
  dsimp only
  refine (releaseRange_steady e.lba e.count s).rings.trans ?_
  refine RingsKept.trans ?_ (refuseTurns_steady _).rings
  refine RingsKept.trans ?_ (popIntake_steady _).rings
  refine RingsKept.trans ?_ (modTag_steady _ _ _).rings
  refine RingsKept.trans ?_ (takeBatch_steady _).rings
  exact (assignSeq_steady _).rings.trans (modCk_ringsKept _ _ rfl)

theorem joinFrames_steady (t : Nat) (s : State) : Steady s (joinFrames t s) := .of_eq rfl

theorem acceptFlush_steady (t : Nat) (s : State) : Steady s (acceptFlush t s) := by
  unfold acceptFlush
  dsimp only
  refine Steady.trans ?_ (refuseTurns_steady _)
  refine Steady.trans ?_ (checkComplete_steady _ _)
  refine Steady.trans ?_ (popIntake_steady _)
  refine Steady.trans ?_ (modTag_steady _ _ _)
  refine Steady.trans ?_ (joinFrames_steady _ _)
  exact Steady.forAny (fun s n => closeOpen_steady n s) _ _

/-! ## The pool's offer -/

theorem deliverFrame_ringsKept (r : Requester) (id : Nat) (s : State) : RingsKept s (deliverFrame r id s) := by
  unfold deliverFrame
  split
  · exact (modLane_steady _ _ _).rings
  · exact (grantEntry_steady _ _ _).rings
  · exact (grantSource_steady _ _ _).rings
  · exact grantPage_ringsKept _ _
  · exact (grantClose_steady _ _).rings
  · exact (grantNotice_steady _ _).rings
  · exact grantScanner_ringsKept _ _ _

theorem grantFrame_ringsKept {r : Requester} {s t : State} {id : Nat} (hg : grantFrame r s = some (id, t)) : RingsKept s t := by
  unfold grantFrame at hg
  split at hg <;> cases hg
  exact (modFrame_steady _ _ _).rings

theorem dequeue_ringsKept (c : FrameClass) (s : State) : RingsKept s (dequeue c s) := .of_eq rfl

theorem offerFrame_ringsKept (s : State) : RingsKept s (offerFrame s) := by
  unfold offerFrame
  split
  · split
    · exact RingsKept.refl s
    · exact (recycleStalled_steady s).rings
  · split
    · rename_i id t hg
      exact (((grantFrame_ringsKept hg).trans (dequeue_ringsKept _ _)).trans (deliverFrame_ringsKept _ _ _)).trans
        (recycleStalled_steady _).rings
    · exact RingsKept.refl s

/-! ## Maintenance -/

theorem take_ringsKept (a : BitVec 7) (f : State → State) (s : State) (h : ∀ s, RingsKept s (f s)) : RingsKept s (take a f s) := by
  unfold take
  split
  · exact RingsKept.refl s
  · exact h s

theorem takeLen_ringsKept (w : MaintWrite) (n : Nat) (f : State → State) (s : State) (h : ∀ s, RingsKept s (f s)) :
    RingsKept s (takeLen w n f s) := by
  refine take_ringsKept _ _ _ (fun s => ?_)
  split
  · exact h s
  · exact respond_ringsKept _ _ _

theorem writeSetting_ringsKept (c v : Nat) (s : State) : RingsKept s (writeSetting c v s) := by
  unfold writeSetting
  dsimp only
  repeat' split
  all_goals exact .of_eq rfl

theorem ite_steady {s t : State} (c : Prop) [Decidable c] (h : Steady s t) : Steady s (if c then t else s) := by
  split
  · exact h
  · exact Steady.refl s

theorem expireIdleClock_steady (s : State) : Steady s (expireIdleClock s) := ite_steady _ (.of_eq rfl)

theorem informSettings_steady (old : Settings) (s : State) : Steady s (informSettings old s) := by
  have pressures : ∀ t, Steady t (evalLatch .B (evalLatch .A (evalBandPressure .B (evalBandPressure .A t)))) := fun t =>
    ((evalBandPressure_steady _ t).trans (evalBandPressure_steady _ _)).trans
      ((evalLatch_steady _ _).trans (evalLatch_steady _ _))
  have hold : ∀ t, Steady t (match t.phase with
      | some p => if t.ranFor p.holdTimer t.work.holdLimit then expireHold t else t
      | none => t) := fun t => by
    split
    · exact ite_steady _ (expireHold_steady t)
    · exact Steady.refl t
  unfold informSettings
  dsimp only
  refine Steady.trans ?_ (hold _)
  refine Steady.trans ?_ (ite_steady _ (dropAheadWhere_steady _ _))
  refine Steady.trans ?_ (ite_steady _ (requestCk_steady _))
  exact (ite_steady _ (pressures s)).trans (expireIdleClock_steady _)

theorem applySettings_ringsKept (s : State) : RingsKept s (applySettings s) :=
  ((maint_ringsKept s _).trans (informSettings_steady _ _).rings).trans (respond_ringsKept _ _ _)

theorem runCheckpoint_ringsKept (s : State) : RingsKept s (runCheckpoint s) :=
  (maint_ringsKept s _).trans (requestCk_steady _).rings

theorem closeLane_steady (s : State) (n : Nat) : Steady s (closeLane s n) := by
  grind [closeLane, Steady.refl, modLane_steady, giveUpLane_steady]

/-- FORMAT's rings are empty, and no checkpoint runs (R175). -/
theorem formatPart_ringsKept (s : State) : RingsKept s (formatPart s) := by
  unfold formatPart
  dsimp only
  refine RingsKept.trans ⟨fun _ _ => ⟨rfl, fun a => ?_⟩⟩
    (((evalBandPressure_steady _ _).trans (evalBandPressure_steady _ _)).rings.trans (respond_ringsKept _ _ _))
  cases a <;> simp [State.ring, Two.get, Ckpt.fresh]

/-! ## Resets (R163) -/

/-- Rings without a segment and no checkpoint stand in order. -/
theorem ringsOk_of_fresh {s : State} (h : ∀ a, s.ring a = ⟨0, 0, 0, 0, []⟩) (hrun : s.ck.run = none) : RingsOk s := by
  intro a
  simp [h a, hrun]

theorem ringsOk_resetPart (straps : Straps) (wprot : Bool) (s : State) : RingsOk (resetPart straps wprot s) :=
  ringsOk_of_fresh (fun a => by cases a <;> rfl) rfl

theorem ringsOk_holdReset (s : State) : RingsOk (holdReset s) := ringsOk_of_fresh (fun a => by cases a <;> rfl) rfl

/-! ## All commands -/

theorem RingsKept.settle {s t : State} (h : RingsKept s t) : RingsKept s (settle t) := h.trans (settle_steady t).rings

theorem Steady.settle {s t : State} (h : Steady s t) : RingsKept s (Machine.settle t) := h.rings.settle

/-- Outside recovery a step with this answer keeps the rings in order. -/
def KeepsRings (s t : State) : Prop := s.recov = Recovery.off → RingsOk s → RingsOk t

theorem RingsKept.keeps {s t : State} (h : RingsKept s t) : KeepsRings s t := fun hoff hok => (h.kept hoff hok).2

theorem writeData_ringsKept (tag : Byte) (data : Block) (s : State) :
    ∃ t, exec (.writeData tag data) s = .next t ∧ RingsKept s t := by
  refine ⟨_, rfl, ?_⟩
  cases s.phase with
  | none => exact RingsKept.refl s
  | some p =>
    dsimp only
    cases p.unanswered with
    | nil => exact RingsKept.refl s
    | cons u l =>
      dsimp only
      split
      · exact ((acceptBlock_steady p u _ s).trans (testPhaseEnd_steady _)).settle
      · exact RingsKept.refl s

theorem releaseAcceptance_ringsKept (s : State) : ∃ t, exec .releaseAcceptance s = .next t ∧ RingsKept s t := by
  refine ⟨_, rfl, ?_⟩
  cases s.headRequest with
  | none => exact RingsKept.refl s
  | some p =>
    dsimp only
    split
    · refine RingsKept.settle ?_
      repeat' split
      · exact (refuseTurns_steady s).rings
      · exact acceptRelease_ringsKept _ _ s
      · exact (modTag_steady _ _ _).rings
    · exact RingsKept.refl s

theorem resetDevice_keepsRings (w : MaintWrite) (straps : Straps) (s : State) :
    ∃ t, exec (.resetDevice w straps) s = .next t ∧ KeepsRings s t := by
  refine ⟨_, rfl, ?_⟩
  unfold takeLen take
  repeat' split
  · exact (RingsKept.refl s).keeps
  · dsimp only
    split
    · exact fun _ _ => ringsOk_holdReset s
    · exact fun _ _ => ringsOk_resetPart _ _ s
  · exact (respond_ringsKept _ _ _).keeps

/-- Every command keeps the rings in order outside recovery, a reset leaving them empty (R163). -/
theorem exec_keepsRings (c : Instr) (s : State) : ∃ t, exec c s = .next t ∧ KeepsRings s t := by
  have k : ∀ {c}, (∃ t, exec c s = .next t ∧ RingsKept s t) → ∃ t, exec c s = .next t ∧ KeepsRings s t :=
    fun ⟨t, h, i⟩ => ⟨t, h, i.keeps⟩
  have answer : ∀ {st p} (s : State), RingsKept s (respond st p s) := fun s => respond_ringsKept _ _ s
  have stay := RingsKept.refl s
  cases c
  case powerOn => exact ⟨_, rfl, fun _ _ => ringsOk_resetPart _ _ s⟩
  case resetN => exact ⟨_, rfl, fun _ _ => ringsOk_holdReset s⟩
  case resetDevice => exact resetDevice_keepsRings _ _ s
  case resetNDeasserted =>
    refine ⟨_, rfl, fun _ hok => ?_⟩
    split <;> exact hok
  all_goals refine k ?_
  case writeData => exact writeData_ringsKept _ _ s
  case releaseAcceptance => exact releaseAcceptance_ringsKept s
  all_goals refine ⟨_, rfl, ?_⟩
  case wprotAsserted => exact RingsKept.settle (.of_eq rfl)
  case wprotDeasserted => exact RingsKept.settle (.of_eq rfl)
  case frontLinkReset => exact (dropRequests_ringsKept s).settle
  case read => exact arrive_ringsKept _ _ _ _ (fun s => acceptRead_steady _ _ _ s) s
  case write => exact arrive_ringsKept _ _ _ _ (fun s => joinIntake_steady _ s) s
  case release => exact arrive_ringsKept _ _ _ _ (fun s => joinIntake_steady _ s) s
  case flush => exact arrive_ringsKept _ _ _ _ (fun s => joinIntake_steady _ s) s
  case unknownMessage => exact stay
  case dataPhaseStart =>
    repeat' split
    · exact (refuseTurns_steady s).settle
    · exact (startPhase_steady _ _ s).settle
    all_goals exact stay
  case dataPull =>
    split
    · exact (testGate_steady s).settle
    · exact stay
  case flushAcceptance =>
    repeat' split
    · exact (acceptFlush_steady _ s).settle
    all_goals exact stay
  case frameGrant => exact (offerFrame_ringsKept s).settle
  case readDataDelivery => exact (deliver_steady _ s).settle
  case arbiterRun => exact (runArbiter_steady _ s).settle
  case segmentWriteResult =>
    split
    · exact (takeWrite_ringsKept _ _ _ s).settle
    · exact stay
  case segmentReadResult =>
    split
    · exact (takeRead_ringsKept _ _ _ s).settle
    · exact stay
  case stampScanResult =>
    split
    · exact (takeScan_ringsKept _ _ _ s).settle
    · exact stay
  case checkpointStart => exact (startCheckpoint_ringsKept s).settle
  case reclaimTriggerTest => exact (testTriggers_ringsKept s).settle
  case reclaimCommit => exact (commitHead_steady s).settle
  case portDown =>
    split
    · exact (enterDown_steady _ s).settle
    · exact stay
  case portUp =>
    split
    · exact stay
    · exact ((modPort_steady _ _ _).trans (modJob_steady _ _)).settle
  case responseTimerExpiry =>
    repeat' split
    · exact (endNotReady_steady _ _ s).settle
    all_goals exact stay
  case idleTimerExpiry =>
    split
    · exact (closeOpen_steady _ s).settle
    · exact stay
  case releaseTimerExpiry =>
    split
    · exact (giveUpLane_steady _ s).settle
    · exact stay
  case holdTimerExpiry =>
    repeat' split
    · exact (expireHold_steady s).settle
    all_goals exact stay
  case portWaitExpiry =>
    split
    · exact (expireWait_steady _ s).settle
    · exact stay
  case idleClockExpiry => exact (expireIdleClock_steady s).rings
  case unknownCommand => exact take_ringsKept _ _ s (fun s => answer s)
  case malformed => exact take_ringsKept _ _ s (fun s => answer s)
  case portBusyNack => exact stay
  case identify => exact takeLen_ringsKept _ _ _ s (fun s => answer s)
  all_goals refine takeLen_ringsKept _ _ _ s (fun s => ?_)
  case getSetting => split <;> exact answer s
  case setSetting =>
    split
    · exact answer s
    · exact writeSetting_ringsKept _ _ s
  case apply =>
    split
    · exact answer s
    · exact (applySettings_ringsKept s).settle
  case format =>
    split
    · exact answer s
    · exact (formatPart_ringsKept s).settle
  case checkpoint =>
    split
    · exact runCheckpoint_ringsKept s
    · exact answer s
  case closeLanes =>
    split
    · exact ((Steady.forAny closeLane_steady _ s).rings.trans (respond_ringsKept _ _ _)).settle
    · exact answer s
  case readException =>
    split
    · exact .of_eq rfl
    · exact answer s
  case bandCensus => split <;> exact answer s
  all_goals
    dsimp only
    repeat' split
    all_goals exact answer s

/-- Settles O10: `exec_keepsRings` gives every command, and a tick moves the clock alone. -/
theorem ringCountersAlways : Obligations.RingCountersAlways := by
  intro s t hoff hok hstep
  unfold step at hstep
  split at hstep
  · rename_i c rest _
    obtain ⟨u, hu, hkept⟩ := exec_keepsRings c { s with pending := rest }
    obtain rfl : u = t := by
      rw [hu] at hstep
      exact Host.Outcome.next.inj hstep
    exact hkept hoff hok
  · cases hstep
    exact hok

end Sys2Proof.Machine
end

section
/-! What SEGMENT_WRITE_RESULT comes to (O33, O34, O39): the routing of the result, what the work after it leaves alone, and
the completions of the RELEASEs of a notice (R182). -/

namespace Sys2Proof.Machine

/-! ## The result's way (R103) -/

section
variable {s : State} {a : Actuator} {issue : BitVec 16} {o : Op}

theorem exec_writeResult (h : s.awaits a issue o) (r : WriteResult) :
    exec (.segmentWriteResult a issue r) s = .next (settle (takeWrite a o r s)) := by
  obtain ⟨hop, hissue, -⟩ := h
  have hfor : s.opFor a issue = some o := by simp [State.opFor, hop, hissue]
  change Host.Outcome.next _ = _
  rw [hfor]

theorem exec_laneWritten {n id : Nat} (h : s.awaits a issue o) (hk : o.kind = .segmentWrite) (hr : o.req = .lane n)
    (hf : o.frame = some id) :
    exec (.segmentWriteResult a issue .done) s = .next (settle (laneWritten n id o.loc (endOp a s))) := by
  rw [exec_writeResult h]
  simp [takeWrite, routeWrite, hk, h.2.2, hr, hf]

theorem exec_laneFailed {n id : Nat} {r : WriteResult} (h : s.awaits a issue o) (hk : o.kind = .segmentWrite)
    (hr : o.req = .lane n) (hf : o.frame = some id) (hw : r = .writeFault ∨ r = .supplyLate) :
    exec (.segmentWriteResult a issue r) s =
      .next (settle (laneFailed n id o.loc (decide (r = .writeFault)) (endOp a s))) := by
  rw [exec_writeResult h]
  rcases hw with rfl | rfl <;> simp [takeWrite, routeWrite, hk, h.2.2, hr, hf]

theorem exec_ringWritten {q : RingSeg} (h : s.awaits .A issue o) (hk : o.kind = .segmentWrite) (hr : o.req = .ckpt)
    (hf : o.frame = some q.frame) (hq : s.ck.queue.find? (fun x => decide (x.frame = q.frame)) = some q) :
    exec (.segmentWriteResult .A issue .done) s = .next (settle (ringWritten q (endOp .A s))) := by
  have hseg : (endOp .A s).ringSeg q.frame = some q := hq
  rw [exec_writeResult h]
  simp [takeWrite, routeWrite, hk, h.2.2, hr, hf, hseg]

theorem exec_ringFailed {q : RingSeg} {r : WriteResult} (h : s.awaits .A issue o) (hk : o.kind = .segmentWrite)
    (hr : o.req = .ckpt) (hf : o.frame = some q.frame)
    (hq : s.ck.queue.find? (fun x => decide (x.frame = q.frame)) = some q) (hw : r = .writeFault ∨ r = .supplyLate) :
    exec (.segmentWriteResult .A issue r) s = .next (settle (ringFailed q (endOp .A s))) := by
  have hseg : (endOp .A s).ringSeg q.frame = some q := hq
  rw [exec_writeResult h]
  rcases hw with rfl | rfl <;> simp [takeWrite, routeWrite, hk, h.2.2, hr, hf, hseg]

theorem exec_endAbandoned {id : Nat} {r : WriteResult} (h : s.awaits .A issue o) (hk : o.kind = .segmentWrite)
    (hr : o.req = .ckpt) (hf : o.frame = some id) (hq : ∀ x ∈ s.ck.queue, x.frame ≠ id) (hw : r ≠ .notReady) :
    exec (.segmentWriteResult .A issue r) s =
      .next (settle (endAbandoned id o.loc.seg (decide (r ≠ .done)) (endOp .A s))) := by
  have hseg : (endOp .A s).ringSeg id = none := List.find?_eq_none.2 (fun x hx => by simpa using hq x hx)
  rw [exec_writeResult h]
  cases r <;> simp [takeWrite, routeWrite, hk, h.2.2, hr, hf, hseg] at hw ⊢

end

theorem endOp_port (a : Actuator) (s : State) : (endOp a s).port a = { s.port a with op := none, timer := none } :=
  State.port_modPort s a _

/-! ## What is left alone -/

/-- What the lanes, the bands and the map leave alone of the ports and the checkpoint writer (R103, R150 to R160). -/
def State.writerPart (s : State) :=
  (s.ports, s.service, s.cleared, s.maint, s.ck.ringStart, s.ck.ringTail, s.ck.batch, s.ck.notice, s.ck.queue, s.ck.run)

theorem Inner.writerPart {s t : State} (h : Inner s t) : t.writerPart = s.writerPart := by
  have := h.outside
  simp only [State.outside, Outside.mk.injEq, Prod.mk.injEq] at this
  simp [State.writerPart, this]

theorem settle_writerPart (s : State) : (settle s).writerPart = s.writerPart := by
  obtain ⟨g, h⟩ := settle_gated s
  have h : Inner { s with gate := g } (settle s) := h
  exact h.writerPart

theorem settle_sent (s : State) : s.frontOut <+: (settle s).frontOut := by
  obtain ⟨g, h⟩ := settle_gated s
  exact h.sent

theorem port_of_writerPart {s t : State} (h : t.writerPart = s.writerPart) (a : Actuator) : t.port a = s.port a := by
  simp only [State.writerPart, Prod.mk.injEq] at h
  rw [State.port, h.1]
  rfl

theorem settle_port (s : State) (a : Actuator) : (settle s).port a = s.port a := port_of_writerPart (settle_writerPart s) a

theorem laneWritten_inner (n id : Nat) (l : SegLoc) (s : State) : Inner s (laneWritten n id l s) := by
  have band : Inner s (if l.region = .band then bandWritten l.act l.band s else s) := by
    split
    · exact bandWritten_inner _ _ _
    · exact Inner.refl s
  have queue := (band.trans (leaveQueue_inner n id _)).trans 
    (modFrame_keeps_inner _ id (fun f => { f with written := true, waiters := [] }) (fun _ => ⟨rfl, rfl⟩))
  unfold laneWritten
  dsimp only
  split
  · exact queue.trans (takeWritten_inner _ _ _)
  · exact queue.trans ((releaseFrame_inner _ _).trans (wakeWaiters_inner _ _))

theorem laneFailed_inner (n id : Nat) (l : SegLoc) (b : Bool) (s : State) : Inner s (laneFailed n id l b s) := by
  unfold laneFailed
  dsimp only
  refine Inner.trans ?_ (failFrame_inner _ _ _)
  split
  · exact (truncateBand_inner _ _ _ _).trans (loseBand_inner _ _)
  · exact post_inner _ _ _ _ _

/-! ## The ports under the checkpoint writer -/

theorem Inner.ports {s t : State} (h : Inner s t) : t.ports = s.ports := by
  have := h.outside
  simp only [State.outside, Outside.mk.injEq] at this
  simp [this]

theorem testRingHalf_ports (s : State) : (testRingHalf s).ports = s.ports := by
  unfold testRingHalf
  split <;> rfl

theorem bindNotice_ports (s : State) : (bindNotice s).ports = s.ports := by
  unfold bindNotice
  repeat' split
  all_goals first
    | rfl
    | exact (testRingHalf_ports _).trans rfl

theorem takeBatch_ports (s : State) : (takeBatch s).ports = s.ports := by
  have asked : ∀ u, (requestFrame .notice u).2.ports = u.ports := fun u => (requestFrame_inner .notice u).ports
  unfold takeBatch
  split
  · rename_i h
    generalize hu : s.modCk (fun c => { c with notice := some ⟨c.batch, none, false, 0⟩, batch := [] }) = u
    have hports : u.ports = s.ports := by rw [← hu]; rfl
    dsimp only
    split <;> rename_i hg <;> have hreq := congrArg (fun x => x.2.ports) hg
    · exact (bindNotice_ports _).trans ((hreq.symm.trans (asked u)).trans hports)
    · exact (hreq.symm.trans (asked u)).trans hports
  · rfl

theorem endNotice_ports (ok : Bool) (s : State) : (endNotice ok s).ports = s.ports := by
  unfold endNotice
  split
  · rfl
  · exact (takeBatch_ports _).trans ((Inner.forAny (completeRelease_inner ok) _ _).ports.trans (releaseHeld_inner _ _).ports)

theorem port_of_ports {s t : State} (h : t.ports = s.ports) (a : Actuator) : t.port a = s.port a := by
  rw [State.port, h]
  rfl

/-! ## Orders that are open -/

theorem permute_perm {α : Type} (c n : Nat) (l : List α) : (permute c n l).Perm l := by
  induction n generalizing l with
  | zero => exact List.Perm.refl l
  | succ n ih =>
    unfold permute
    split
    · exact List.Perm.refl l
    · rename_i x hx
      obtain ⟨hlt, rfl⟩ := List.getElem?_eq_some_iff.1 hx
      exact ((ih _).cons _).trans (List.getElem_cons_eraseIdx_perm hlt)

theorem anyOrder_perm {α : Type} (s : State) (l : List α) : (s.anyOrder l).1.Perm l := by
  unfold State.anyOrder
  split
  · exact List.Perm.refl l
  · exact permute_perm _ _ l

section
variable {α : Type} {f : State → α → State}

theorem anyOrder_holds {P : State → Prop} (hcount : ∀ u n, P u → P { u with freeCount := n }) (l : List α) {s : State}
    (hs : P s) : P (s.anyOrder l).2 := by
  unfold State.anyOrder
  split
  · exact hs
  · exact hcount s _ hs

theorem foldl_holds {P : State → Prop} (hf : ∀ u x, P u → P (f u x)) (l : List α) {s : State} (hs : P s) : P (l.foldl f s) := by
  induction l generalizing s with
  | nil => exact hs
  | cons x l ih => exact ih (hf s x hs)

/-- A step for each member of a list, in any order, keeps what the single step keeps. -/
theorem forAny_holds {P : State → Prop} (hcount : ∀ u n, P u → P { u with freeCount := n }) (hf : ∀ u x, P u → P (f u x))
    (l : List α) {s : State} (hs : P s) : P (s.forAny l f) :=
  foldl_holds hf _ (anyOrder_holds hcount l hs)

theorem forAny_keeps {β : Type} {g : State → β} (hcount : ∀ u n, g { u with freeCount := n } = g u) (hf : ∀ u x, g (f u x) = g u)
    (l : List α) (s : State) : g (s.forAny l f) = g s :=
  forAny_holds (P := fun u => g u = g s) (fun u n h => (hcount u n).trans h) (fun u x h => (hf u x).trans h) l rfl

/-- A step for each member of a list in any order: what the step for x brings about, and the other steps keep, stands at
the end; what is there before must last until x is met. -/
theorem forAny_reaches {before after : State → Prop} {x : α} {l : List α} {s : State} (hx : x ∈ l) (hs : before s)
    (hcount : ∀ u n, before u → before { u with freeCount := n }) (hmeet : ∀ u, before u → after (f u x))
    (hlast : ∀ u y, y ≠ x → before u → before (f u y)) (hkeep : ∀ u y, after u → after (f u y)) : after (s.forAny l f) := by
  have reach : ∀ m, x ∈ m → ∀ u, before u → after (List.foldl f u m) := by
    intro m
    induction m with
    | nil => exact fun h => absurd h (by simp)
    | cons y m ih =>
      intro hm u hu
      by_cases hy : y = x
      · subst hy
        exact foldl_holds hkeep m (hmeet u hu)
      · exact ih ((List.mem_cons.1 hm).resolve_left (Ne.symm hy)) _ (hlast u y hy hu)
  exact reach _ ((anyOrder_perm s l).mem_iff.2 hx) _ (anyOrder_holds hcount l hs)

end

/-! ## The RELEASEs of a notice (R182) -/

/-- Tag w stands for a RELEASE of this range. -/
def State.holdsRelease (s : State) (w lba count : Nat) : Prop :=
  ∃ e, s.tag w = some e ∧ e.kind = .release ∧ e.lba = lba ∧ e.count = count

/-- Tag w is free, and this message has been sent. -/
def State.answeredWith (s : State) (w : Nat) (m : FrontMsg) : Prop := m ∈ s.frontOut ∧ s.tag w = none

theorem Steady.answeredWith {s t : State} (h : Steady s t) (k : s.frontOut <+: t.frontOut) {w : Nat} {m : FrontMsg}
    (hs : s.answeredWith w m) : t.answeredWith w m :=
  ⟨k.subset hs.1, h.tags w hs.2⟩

theorem tag_complete_ne {t w : Nat} (h : w ≠ t) (o : Outcome) (d : Nat) (s : State) : (complete t o d s).tag w = s.tag w := by
  simp [complete, State.tag, List.getD_eq_getElem?_getD, List.getElem?_set_ne (Ne.symm h)]

theorem complete_holdsRelease {t w lba count : Nat} (h : w ≠ t) (o : Outcome) (d : Nat) {s : State} (hs : s.holdsRelease w lba count) :
    (complete t o d s).holdsRelease w lba count := by
  unfold State.holdsRelease
  rw [tag_complete_ne h]
  exact hs

/-- A test of a WRITE or FLUSH leaves the RELEASEs alone. -/
theorem checkComplete_holdsRelease (t : Nat) {w lba count : Nat} {s : State} (hs : s.holdsRelease w lba count) :
    (checkComplete t s).holdsRelease w lba count := by
  obtain ⟨e, he, hk, -⟩ := id hs
  by_cases hw : w = t
  · subst hw
    have same : checkComplete w s = s := by
      unfold checkComplete
      simp [he, hk]
    rw [same]
    exact hs
  · have done := fun o d => complete_holdsRelease hw o d hs
    unfold checkComplete completeWrite completeFlush
    repeat' split
    all_goals first
      | exact hs
      | exact done _ _

theorem dropRelease_holdsRelease (t : Nat) (ok : Bool) {w lba count : Nat} {s : State} (hs : s.holdsRelease w lba count) :
    State.holdsRelease { s with tags := s.tags.map (Option.map (TagEntry.dropRelease t ok)) } w lba count := by
  obtain ⟨e, he, hk, hl, hc⟩ := hs
  have same : e.dropRelease t ok = e := by simp [TagEntry.dropRelease, hk]
  refine ⟨e, ?_, hk, hl, hc⟩
  rw [State.tag, List.getD_eq_getElem?_getD] at he ⊢
  cases hw : s.tags[w]? <;> simp_all

/-- The completion of one RELEASE leaves the others alone. -/
theorem completeRelease_holdsRelease (ok : Bool) {t w lba count : Nat} (h : t ≠ w) {s : State} (hs : s.holdsRelease w lba count) :
    (completeRelease ok s t).holdsRelease w lba count := by
  unfold completeRelease
  split
  · exact hs
  · refine forAny_holds (P := fun u => u.holdsRelease w lba count) (fun _ _ hu => hu)
      (fun u x hu => checkComplete_holdsRelease x hu) _ (dropRelease_holdsRelease _ _ ?_)
    split <;> exact complete_holdsRelease (Ne.symm h) _ _ hs

/-- How a RELEASE of a notice completes (R182): GOOD with its count, or MEDIA_ERROR with its LBA. -/
def releaseAnswer (ok : Bool) (w lba count : Nat) : FrontMsg :=
  if ok then .completion w .good count else .completion w .mediaError lba

theorem completeRelease_answeredWith (ok : Bool) {w lba count : Nat} {s : State} (hs : s.holdsRelease w lba count) :
    (completeRelease ok s w).answeredWith w (releaseAnswer ok w lba count) := by
  obtain ⟨e, he, -, rfl, rfl⟩ := hs
  have first : (if ok then complete w .good e.count s else complete w .mediaError e.lba s).answeredWith w
      (releaseAnswer ok w e.lba e.count) := by
    cases ok <;> exact ⟨by simp [releaseAnswer, complete, State.send], State.tag_complete _ _ _ _⟩
  unfold completeRelease
  rw [he]
  dsimp only
  generalize (if ok then complete w .good e.count s else complete w .mediaError e.lba s) = u at first
  have told : State.answeredWith { u with tags := u.tags.map (Option.map (TagEntry.dropRelease w ok)) } w
      (releaseAnswer ok w e.lba e.count) := by
    refine ⟨first.1, ?_⟩
    have := first.2
    rw [State.tag, List.getD_eq_getElem?_getD] at this ⊢
    cases hw : u.tags[w]? <;> simp_all
  exact (Steady.forAny (fun s t => checkComplete_steady t s) _ _).answeredWith
    (Inner.forAny (fun s t => checkComplete_inner t s) _ _).sent told

/-- The end of a notice answers each of its RELEASEs (R152, R153). -/
theorem endNotice_answeredWith {ok : Bool} {s : State} {n : Notice} (hn : s.ck.notice = some n) {x : ReleaseRec}
    (hx : x ∈ n.records) {w : Nat} {e : TagEntry} (hw : x.tag = some w) (he : s.tag w = some e) (hk : e.kind = .release) :
    (endNotice ok s).answeredWith w (releaseAnswer ok w e.lba e.count) := by
  have hrel : ((releaseHeld n.frame s).modCk (fun c => { c with notice := none })).holdsRelease w e.lba e.count := by
    refine ⟨e, ?_, hk, rfl, rfl⟩
    unfold releaseHeld
    split <;> exact he
  unfold endNotice
  rw [hn]
  dsimp only
  refine (takeBatch_steady _).answeredWith (takeBatch_kept _).sent ?_
  refine forAny_reaches (before := fun u => u.holdsRelease w e.lba e.count)
    (after := fun u => u.answeredWith w (releaseAnswer ok w e.lba e.count)) (List.mem_filterMap.2 ⟨x, hx, hw⟩)
    hrel (fun _ _ hu => hu) (fun u hu => completeRelease_answeredWith ok hu)
    (fun u y hy hu => completeRelease_holdsRelease ok hy hu) (fun u y hu => ?_)
  exact (completeRelease_steady ok u y).answeredWith (completeRelease_inner ok u y).sent hu

end Sys2Proof.Machine
end

section
/-! SEGMENT_WRITE_RESULT after a failed write (O34): a band truncated, a notice bound again, a checkpoint abandoned. -/

namespace Sys2Proof.Machine

/-! ## A lane's frame (R49, R51, R59) -/

/-- The exception of a failed media write of a lane. -/
def faultKind (fault : Bool) : ExcKind := if fault then .writeFault else .supplyLate

theorem faultKind_ofWrite (fault : Bool) : (faultKind fault).ofWrite := by
  cases fault
  · exact .inr (.inl rfl)
  · exact .inl rfl

/-- A truncated band, from its record before (R49). -/
def Band.truncated (seq : Option Nat) (fault : Bool) (r : Band) : Band :=
  { r with reserved := r.written, state := .full, owner := none, closeSeq := seq,
           health := if fault then min (r.health + 1) 3 else r.health }

theorem truncateBand_eq (a : Actuator) (b : Nat) (fault : Bool) (s : State) : truncateBand a b fault s =
    post (faultKind fault) a b (s.bandRec a b).written (s.modBand a b (Band.truncated s.seq fault)) := rfl

theorem loseBand_steady (l : SegLoc) (s : State) : Steady s (loseBand l s) := .of_eq rfl

theorem failFrame_settle_steady (n id : Nat) (s : State) : Steady s (settle (failFrame n id s)) :=
  (failFrame_steady n id s).trans (settle_steady _)

theorem truncateBand_closed {s : State} {a : Actuator} {b : Nat} (fault : Bool) (hb : b < (s.bm.get a).bands.length)
    (hp : b ∉ (s.bm.get a).parked) :
    (truncateBand a b fault s).closedBand a b ∧
    (truncateBand a b fault s).bandRec a b = (s.bandRec a b).truncated s.seq fault := by
  have hrec : (truncateBand a b fault s).bandRec a b = (s.bandRec a b).truncated s.seq fault := by
    change (s.modBand a b (Band.truncated s.seq fault)).bandRec a b = _
    rw [State.bandRec_modBand s a b b _ hb, if_pos rfl]
  refine ⟨⟨by rw [hrec]; rfl, ?_⟩, hrec⟩
  change b ∉ ((s.modBand a b (Band.truncated s.seq fault)).bm.get a).parked
  simpa [State.modBand, State.modMgr, Two.get_modify] using hp

/-- A lane's frame whose write failed in a band (R49): the band stays closed at its written pointer, and the exception stays
posted. -/
theorem laneFailed_truncates {s : State} {n id : Nat} {l : SegLoc} {fault : Bool} (hl : l.region = .band)
    (hb : l.band < (s.bm.get l.act).bands.length) (hp : l.band ∉ (s.bm.get l.act).parked) :
    ((settle (laneFailed n id l fault s)).bandRec l.act l.band).core =
      ((s.bandRec l.act l.band).truncated s.seq fault).core ∧
    (settle (laneFailed n id l fault s)).reports (faultKind fault) l.act l.band (s.bandRec l.act l.band).written := by
  have later : Steady (truncateBand l.act l.band fault s) (settle (laneFailed n id l fault s)) := by
    unfold laneFailed
    rw [if_pos hl]
    exact (loseBand_steady _ _).trans (failFrame_settle_steady _ _ _)
  obtain ⟨hclosed, hrec⟩ := truncateBand_closed fault hb hp
  refine ⟨?_, later.reports _ _ _ _ (faultKind_ofWrite fault) ?_⟩
  · rw [(later.closed _ _ hclosed).2, hrec]
  · rw [truncateBand_eq]
    exact post_reports _ _ _ _ _

theorem laneFailed_reports {s : State} {n id : Nat} {l : SegLoc} {fault : Bool} (hl : l.region ≠ .band) :
    (settle (laneFailed n id l fault s)).reports (faultKind fault) l.act l.seg 0 := by
  have later : Steady (post (faultKind fault) l.act l.seg 0 s) (settle (laneFailed n id l fault s)) := by
    unfold laneFailed
    rw [if_neg hl]
    exact failFrame_settle_steady _ _ _
  exact later.reports _ _ _ _ (faultKind_ofWrite fault) (post_reports _ _ _ _ _)

theorem laneFailed_port (n id : Nat) (l : SegLoc) (fault : Bool) (a : Actuator) (s : State) :
    (settle (laneFailed n id l fault (endOp a s))).port a = { s.port a with op := none, timer := none } := by
  rw [settle_port, port_of_writerPart (laneFailed_inner _ _ _ _ _).writerPart, endOp_port]

/-! ## A notice (R153, R182) -/

/-- The checkpoint ring's counters, queue and notice, which a request for a checkpoint leaves alone. -/
def Ckpt.ringPart (c : Ckpt) := (c.ringStart, c.ringTail, c.queue, c.notice)

theorem testRingHalf_ringPart (s : State) : (testRingHalf s).ck.ringPart = s.ck.ringPart := by
  unfold testRingHalf
  split <;> rfl

theorem bindNotice_of_full {s : State} (h : s.ckFree < 98) : bindNotice s = s := by
  unfold bindNotice
  repeat' split
  all_goals first
    | rfl
    | exact absurd h ‹_›

/-- A notice with its frame binds at ring_tail (R150, R152). -/
theorem bindNotice_of_room {s : State} {n : Notice} {id : Nat} (hn : s.ck.notice = some n) (hf : n.frame = some id)
    (hb : n.bound = false) (hroom : 98 ≤ s.ckFree) :
    (bindNotice s).ck.ringPart = (s.ck.ringStart, s.ck.ringTail + 1, s.ck.queue ++ [⟨.notice, id, s.ck.ringTail⟩],
      some { n with bound := true }) := by
  have hfull : ¬ s.ckFree < Config.noticeReserve := by
    rw [Nat.not_lt]
    exact hroom
  unfold bindNotice
  rw [hn]
  dsimp only
  rw [hf]
  dsimp only
  rw [if_neg (by simp [hb]), if_neg hfull, testRingHalf_ringPart]
  simp only [Ckpt.ringPart, State.modRun, State.modCk, bindRing, assignSeq, State.modFrame]
  rw [hn, ← hf]
  rfl

/-- A failed notice before it is bound again, or ends: unqueued, one attempt more, its exception posted (R153). -/
def noticeFailed (id ctr : Nat) (s : State) : State :=
  (post .checkpointFailed .A (ctr % s.cks) 0 (unqueueRing id s)).modCk (fun c =>
    { c with notice := c.notice.map (fun n => { n with bound := false, attempts := n.attempts + 1 }) })

theorem noticeFailed_notice {s : State} {n : Notice} (hn : s.ck.notice = some n) (id ctr : Nat) :
    (noticeFailed id ctr s).ck.notice = some { n with bound := false, attempts := n.attempts + 1 } := by
  change s.ck.notice.map _ = _
  rw [hn]
  rfl

theorem failNotice_eq {s : State} {n : Notice} (hn : s.ck.notice = some n) (id ctr : Nat) : failNotice id ctr s =
    if 4 ≤ n.attempts + 1 then requestCk (endNotice false (noticeFailed id ctr s)) else bindNotice (noticeFailed id ctr s) := by
  have hu := noticeFailed_notice hn id ctr
  unfold failNotice
  dsimp only
  change (match (noticeFailed id ctr s).ck.notice with
    | none => noticeFailed id ctr s
    | some n => if Config.maxWriteAttempts ≤ n.attempts then requestCk (endNotice false (noticeFailed id ctr s))
        else bindNotice (noticeFailed id ctr s)) = _
  rw [hu]
  rfl

theorem noticeFailed_reports (id ctr : Nat) (s : State) :
    (noticeFailed id ctr s).reports .checkpointFailed .A (ctr % s.cks) 0 := post_reports _ _ _ _ _

/-- What follows the failure of a notice keeps the exception posted. -/
theorem failNotice_steady {s : State} {n : Notice} (hn : s.ck.notice = some n) (id ctr : Nat) :
    Steady (noticeFailed id ctr s) (failNotice id ctr s) := by
  rw [failNotice_eq hn]
  split
  · exact (endNotice_steady _ _).trans (requestCk_steady _)
  · exact bindNotice_steady _

theorem failNotice_ports (id ctr : Nat) (s : State) : (failNotice id ctr s).ports = s.ports := by
  cases hn : s.ck.notice with
  | none =>
    unfold failNotice
    dsimp only
    split
    · rfl
    · rename_i n h
      exact absurd ((congrArg (Option.map _) hn).symm.trans h) (by simp)
  | some n =>
    rw [failNotice_eq hn]
    split
    · exact (endNotice_ports _ _).trans rfl
    · exact (bindNotice_ports _).trans rfl

/-- Fewer than four attempts (R153): the notice goes on, and binds again where the ring has room. -/
theorem failNotice_again {s : State} {n : Notice} {id : Nat} (ctr : Nat) (hn : s.ck.notice = some n) (hf : n.frame = some id)
    (hlt : n.attempts + 1 < 4) :
    ∃ m, (failNotice id ctr s).ck.notice = some m ∧ m.records = n.records ∧ m.attempts = n.attempts + 1 ∧
      (98 ≤ s.ckFree → m.bound = true ∧ (failNotice id ctr s).ck.ringTail = s.ck.ringTail + 1 ∧
        ⟨.notice, id, s.ck.ringTail⟩ ∈ (failNotice id ctr s).ck.queue) ∧
      (s.ckFree < 98 → m.bound = false ∧ (failNotice id ctr s).ck.ringTail = s.ck.ringTail) := by
  have hu := noticeFailed_notice hn id ctr
  have hfree : (noticeFailed id ctr s).ckFree = s.ckFree := rfl
  rw [failNotice_eq hn, if_neg (by omega)]
  by_cases hroom : 98 ≤ s.ckFree
  · have hring := bindNotice_of_room hu hf rfl (hfree ▸ hroom)
    simp only [Ckpt.ringPart, Prod.mk.injEq] at hring
    obtain ⟨-, htail, hqueue, hnotice⟩ := hring
    refine ⟨_, hnotice, rfl, rfl, fun _ => ⟨rfl, htail, ?_⟩, fun h => by omega⟩
    rw [hqueue]
    exact List.mem_append_right _ (List.mem_singleton.2 rfl)
  · have hlow : s.ckFree < 98 := by omega
    rw [bindNotice_of_full (hfree ▸ hlow)]
    exact ⟨_, hu, rfl, rfl, fun h => absurd h hroom, fun _ => ⟨rfl, rfl⟩⟩

/-- The fourth failed attempt ends the notice (R153, R182). -/
theorem failNotice_last {s : State} {n : Notice} {id : Nat} (ctr : Nat) (hn : s.ck.notice = some n)
    (hge : 4 ≤ n.attempts + 1) : (failNotice id ctr s).ck.wanted = true ∧
    ∀ x ∈ n.records, ∀ w e, x.tag = some w → s.tag w = some e → e.kind = .release →
      (failNotice id ctr s).answeredWith w (.completion w .mediaError e.lba) := by
  rw [failNotice_eq hn, if_pos hge]
  exact ⟨rfl, fun x hx w e hw he hk => endNotice_answeredWith (ok := false) (noticeFailed_notice hn id ctr) hx hw he hk⟩

/-! ## A page or the close (R160, R176) -/

/-- A notice that is bound, or has no frame, is not bound. -/
theorem bindNotice_of_settled {s : State} (h : ∀ n, s.ck.notice = some n → n.bound = true ∨ n.frame = none) :
    bindNotice s = s := by
  cases hn : s.ck.notice with
  | none =>
    unfold bindNotice
    rw [hn]
  | some n =>
    unfold bindNotice
    rw [hn]
    dsimp only
    rcases h n hn with hb | hf
    · split
      · rfl
      · rw [if_pos hb]
    · rw [hf]

/-- The failed checkpoint was the last attempt after FORMAT (R176). -/
def State.lastTry (s : State) : Prop := ∃ k, s.ck.formatTries = some k ∧ 4 ≤ k + 1

theorem retryCk_of_last {s : State} (h : s.lastTry) : (retryCk s).service = .halted ∧ (retryCk s).ck.wanted = false := by
  obtain ⟨k, hk, hge⟩ := h
  unfold retryCk
  rw [hk]
  dsimp only
  rw [if_pos (show Config.maxWriteAttempts ≤ k + 1 from hge)]
  exact ⟨rfl, rfl⟩

theorem restartCk_of_possible {s : State} (h : s.startPossible = true) :
    (restartCk s).ck.restart = true ∧ (restartCk s).ck.wanted = s.ck.wanted := by
  unfold restartCk
  rw [if_pos h]
  exact ⟨rfl, rfl⟩

theorem restartCk_of_not {s : State} (h : ¬ s.startPossible = true) : (restartCk s).ck.wanted = true := by
  unfold restartCk
  rw [if_neg h]
  rfl

/-- Before the last attempt a checkpoint starts again where it can, and is wanted elsewhere. -/
theorem retryCk_of_not_last {s : State} (h : ¬ s.lastTry) :
    (s.startPossible = true → (retryCk s).ck.restart = true ∧ (retryCk s).ck.wanted = s.ck.wanted) ∧
    (¬ s.startPossible = true → (retryCk s).ck.wanted = true) := by
  unfold retryCk
  cases hk : s.ck.formatTries with
  | none => exact ⟨restartCk_of_possible, restartCk_of_not⟩
  | some k =>
    have hlt : ¬ Config.maxWriteAttempts ≤ k + 1 := fun hge => h ⟨k, hk, hge⟩
    dsimp only
    rw [if_neg hlt]
    exact ⟨fun hp => restartCk_of_possible (by exact hp), fun hp => restartCk_of_not (by exact hp)⟩

/-- What the end of a run fixes, which no new start changes. -/
def State.runPart (s : State) :=
  (s.exceptions, s.ck.run, s.ck.ringTail, s.ck.queue, s.ck.notice, s.maint, s.ports)

theorem restartCk_runPart (s : State) : (restartCk s).runPart = s.runPart := by
  unfold restartCk
  split <;> rfl

theorem retryCk_runPart (s : State) : (retryCk s).runPart = s.runPart := by
  unfold retryCk
  repeat' split
  · rfl
  · exact (restartCk_runPart _).trans rfl
  · exact restartCk_runPart s

theorem rewindRun_runPart (r : CkRun) (s : State) : (rewindRun r s).runPart =
    (s.exceptions, none, max r.startPos r.noticeEnd, s.ck.queue.filter (fun q => q.kind = .notice), s.ck.notice,
      (if r.answers then { s.maint with awaitStart := true } else s.maint), s.ports) := by
  unfold rewindRun
  dsimp only
  split <;> rfl

/-- What a new start depends on. -/
def State.startPart (s : State) := (s.startPossible, s.ck.formatTries, s.ck.wanted)

theorem rewindRun_startPart (r : CkRun) (s : State) : (rewindRun r s).startPart = s.startPart := by
  unfold rewindRun
  dsimp only
  split <;> rfl

theorem lastTry_congr {s t : State} (h : t.ck.formatTries = s.ck.formatTries) : t.lastTry ↔ s.lastTry := by
  unfold State.lastTry
  rw [h]

/-- The abandonment of a running checkpoint, no notice waiting to be bound (R160, R176). -/
theorem abandonCheckpoint_spec {s : State} {r : CkRun} (hr : s.ck.run = some r)
    (hn : ∀ n, s.ck.notice = some n → n.bound = true ∨ n.frame = none) :
    let t := abandonCheckpoint s
    t.runPart = (s.exceptions, none, max r.startPos r.noticeEnd, s.ck.queue.filter (fun q => q.kind = .notice), s.ck.notice,
      (if r.answers then { s.maint with awaitStart := true } else s.maint), s.ports) ∧
    (¬ s.lastTry → s.startPossible = true → t.ck.restart = true ∧ t.ck.wanted = s.ck.wanted) ∧
    (¬ s.lastTry → ¬ s.startPossible = true → t.ck.wanted = true) ∧
    (s.lastTry → t.service = .halted ∧ t.ck.wanted = false) := by
  intro t
  obtain ⟨p, hp⟩ := abandonCheckpoint_eq hr
  generalize hu : rewindRun r { s with pool := p } = u at hp
  have hrun := rewindRun_runPart r { s with pool := p }
  rw [hu] at hrun
  have hstart : u.startPart = s.startPart := by
    rw [← hu]
    exact rewindRun_startPart r _
  simp only [State.startPart, Prod.mk.injEq] at hstart
  obtain ⟨hpossible, htries, hwanted⟩ := hstart
  have hpart := (retryCk_runPart u).trans hrun
  have ht : t = retryCk u := by
    refine hp.trans (bindNotice_of_settled (fun n h => hn n ?_))
    simp only [State.runPart, Prod.mk.injEq] at hpart
    rw [← h, hpart.2.2.2.2.1]
  rw [ht, ← lastTry_congr htries, ← hpossible, ← hwanted]
  exact ⟨hpart, fun h => (retryCk_of_not_last h).1, fun h => (retryCk_of_not_last h).2, retryCk_of_last⟩

theorem startPossible_iff (s : State) : s.startPossible = true ↔
    (s.service = .ready ∨ s.service = .formatting) ∧ (s.port .A).up = true ∧ s.gate = false := by
  simp [State.startPossible, and_assoc]

/-! ## The page of an abandoned checkpoint (R104, R113) -/

theorem releaseFrame_free {s : State} {id : Nat} (hid : id < s.pool.frames.length) (hs : (s.frame id).state = .inUse)
    (hp : (s.frame id).pins = 0) : ((releaseFrame id s).frame id).state = .free := by
  rw [releaseFrame, State.frame_modFrame s id id _ hid, if_pos rfl, if_neg (by simp [hs]), if_pos hp]
  rfl

/-- Settles O34: a lane's failed frame by `laneFailed_truncates`, a notice by `failNotice_again` and `failNotice_last`, a page
or close by `abandonCheckpoint_spec`. -/
theorem failedWriteTruncatesBand : Obligations.FailedWriteTruncatesBand := by
  refine ⟨fun s a issue o n id r hw hk hreq hf hr => ?_, fun s issue o q r hw hk hreq hf hq hr => ⟨fun n hkind hn hnf => ?_,
    fun run hkind hrun hnotice => ?_⟩, fun s issue o id r hw hk hreq hf hq hr => ?_⟩
  · have hkind : (if r = .writeFault then ExcKind.writeFault else .supplyLate) = faultKind (decide (r = .writeFault)) := by
      rcases hr with rfl | rfl <;> rfl
    refine ⟨_, exec_laneFailed hw hk hreq hf hr, by rw [laneFailed_port], fun hl hb hp => ?_, fun hl => ?_⟩
    · obtain ⟨hcore, hrep⟩ := laneFailed_truncates (s := endOp a s) (n := n) (id := id)
        (fault := decide (r = .writeFault)) hl hb hp
      simp only [Band.core, Band.truncated, Prod.mk.injEq, decide_eq_true_eq] at hcore
      obtain ⟨hstate, howner, hres, hwr, hclose, hhealth⟩ := hcore
      exact ⟨hstate, hwr, hres, howner, hclose, hhealth, hkind ▸ hrep⟩
    · rw [hkind]
      exact laneFailed_reports hl
  · have hfail : ringFailed q (endOp .A s) = failNotice q.frame q.ctr (endOp .A s) := by
      unfold ringFailed
      rw [hkind]
    have hn' : (endOp .A s).ck.notice = some n := hn
    have later := (failNotice_steady hn' q.frame q.ctr).trans (settle_steady _)
    have hpart := settle_writerPart (failNotice q.frame q.ctr (endOp .A s))
    refine ⟨_, exec_ringFailed hw hk hreq hf hq hr, ?_⟩
    rw [hfail]
    refine ⟨?_, later.reports _ _ _ _ (.inr (.inr rfl)) (noticeFailed_reports _ _ _), fun hlt => ?_, fun hge => ?_⟩
    · rw [settle_port, port_of_ports (failNotice_ports _ _ _), endOp_port]
    · obtain ⟨m, hm, hrest⟩ := failNotice_again q.ctr hn' hnf hlt
      simp only [State.writerPart, Prod.mk.injEq] at hpart
      obtain ⟨-, -, -, -, -, htail, -, hnot, hqueue, -⟩ := hpart
      rw [htail, hnot, hqueue]
      exact ⟨m, hm, hrest⟩
    · obtain ⟨hwanted, hans⟩ := failNotice_last (id := q.frame) q.ctr hn' hge
      exact ⟨(settle_steady _).wanted hwanted, fun x hx w e hxw he hk =>
        (settle_steady _).answeredWith (settle_sent _) (hans x hx w e hxw he hk)⟩
  · intro possible last
    have hfail : ringFailed q (endOp .A s) = failCheckpoint q.ctr (endOp .A s) := by
      unfold ringFailed
      cases hq' : q.kind with
      | notice => exact absurd hq' hkind
      | page => rfl
      | close => rfl
    refine ⟨_, exec_ringFailed hw hk hreq hf hq hr, ?_⟩
    rw [hfail]
    generalize hs' : post .checkpointFailed .A (q.ctr % (endOp .A s).cks) 0 (endOp .A s) = u
    have hrun' : u.ck.run = some run := by
      rw [← hs']
      exact hrun
    have hnotice' : ∀ n, u.ck.notice = some n → n.bound = true ∨ n.frame = none := by
      rw [← hs']
      exact hnotice
    have hlast : u.lastTry ↔ last := by
      rw [← hs']
      exact Iff.rfl
    have hpossible : u.startPossible = true ↔ possible := by
      rw [startPossible_iff, ← hs']
      exact Iff.rfl
    obtain ⟨hpart, hagain, hwait, hend⟩ := abandonCheckpoint_spec hrun' hnotice'
    simp only [State.runPart, Prod.mk.injEq] at hpart
    obtain ⟨hexc, hnone, htail, hqueue, -, hmaint, -⟩ := hpart
    have ht : failCheckpoint q.ctr (endOp .A s) = abandonCheckpoint u := congrArg abandonCheckpoint hs'
    have hrep : u.reports .checkpointFailed .A (q.ctr % s.cks) 0 := by
      rw [← hs']
      exact post_reports _ _ _ _ _
    have hck : u.ck = s.ck := by
      rw [← hs']
      rfl
    rw [ht, ← hck]
    refine ⟨?_, hnone, htail, hqueue, fun hans => ?_, fun h hp => hagain (mt hlast.1 h) (hpossible.2 hp),
      fun h hp => hwait (mt hlast.1 h) (mt hpossible.1 hp), fun h => hend (hlast.2 h)⟩
    · unfold State.reports
      rw [hexc]
      exact hrep
    · rw [hmaint, if_pos hans]
  · refine ⟨_, exec_endAbandoned hw hk hreq hf hq hr, ?_⟩
    have hfree : ∀ u, u.pool = s.pool → id < s.pool.frames.length → (s.frame id).state = .inUse → (s.frame id).pins = 0 →
        ((releaseFrame id u).frame id).state = .free := fun u hu h1 h2 h3 => by
      have hframe : u.frame id = s.frame id := by rw [State.frame, hu]; rfl
      exact releaseFrame_free (hu ▸ h1) (hframe ▸ h2) (hframe ▸ h3)
    unfold endAbandoned
    by_cases hd : r = .done
    · rw [if_neg (by simp [hd])]
      exact ⟨rfl, fun _ => rfl, fun h => absurd hd h, hfree _ rfl⟩
    · rw [if_pos (by simpa using hd)]
      exact ⟨rfl, fun h => absurd h hd, fun _ => post_reports _ _ _ _ _, hfree _ rfl⟩

end Sys2Proof.Machine
end

section
/-! SEGMENT_WRITE_RESULT DONE for a lane's frame and for a notice (O33). -/

namespace Sys2Proof.Machine

/-! ## What follows a command where nothing waits -/

theorem informLanes_of_none {s : State} (h : s.stuckLanes = []) : informLanes s = s := by
  simp [informLanes, State.forAny, State.anyOrder, h]

theorem pump_of_none {s : State} (h : s.rc.job = none) : pump s = s := by
  simp [pump, h]

/-- With no lane waiting and no job, the gate alone is followed by the port waits. -/
theorem settleRound_of_still {s : State} (hl : (gateEdge s).stuckLanes = []) (hj : (gateEdge s).rc.job = none) :
    settleRound s = refreshWaits (gateEdge s) := by
  simp [settleRound, informLanes_of_none hl, pump_of_none hj]

theorem gateEdge_of_level {s : State} (h : s.gate = s.gateLevel) : gateEdge s = s := by
  simp [gateEdge, h]

theorem refreshWaits_of_none {s : State} (h : s.rs.reads = []) : refreshWaits s = s := by
  have none : ∀ f, s.rs.reads.map f = s.rs.reads := fun f => by rw [h]; rfl
  unfold refreshWaits
  rw [none]

theorem settle_of_quiet {s : State} (h : s.quiet) : settle s = s := by
  obtain ⟨⟨hgate, hlanes, hjob⟩, hreads⟩ := h
  have hedge := gateEdge_of_level hgate
  have hround : settleRound s = s := by
    rw [settleRound_of_still (by rwa [hedge]) (by rwa [hedge]), hedge, refreshWaits_of_none hreads]
  simp [settle, hround, hgate]

/-- What quiet depends on. -/
def State.quietPart (s : State) := (s.gate, s.gateLevel, s.stuckLanes, s.rc.job.isSome, s.rs.reads)

theorem quiet_iff (s : State) : s.quiet ↔ s.gate = s.gateLevel ∧ s.stuckLanes = [] ∧ s.rc.job.isSome = false ∧ s.rs.reads = [] := by
  simp [State.quiet, State.calm, and_assoc]

theorem quiet_congr {s t : State} (h : t.quietPart = s.quietPart) (hs : s.quiet) : t.quiet := by
  simp only [State.quietPart, Prod.mk.injEq] at h
  obtain ⟨hgate, hlevel, hlanes, hjob, hreads⟩ := h
  rw [quiet_iff] at *
  rwa [hgate, hlevel, hlanes, hjob, hreads]

theorem stuckLanes_congr {s t : State} (h : ∀ n, (t.lane n).state = (s.lane n).state) : t.stuckLanes = s.stuckLanes := by
  simp only [State.stuckLanes, h]

/-! ## The band under a write that is done (R48) -/

/-- The fields that no band's counters touch. -/
def State.besideBands (s : State) := (s.rc, s.pool, s.tags, s.frontOut, s.quietPart)

theorem bandWritten_beside (a : Actuator) (b : Nat) (s : State) : (bandWritten a b s).besideBands = s.besideBands := by
  unfold bandWritten
  dsimp only
  repeat' split
  all_goals rfl

/-- A band's record with one write more that is done. -/
def Band.wrote (r : Band) : Band := { r with written := r.written + 1, bound := r.bound - 1 }

/-- What the completed write makes of the band (R48). -/
theorem bandWritten_eq {s : State} {a : Actuator} {b : Nat} (hb : b < (s.bm.get a).bands.length) :
    bandWritten a b s =
      let t := s.modBand a b Band.wrote
      let r := (s.bandRec a b).wrote
      if r.state = .draining then
        if r.written = s.spb then t.modBand a b (fun r => { r with state := .full, closeSeq := s.seq })
        else if r.bound = 0 then park a b t
        else t
      else t := by
  have hrec : (s.modBand a b Band.wrote).bandRec a b = (s.bandRec a b).wrote := by
    rw [State.bandRec_modBand s a b b _ hb, if_pos rfl]
  rw [← hrec]
  rfl

theorem length_modBand {s : State} {a : Actuator} {b : Nat} (f : Band → Band) :
    ((s.modBand a b f).bm.get a).bands.length = (s.bm.get a).bands.length := by
  simp [State.modBand, State.modMgr, Two.get_modify]

section
variable {s : State} {a : Actuator} {b : Nat} (hb : b < (s.bm.get a).bands.length)
include hb

theorem bandRec_modBand_self (f : Band → Band) : (s.modBand a b f).bandRec a b = f (s.bandRec a b) := by
  rw [State.bandRec_modBand s a b b f hb, if_pos rfl]

theorem bandRec_modBand_twice (f g : Band → Band) : ((s.modBand a b f).modBand a b g).bandRec a b = g (f (s.bandRec a b)) := by
  have hb' : b < ((s.modBand a b f).bm.get a).bands.length := (length_modBand f).symm ▸ hb
  rw [State.bandRec_modBand _ a b b g hb', if_pos rfl, bandRec_modBand_self hb]

theorem bandRec_park : (park a b s).bandRec a b = { s.bandRec a b with state := .parked, owner := none } := by
  rw [← bandRec_modBand_self hb (fun r => { r with state := .parked, owner := none })]
  simp [park, State.bandRec, State.modMgr, Two.get_modify]

theorem bandWritten_written : ((bandWritten a b s).bandRec a b).written = (s.bandRec a b).written + 1 := by
  rw [bandWritten_eq hb]
  dsimp only
  repeat' split
  · rw [bandRec_modBand_twice hb]
    rfl
  · rw [bandRec_park ((length_modBand _).symm ▸ hb), bandRec_modBand_self hb]
    rfl
  · rw [bandRec_modBand_self hb]
    rfl
  · rw [bandRec_modBand_self hb]
    rfl

theorem bandWritten_live (hl : (s.bandRec a b).state = .opened ∨ (s.bandRec a b).state = .draining) :
    ((bandWritten a b s).bandRec a b).live := by
  rw [bandWritten_eq hb]
  dsimp only
  repeat' split
  · rw [bandRec_modBand_twice hb]
    exact .inr (.inr (.inr rfl))
  · rw [bandRec_park ((length_modBand _).symm ▸ hb)]
    exact .inr (.inr (.inl rfl))
  · rw [bandRec_modBand_self hb]
    exact hl.imp_right .inl
  · rw [bandRec_modBand_self hb]
    exact hl.imp_right .inl

theorem bandWritten_full (hs : (s.bandRec a b).state = .draining) (hw : (s.bandRec a b).written + 1 = s.spb)
    (hp : b ∉ (s.bm.get a).parked) :
    (bandWritten a b s).closedBand a b ∧ ((bandWritten a b s).bandRec a b).closeSeq = s.seq := by
  have hs' : (s.bandRec a b).wrote.state = .draining := hs
  have hw' : (s.bandRec a b).wrote.written = s.spb := hw
  rw [bandWritten_eq hb]
  dsimp only
  rw [if_pos hs', if_pos hw', State.closedBand, bandRec_modBand_twice hb]
  exact ⟨⟨rfl, by simpa [State.modBand, State.modMgr, Two.get_modify] using hp⟩, rfl⟩

theorem bandWritten_parked (hs : (s.bandRec a b).state = .draining) (hw : (s.bandRec a b).written + 1 ≠ s.spb)
    (hbound : (s.bandRec a b).bound ≤ 1) :
    ((bandWritten a b s).bandRec a b).state = .parked ∧
    ((bandWritten a b s).bm.get a).parked = (s.bm.get a).parked ++ [b] := by
  have hs' : (s.bandRec a b).wrote.state = .draining := hs
  have hw' : ¬ (s.bandRec a b).wrote.written = s.spb := hw
  have hzero : (s.bandRec a b).wrote.bound = 0 := Nat.sub_eq_zero_of_le hbound
  rw [bandWritten_eq hb]
  dsimp only
  rw [if_pos hs', if_neg hw', if_pos hzero]
  refine ⟨?_, ?_⟩
  · rw [bandRec_park ((length_modBand _).symm ▸ hb)]
  · simp [park, State.modBand, State.modMgr, Two.get_modify]

end

/-! ## A lane's frame written (R48, R81, R114) -/

/-- The frame's band once its write is done. -/
def writtenBand (l : SegLoc) (s : State) : State := if l.region = .band then bandWritten l.act l.band s else s

theorem writtenBand_beside (l : SegLoc) (s : State) : (writtenBand l s).besideBands = s.besideBands := by
  unfold writtenBand
  split
  · exact bandWritten_beside _ _ _
  · rfl

/-- The frame has left its lane's queue, its waiters told. -/
def unqueueWritten (n id : Nat) (s : State) : State :=
  (leaveQueue n id s).modFrame id (fun f => { f with written := true, waiters := [] })

theorem laneWritten_eq (n id : Nat) (l : SegLoc) (s : State) : laneWritten n id l s =
    if n = 7 then takeWritten id l (unqueueWritten n id (writtenBand l s))
    else wakeWaiters ((writtenBand l s).frame id).waiters (releaseFrame id (unqueueWritten n id (writtenBand l s))) := rfl

theorem unqueueWritten_steady (n id : Nat) (s : State) : Steady s (unqueueWritten n id s) :=
  (leaveQueue_steady n id s).trans (modFrame_steady _ _ _)

/-- Behind the band's counters nothing touches the band again. -/
theorem laneWritten_steady (n id : Nat) (l : SegLoc) (s : State) : Steady (writtenBand l s) (laneWritten n id l s) := by
  rw [laneWritten_eq]
  split
  · exact (unqueueWritten_steady _ _ _).trans (takeWritten_steady _ _ _)
  · exact (unqueueWritten_steady _ _ _).trans ((releaseFrame_steady _ _).trans (wakeWaiters_steady _ _))

/-! ### Nothing else waits -/

/-- The bands, and what quiet depends on. -/
def State.stillPart (s : State) := (s.bm, s.quietPart)

theorem checkComplete_still (t : Nat) (s : State) : (checkComplete t s).stillPart = s.stillPart := by
  unfold checkComplete completeWrite completeFlush
  repeat' split
  all_goals rfl

theorem wakeWaiters_still (l : List Nat) (s : State) : (wakeWaiters l s).stillPart = s.stillPart :=
  forAny_keeps (g := State.stillPart) (fun _ _ => rfl) (fun u t => checkComplete_still t u) l s

theorem unqueueWritten_still (n id : Nat) (s : State) : (unqueueWritten n id s).stillPart = s.stillPart := by
  have lanes : (leaveQueue n id s).stuckLanes = s.stuckLanes :=
    stuckLanes_congr (fun m => modLane_keeps Lane.state (fun _ => by exact rfl) s n m)
  have hsame : (unqueueWritten n id s).stillPart = (leaveQueue n id s).stillPart := rfl
  rw [hsame]
  simp only [State.stillPart, State.quietPart, lanes]
  rfl

theorem modJob_still (f : Job → Job) (s : State) : (s.modJob f).stillPart = s.stillPart := by
  have job : (s.modJob f).rc.job.isSome = s.rc.job.isSome := by simp [State.modJob]
  simp only [State.stillPart, State.quietPart, job]
  rfl

theorem takeWritten_still (id : Nat) (l : SegLoc) (s : State) : (takeWritten id l s).stillPart = s.stillPart := by
  unfold takeWritten
  exact Eq.trans rfl (modJob_still _ s)

theorem releaseFrame_still (id : Nat) (s : State) : (releaseFrame id s).stillPart = s.stillPart := rfl

/-- After the band's counters the write's result leaves the bands and the waiting lanes as they are. -/
theorem laneWritten_still (n id : Nat) (l : SegLoc) (s : State) :
    (laneWritten n id l s).stillPart = (writtenBand l s).stillPart := by
  rw [laneWritten_eq]
  split
  · exact (takeWritten_still _ _ _).trans (unqueueWritten_still _ _ _)
  · exact (wakeWaiters_still _ _).trans ((releaseFrame_still _ _).trans (unqueueWritten_still _ _ _))

theorem laneWritten_quiet (n id : Nat) (l : SegLoc) {s : State} (hs : s.quiet) : (laneWritten n id l s).quiet := by
  refine quiet_congr ?_ hs
  have still := congrArg Prod.snd (laneWritten_still n id l s)
  have beside := writtenBand_beside l s
  simp only [State.besideBands, Prod.mk.injEq] at beside
  exact still.trans beside.2.2.2.2

/-! ### A band's frame -/

section
variable {s : State} {n id : Nat} {l : SegLoc} (hl : l.region = .band) (hb : l.band < (s.bm.get l.act).bands.length)
include hl hb

theorem laneWritten_advances
    (hs : (s.bandRec l.act l.band).state = .opened ∨ (s.bandRec l.act l.band).state = .draining) :
    ((settle (laneWritten n id l s)).bandRec l.act l.band).written = (s.bandRec l.act l.band).written + 1 := by
  have later := (laneWritten_steady n id l s).trans (settle_steady _)
  rw [writtenBand, if_pos hl] at later
  rw [(later.live _ _ (bandWritten_live hb hs)).2, bandWritten_written hb]

theorem laneWritten_full (hs : (s.bandRec l.act l.band).state = .draining)
    (hw : (s.bandRec l.act l.band).written + 1 = s.spb) (hp : l.band ∉ (s.bm.get l.act).parked) :
    ((settle (laneWritten n id l s)).bandRec l.act l.band).state = .full ∧
    ((settle (laneWritten n id l s)).bandRec l.act l.band).closeSeq = s.seq := by
  have later := (laneWritten_steady n id l s).trans (settle_steady _)
  rw [writtenBand, if_pos hl] at later
  obtain ⟨hclosed, hseq⟩ := bandWritten_full hb hs hw hp
  obtain ⟨hclosed', hcore⟩ := later.closed _ _ hclosed
  simp only [Band.core, Prod.mk.injEq] at hcore
  obtain ⟨-, -, -, -, hclose, -⟩ := hcore
  exact ⟨hclosed'.1, hclose.trans hseq⟩

theorem laneWritten_parks (hs : (s.bandRec l.act l.band).state = .draining)
    (hw : (s.bandRec l.act l.band).written + 1 ≠ s.spb) (hbound : (s.bandRec l.act l.band).bound ≤ 1) (hq : s.quiet) :
    ((settle (laneWritten n id l s)).bandRec l.act l.band).state = .parked ∧
    ((settle (laneWritten n id l s)).bm.get l.act).parked = (s.bm.get l.act).parked ++ [l.band] := by
  have hbm : (laneWritten n id l s).bm = (bandWritten l.act l.band s).bm := by
    have still := congrArg Prod.fst (laneWritten_still n id l s)
    rw [writtenBand, if_pos hl] at still
    exact still
  rw [settle_of_quiet (laneWritten_quiet n id l hq), State.bandRec, hbm]
  exact bandWritten_parked hb hs hw hbound

end

/-! ### The frame and who waits for it -/

/-- A written frame of lane 7 joins the commit queue (R132, R142). -/
theorem laneWritten_commitQ (id : Nat) (l : SegLoc) (s : State) :
    (settle (laneWritten 7 id l s)).rc.commitQ = s.rc.commitQ ++ [id] := by
  have hrc : (writtenBand l s).rc = s.rc := congrArg Prod.fst (writtenBand_beside l s)
  have htake : (laneWritten 7 id l s).rc.commitQ = (writtenBand l s).rc.commitQ ++ [id] := by
    rw [laneWritten_eq, if_pos rfl]
    rfl
  have hsettle := settle_commits (laneWritten 7 id l s)
  simp only [State.commits, Prod.mk.injEq] at hsettle
  rw [hsettle.1, htake, hrc]

/-- A released frame counts no waiters more than before. -/
theorem releaseFrame_waiters (id j : Nat) (s : State) :
    ((releaseFrame id s).frame j).waiters = (s.frame j).waiters ∨ ((releaseFrame id s).frame j).waiters = [] := by
  by_cases hj : j = id
  · subst hj
    by_cases hid : j < s.pool.frames.length
    · rw [releaseFrame, State.frame_modFrame s j j _ hid, if_pos rfl]
      split
      · exact .inl rfl
      · split
        · exact .inr rfl
        · exact .inr rfl
    · have same : s.pool.frames.modify j = fun _ => s.pool.frames := funext (fun f => List.modify_eq_self (not_lt.1 hid))
      exact .inl (by simp [releaseFrame, State.frame, State.modFrame, same])
  · exact .inl (congrArg Frame.waiters (State.frame_modFrame_ne s _ hj))

theorem unqueueWritten_frame {n id : Nat} {s : State} (hid : id < s.pool.frames.length) :
    (unqueueWritten n id s).frame id = { s.frame id with written := true, waiters := [] } := by
  have hid' : id < (leaveQueue n id s).pool.frames.length := hid
  rw [unqueueWritten, State.frame_modFrame _ id id _ hid', if_pos rfl]
  rfl

theorem unqueueWritten_frame_ne {n id j : Nat} {s : State} (hj : j ≠ id) : (unqueueWritten n id s).frame j = s.frame j := by
  rw [unqueueWritten, State.frame_modFrame_ne _ _ hj]
  rfl

theorem hasFrames_eq_false {w : Nat} {s : State} (h : ∀ j, w ∉ (s.frame j).waiters) : s.hasFrames w = false := by
  refine List.any_eq_false.2 (fun f hf => ?_)
  obtain ⟨j, hj, rfl⟩ := List.getElem_of_mem hf
  have := h j
  rw [State.frame, List.getD_eq_getElem?_getD, List.getElem?_eq_getElem hj] at this
  simpa using this

theorem frame_of_ge {s : State} {id : Nat} (h : ¬ id < s.pool.frames.length) : s.frame id = Frame.free := by
  simp [State.frame, List.getD_eq_getElem?_getD, h]

/-- A tag that waits for the frame id alone waits for none once that frame is written. -/
theorem hasFrames_written {n id w : Nat} {s : State} (hid : id < s.pool.frames.length)
    (h : ∀ j, j ≠ id → w ∉ (s.frame j).waiters) : (releaseFrame id (unqueueWritten n id s)).hasFrames w = false := by
  refine hasFrames_eq_false (fun j => ?_)
  have none : w ∉ ((unqueueWritten n id s).frame j).waiters := by
    by_cases hj : j = id
    · subst hj
      rw [unqueueWritten_frame hid]
      exact List.not_mem_nil
    · rw [unqueueWritten_frame_ne hj]
      exact h j hj
  rcases releaseFrame_waiters id j (unqueueWritten n id s) with hw | hw <;> rw [hw]
  · exact none
  · exact List.not_mem_nil

theorem wakeWaiters_one (w : Nat) (s : State) : wakeWaiters [w] s = checkComplete w s := rfl

/-- A durable WRITE that counts no frame more completes GOOD (R181). -/
theorem checkComplete_durable {w : Nat} {e : TagEntry} {s : State} (he : s.tag w = some e) (hk : e.kind = .write)
    (hst : e.stand = .accepted) (hd : e.durable = true) (hl : e.lostLba = none) (hc : e.accepted = e.count)
    (hf : s.hasFrames w = false) : checkComplete w s = complete w .good e.count s := by
  simp [checkComplete, completeWrite, he, hk, hst, hd, hl, hc, hf]

theorem released_beside (n id : Nat) (s : State) : (releaseFrame id (unqueueWritten n id s)).tags = s.tags ∧
    (releaseFrame id (unqueueWritten n id s)).frontOut = s.frontOut := ⟨rfl, rfl⟩

/-- The last frame of a durable WRITE brings its completion (R81, R181). -/
theorem laneWritten_completes {n id w : Nat} {l : SegLoc} {e : TagEntry} {s : State} (hn : n ≠ 7)
    (hw : (s.frame id).waiters = [w]) (hother : ∀ j, j ≠ id → w ∉ (s.frame j).waiters) (he : s.tag w = some e)
    (hk : e.kind = .write) (hst : e.stand = .accepted) (hd : e.durable = true) (hl : e.lostLba = none)
    (hc : e.accepted = e.count) :
    s.frontOut ++ [.completion w .good e.count] <+: (settle (laneWritten n id l s)).frontOut ∧
    (settle (laneWritten n id l s)).tag w = none := by
  have beside := writtenBand_beside l s
  simp only [State.besideBands, Prod.mk.injEq] at beside
  obtain ⟨-, hpool, htags, hout, -⟩ := beside
  have hframe : ∀ j, (writtenBand l s).frame j = s.frame j := fun j => by
    rw [State.frame, hpool]
    rfl
  have hid : id < (writtenBand l s).pool.frames.length := by
    by_contra h
    rw [← hframe, frame_of_ge h] at hw
    simp [Frame.free] at hw
  have hfree := hasFrames_written (n := n) hid (fun j hj => by rw [hframe]; exact hother j hj)
  have hlane : laneWritten n id l s = checkComplete w (releaseFrame id (unqueueWritten n id (writtenBand l s))) := by
    rw [laneWritten_eq, if_neg hn, hframe, hw, wakeWaiters_one]
  obtain ⟨htag, hsame⟩ := released_beside n id (writtenBand l s)
  generalize releaseFrame id (unqueueWritten n id (writtenBand l s)) = u at hfree hlane htag hsame
  have hu : u.tag w = some e := by
    rw [State.tag, htag, htags]
    exact he
  rw [checkComplete_durable hu hk hst hd hl hc hfree] at hlane
  rw [hlane]
  refine ⟨?_, (settle_steady _).tags w (State.tag_complete _ _ _ _)⟩
  have hsent := settle_sent (complete w .good e.count u)
  rw [← hout, ← hsame]
  exact hsent

/-- A written frame that nobody pins or waits for is FREE again (R48, R89). -/
theorem laneWritten_frees {n id : Nat} {l : SegLoc} {s : State} (hn : n ≠ 7) (hq : s.quiet) (hw : (s.frame id).waiters = [])
    (hs : (s.frame id).state = .inUse) (hp : (s.frame id).pins = 0) :
    ((settle (laneWritten n id l s)).frame id).state = .free := by
  have beside := writtenBand_beside l s
  simp only [State.besideBands, Prod.mk.injEq] at beside
  have hframe : (writtenBand l s).frame id = s.frame id := by
    rw [State.frame, beside.2.1]
    rfl
  have hid : id < (writtenBand l s).pool.frames.length := by
    by_contra h
    rw [← hframe, frame_of_ge h] at hs
    simp [Frame.free] at hs
  rw [settle_of_quiet (laneWritten_quiet n id l hq), laneWritten_eq, if_neg hn, hframe, hw]
  have hfr := unqueueWritten_frame (n := n) hid
  refine releaseFrame_free (s := unqueueWritten n id (writtenBand l s)) ?_ ?_ ?_
  · rw [unqueueWritten]
    simpa [State.modFrame] using show id < (leaveQueue n id (writtenBand l s)).pool.frames.length from hid
  · rw [hfr, hframe]
    exact hs
  · rw [hfr, hframe]
    exact hp

/-! ## The notice written (R152, R182) -/

/-- The RELEASEs and attempts of the notice, and the batch, which a binding leaves alone. -/
def Ckpt.due (c : Ckpt) := (c.notice.map (fun n => (n.records, n.attempts)), c.batch)

theorem testRingHalf_due (s : State) : (testRingHalf s).ck.due = s.ck.due := by
  unfold testRingHalf
  split <;> rfl

theorem modNotice_due (f : Notice → Notice) (hf : ∀ n, (f n).records = n.records ∧ (f n).attempts = n.attempts) (s : State) :
    (s.modCk (fun c => { c with notice := c.notice.map f })).ck.due = s.ck.due := by
  simp [Ckpt.due, State.modCk, Option.map_map, Function.comp_def, hf]

theorem bindNotice_due (s : State) : (bindNotice s).ck.due = s.ck.due := by
  unfold bindNotice
  repeat' split
  all_goals first
    | rfl
    | exact (testRingHalf_due _).trans ((modNotice_due _ (fun n => by exact ⟨rfl, rfl⟩) _).trans rfl)

theorem grantNotice_due (id : Nat) (s : State) : (grantNotice id s).ck.due = s.ck.due :=
  (bindNotice_due _).trans (modNotice_due _ (fun n => by exact ⟨rfl, rfl⟩) s)

/-- The batch, when it is not empty, is the next closed notice (R152). -/
theorem takeBatch_due {s : State} (h : s.ck.notice = none) :
    (takeBatch s).ck.due = if s.ck.batch = [] then (none, []) else (some (s.ck.batch, 0), []) := by
  unfold takeBatch
  by_cases hb : s.ck.batch = []
  · rw [if_neg (by simp [hb]), if_pos hb]
    simp [Ckpt.due, h, hb]
  · rw [if_pos ⟨by simp [h], hb⟩, if_neg hb]
    generalize hu : s.modCk (fun c => { c with notice := some ⟨c.batch, none, false, 0⟩, batch := [] }) = u
    have hdue : u.ck.due = (some (s.ck.batch, 0), []) := by
      rw [← hu]
      rfl
    have asked : (requestFrame .notice u).2.ck.due = u.ck.due := by
      have := (requestFrame_inner .notice u).writerPart
      simp only [State.writerPart, Prod.mk.injEq] at this
      simp [Ckpt.due, this]
    dsimp only
    split <;> rename_i hg <;> have hreq := congrArg (fun x => x.2.ck.due) hg
    · exact (grantNotice_due _ _).trans ((hreq.symm.trans asked).trans hdue)
    · exact (hreq.symm.trans asked).trans hdue

theorem endNotice_due {ok : Bool} {s : State} {n : Notice} (hn : s.ck.notice = some n) :
    (endNotice ok s).ck.due = if s.ck.batch = [] then (none, []) else (some (s.ck.batch, 0), []) := by
  unfold endNotice
  rw [hn]
  dsimp only
  have hheld : (releaseHeld n.frame s).ck = s.ck := by
    unfold releaseHeld
    split <;> rfl
  have hpart := (Inner.forAny (completeRelease_inner ok) (n.records.filterMap (fun r => r.tag))
    ((releaseHeld n.frame s).modCk (fun c => { c with notice := none }))).writerPart
  simp only [State.writerPart, Prod.mk.injEq] at hpart
  obtain ⟨-, -, -, -, -, -, hbatch, hnotice, -⟩ := hpart
  rw [takeBatch_due hnotice, hbatch]
  simp only [State.modCk, hheld]

theorem laneWritten_port (n id : Nat) (l : SegLoc) (a : Actuator) (s : State) :
    (settle (laneWritten n id l (endOp a s))).port a = { s.port a with op := none, timer := none } := by
  rw [settle_port, port_of_writerPart (laneWritten_inner _ _ _ _).writerPart, endOp_port]

/-- A notice written: its RELEASEs are answered, and the batch takes its place (R152, R182). -/
theorem noticeWritten_spec {s : State} {q : RingSeg} {n : Notice} (hkind : q.kind = .notice) (hn : s.ck.notice = some n) :
    (settle (ringWritten q s)).ports = s.ports ∧
    (∀ x ∈ n.records, ∀ w e, x.tag = some w → s.tag w = some e → e.kind = .release →
      (settle (ringWritten q s)).answeredWith w (.completion w .good e.count)) ∧
    (settle (ringWritten q s)).ck.due = if s.ck.batch = [] then (none, []) else (some (s.ck.batch, 0), []) := by
  have hring : ringWritten q s = endNotice true (unqueueRing q.frame s) := by
    unfold ringWritten
    rw [hkind]
  have hnotice : (unqueueRing q.frame s).ck.notice = some n := hn
  rw [hring]
  have hpart := settle_writerPart (endNotice true (unqueueRing q.frame s))
  simp only [State.writerPart, Prod.mk.injEq] at hpart
  obtain ⟨hports, -, -, -, -, -, hbatch, hnot, -⟩ := hpart
  refine ⟨hports.trans (endNotice_ports _ _), fun x hx w e hw he hk => ?_, ?_⟩
  · exact (settle_steady _).answeredWith (settle_sent _) (endNotice_answeredWith (ok := true) hnotice hx hw he hk)
  · rw [Ckpt.due, hnot, hbatch]
    exact endNotice_due hnotice

/-- Settles O33: a lane's frame by the lemmas on `laneWritten`, a notice by `noticeWritten_spec`. -/
theorem segmentWriteDoneAdvancesBand : Obligations.SegmentWriteDoneAdvancesBand := by
  refine ⟨fun s a issue o n id hw hk hreq hf => ?_, fun s issue o q n hw hk hreq hf hq hkind hn => ?_⟩
  · intro act b r
    refine ⟨_, exec_laneWritten hw hk hreq hf, by rw [laneWritten_port], by rw [laneWritten_port],
      fun hl hb hp hs => ⟨laneWritten_advances (s := endOp a s) hl hb hs,
        fun hd hspb => laneWritten_full (s := endOp a s) hl hb hd hspb hp,
        fun hd hspb hbound hquiet => laneWritten_parks (s := endOp a s) hl hb hd hspb hbound hquiet⟩,
      ?_, fun hn w e h1 h2 h3 h4 h5 h6 h7 h8 => laneWritten_completes (s := endOp a s) hn h1 h2 h3 h4 h5 h6 h7 h8,
      fun hn hquiet h1 h2 h3 => laneWritten_frees (s := endOp a s) hn hquiet h1 h2 h3⟩
    rintro rfl
    exact laneWritten_commitQ id o.loc (endOp a s)
  · have hn' : (endOp .A s).ck.notice = some n := hn
    obtain ⟨hports, hans, hdue⟩ := noticeWritten_spec hkind hn'
    refine ⟨_, exec_ringWritten hw hk hreq hf hq, by rw [port_of_ports hports, endOp_port], hans, fun hb => ?_, fun hb => ?_⟩
    · rw [if_pos (by exact hb)] at hdue
      simpa [Ckpt.due] using congrArg Prod.fst hdue
    · rw [if_neg (by exact hb)] at hdue
      simp only [Ckpt.due, Prod.mk.injEq, Option.map_eq_some_iff] at hdue
      obtain ⟨⟨m, hm, hrec, hatt⟩, hbatch⟩ := hdue
      exact ⟨hbatch, m, hm, hrec, hatt⟩

end Sys2Proof.Machine
end

section
/-! The pages and the close of a checkpoint written (O39): the close bound behind the last page, and what a complete checkpoint
clears. `Closing g s t` says what the work around and after the completion leaves alone, g being what it keeps of the bands and
rings. -/

namespace Sys2Proof.Machine

/-! ## A page written (R150, R158) -/

/-- The writer after a page has been written, before the close may bind. -/
def pageDone (id : Nat) (s : State) : State :=
  (releaseFrame id (unqueueRing id s)).modRun (fun r => { r with pagesDone := r.pagesDone + 1 })

theorem ringWritten_page {q : RingSeg} (h : q.kind = .page) (s : State) :
    ringWritten q s = bindClose (pageDone q.frame s) := by
  unfold ringWritten
  rw [h]
  rfl

/-- Before its last page a checkpoint binds no close, nor without the close's frame (R158). -/
theorem bindClose_of_waiting {s : State} {r : CkRun} (hr : s.ck.run = some r)
    (h : r.closeFrame = none ∨ r.pagesDone ≠ r.pages.length) : bindClose s = s := by
  unfold bindClose
  rw [hr]
  dsimp only
  repeat' split
  all_goals first
    | rfl
    | simp_all

/-- Behind its last page the close binds at ring_tail (R158). -/
theorem bindClose_of_ready {s : State} {r : CkRun} {g : Geometry} {id : Nat} (hr : s.ck.run = some r) (hg : s.geom = some g)
    (hid : r.closeFrame = some id) (hb : r.closeBound = false) (hp : r.pagesDone = r.pages.length) (hroom : 1 ≤ s.ckFree) :
    bindClose s = (bindRing .close .close id (closeBlock r.sStart (s.epoch.getD 0) r.startPos r.pagesA r.pagesB r.pagesExt g
      r.captured s.work r.pages :: List.replicate 15 0) 1 s).modRun (fun r => { r with closeBound := true }) := by
  unfold bindClose
  rw [hr, hg]
  dsimp only
  rw [hid]
  dsimp only
  rw [if_pos ⟨hb, hp, hroom⟩]

/-- The frame bound to a checkpoint-ring segment (R150). -/
def Frame.boundAt (own : SegLoc) (payload : List Block) (filled seq : Nat) (stamp : Stamp) (f : Frame) : Frame :=
  { f with bound := some own, payload := payload, fill := filled, seq := some seq, closed := true, stamp := some stamp }

/-- The frame bound at ring_tail (R150). -/
theorem bindRing_frame (k : RingKind) (g : SegKind) {id : Nat} (payload : List Block) (n : Nat) {s : State}
    (h : id < s.pool.frames.length) : (bindRing k g id payload n s).frame id =
      (s.frame id).boundAt (s.ckLoc s.ck.ringTail) payload n (s.seq.getD 0)
        ⟨g, s.epoch.getD 0, s.seq.getD 0, s.ckLoc s.ck.ringTail, 0, [], 0, n, checkWord (payloadFold payload) (s.seq.getD 0)⟩ := by
  have hframe := State.frame_modFrame (assignSeq s).2 id id (Frame.boundAt (s.ckLoc s.ck.ringTail) payload n (s.seq.getD 0)
    ⟨g, s.epoch.getD 0, s.seq.getD 0, s.ckLoc s.ck.ringTail, 0, [], 0, n, checkWord (payloadFold payload) (s.seq.getD 0)⟩) h
  rw [if_pos rfl] at hframe
  exact hframe

theorem pageDone_frame_ne {id k : Nat} (h : k ≠ id) (s : State) : (pageDone id s).frame k = s.frame k :=
  State.frame_modFrame_ne (unqueueRing id s) _ h

/-- A page written without a close to bind (R150, R158). -/
theorem pageWritten_waits {s : State} {q : RingSeg} {r : CkRun} (hk : q.kind = .page) (hr : s.ck.run = some r)
    (h : r.closeFrame = none ∨ r.pagesDone + 1 ≠ r.pages.length) : ringWritten q s = pageDone q.frame s := by
  have hrun : (pageDone q.frame s).ck.run = some { r with pagesDone := r.pagesDone + 1 } := congrArg (Option.map _) hr
  rw [ringWritten_page hk]
  exact bindClose_of_waiting hrun h

/-- The last page written binds the close (R158). -/
theorem pageWritten_closes {s : State} {q : RingSeg} {r : CkRun} {g : Geometry} {id : Nat} (hk : q.kind = .page)
    (hr : s.ck.run = some r) (hg : s.geom = some g) (hid : r.closeFrame = some id) (hb : r.closeBound = false)
    (hp : r.pagesDone + 1 = r.pages.length) (hroom : 1 ≤ s.ckFree) :
    ringWritten q s = (bindRing .close .close id (closeBlock r.sStart (s.epoch.getD 0) r.startPos r.pagesA r.pagesB r.pagesExt g
      r.captured s.work r.pages :: List.replicate 15 0) 1 (pageDone q.frame s)).modRun
        (fun r => { r with closeBound := true }) := by
  have hrun : (pageDone q.frame s).ck.run = some { r with pagesDone := r.pagesDone + 1 } := congrArg (Option.map _) hr
  rw [ringWritten_page hk]
  have hclose := bindClose_of_ready hrun hg hid hb hp hroom
  exact hclose

theorem pageDone_frame_free {s : State} {id : Nat} (hs : (s.frame id).state = .inUse) (hp : (s.frame id).pins = 0) :
    ((pageDone id s).frame id).state = .free := by
  have hid : id < s.pool.frames.length := by
    by_contra h
    rw [frame_of_ge h] at hs
    simp [Frame.free] at hs
  exact releaseFrame_free (s := unqueueRing id s) hid hs hp

theorem bindClose_ports (s : State) : (bindClose s).ports = s.ports := by
  unfold bindClose
  repeat' split
  all_goals rfl

/-- The close binds its own frame alone. -/
theorem bindClose_frame_ne {s : State} {k : Nat} (h : ∀ r, s.ck.run = some r → r.closeFrame ≠ some k) :
    (bindClose s).frame k = s.frame k := by
  unfold bindClose
  split
  · rename_i r _ hr _
    have hne := h r hr
    split
    · rfl
    · rename_i id hid
      split
      · exact (congrArg (fun u : State => u.frame k) rfl).trans
          (State.frame_modFrame_ne s _ (fun hk => hne (hk ▸ hid)))
      · rfl
  · rfl

theorem pageWritten_spec {s : State} {q : RingSeg} {r : CkRun} (hk : q.kind = .page) (hr : s.ck.run = some r) :
    let rest := s.ck.queue.filter (fun x => decide (x.frame ≠ q.frame))
    let r' : CkRun := { r with pagesDone := r.pagesDone + 1 }
    let u := ringWritten q s
    u.ports = s.ports ∧
    (r.closeFrame ≠ some q.frame → (s.frame q.frame).state = .inUse → (s.frame q.frame).pins = 0 →
      (u.frame q.frame).state = .free) ∧
    (∀ g id, s.geom = some g → r.closeFrame = some id → r.closeBound = false → r.pagesDone + 1 = r.pages.length →
      1 ≤ s.ckFree → id ≠ q.frame → id < s.pool.frames.length →
      let payload := closeBlock r.sStart (s.epoch.getD 0) r.startPos r.pagesA r.pagesB r.pagesExt g r.captured s.work r.pages ::
        List.replicate 15 0
      u.ck.run = some { r' with closeBound := true } ∧ u.ck.queue = rest ++ [⟨.close, id, s.ck.ringTail⟩] ∧
      u.ck.ringTail = s.ck.ringTail + 1 ∧ u.seq = some (s.seq.getD 0 + 1) ∧
      u.frame id = (s.frame id).boundAt (s.ckLoc s.ck.ringTail) payload 1 (s.seq.getD 0)
        ⟨.close, s.epoch.getD 0, s.seq.getD 0, s.ckLoc s.ck.ringTail, 0, [], 0, 1, checkWord (payloadFold payload) (s.seq.getD 0)⟩) ∧
    ((r.closeFrame = none ∨ r.pagesDone + 1 ≠ r.pages.length) →
      u.ck.run = some r' ∧ u.ck.queue = rest ∧ u.ck.ringTail = s.ck.ringTail ∧ u.seq = s.seq) := by
  intro rest r' u
  have hrun : (pageDone q.frame s).ck.run = some r' := congrArg (Option.map _) hr
  have hu : u = bindClose (pageDone q.frame s) := ringWritten_page hk s
  refine ⟨hu ▸ (bindClose_ports _).trans rfl, fun hne hs hp => ?_, fun g id hg hid hb hp hroom hne hlen => ?_, fun h => ?_⟩
  · rw [hu, bindClose_frame_ne]
    · exact pageDone_frame_free hs hp
    · intro x hx
      rw [hrun] at hx
      cases hx
      exact hne
  · have hcl := pageWritten_closes hk hr hg hid hb hp hroom
    generalize hv : pageDone q.frame s = v at hcl hrun
    have hlen' : id < v.pool.frames.length := by
      rw [← hv]
      simpa [pageDone, releaseFrame, unqueueRing, State.modRun, State.modCk, State.modFrame] using hlen
    have hframe := bindRing_frame .close .close (closeBlock r.sStart (s.epoch.getD 0) r.startPos r.pagesA r.pagesB r.pagesExt g
      r.captured s.work r.pages :: List.replicate 15 0) 1 hlen'
    have hsame : v.frame id = s.frame id := by
      rw [← hv]
      exact pageDone_frame_ne hne s
    rw [hsame] at hframe
    subst hv
    change u = _ at hcl
    rw [hcl]
    exact ⟨congrArg (Option.map _) hrun, rfl, rfl, rfl, hframe⟩
  · have hw : u = pageDone q.frame s := pageWritten_waits hk hr h
    rw [hw]
    exact ⟨hrun, rfl, rfl, rfl⟩

end Sys2Proof.Machine
end

section
/-! The completion of a checkpoint (O39, R159): the bands and rings it clears, and what stays so after it. -/

namespace Sys2Proof.Machine

/-! ## What the work around the completion leaves alone -/

/-- An exception of this kind stands for this actuator (R192). -/
def State.raised (s : State) (k : ExcKind) (a : Actuator) : Prop := ∃ x ∈ s.exceptions, x.kind = k ∧ x.act = a

/-- t came from s by work that leaves these alone: what g takes of the bands and rings, the lanes that wait, an absent job, the
cleared sequence, ring_start and the checkpoint's segment count; and that takes back no exception. -/
structure Closing {β : Type} (g : Two BandMgr → β) (s t : State) : Prop where
  bands : g t.bm = g s.bm
  lanes : t.stuckLanes = s.stuckLanes
  job : s.rc.job = none → t.rc.job = none
  writer : (t.cleared, t.ck.ringStart, t.ck.dComplete) = (s.cleared, s.ck.ringStart, s.ck.dComplete)
  raised : ∀ k a, s.raised k a → t.raised k a

section
variable {β : Type} {g : Two BandMgr → β}

theorem Closing.refl (s : State) : Closing g s s := ⟨rfl, rfl, id, rfl, fun _ _ h => h⟩

theorem Closing.trans {s t u : State} (h : Closing g s t) (k : Closing g t u) : Closing g s u :=
  ⟨k.bands.trans h.bands, k.lanes.trans h.lanes, fun x => k.job (h.job x), k.writer.trans h.writer,
    fun x a hx => k.raised x a (h.raised x a hx)⟩

/-- The fields that the relation speaks of. -/
def State.closingPart (s : State) :=
  (s.stuckLanes, s.rc.job, (s.cleared, s.ck.ringStart, s.ck.dComplete), s.exceptions)

theorem Closing.of_eq {s t : State} (hb : g t.bm = g s.bm) (h : t.closingPart = s.closingPart) : Closing g s t := by
  simp only [State.closingPart, Prod.mk.injEq] at h
  obtain ⟨hlanes, hjob, hwriter, hexc⟩ := h
  refine ⟨hb, hlanes, fun x => hjob.trans x, by simp [hwriter], fun k a hx => ?_⟩
  unfold State.raised at *
  rwa [hexc]

theorem Closing.forAny {α : Type} {f : State → α → State} (h : ∀ s x, Closing g s (f s x)) (l : List α) (s : State) :
    Closing g s (s.forAny l f) :=
  forAny_holds (P := Closing g s) (fun _ _ hu => hu.trans (.of_eq rfl rfl)) (fun u x hu => hu.trans (h u x)) l (.refl s)

theorem modLane_closing (s : State) (n : Nat) (f : Lane → Lane) (hf : ∀ c, (f c).state = c.state) : Closing g s (s.modLane n f) := by
  refine .of_eq rfl ?_
  simp only [State.closingPart, stuckLanes_congr (fun m => modLane_keeps Lane.state hf s n m)]
  rfl

theorem modFrame_closing (s : State) (id : Nat) (f : Frame → Frame) : Closing g s (s.modFrame id f) := .of_eq rfl rfl

theorem post_raised (k : ExcKind) (a : Actuator) (x y : Nat) (s : State) : (post k a x y s).raised k a := by
  obtain ⟨e, he, hk, ha, -⟩ := post_reports k a x y s
  exact ⟨e, he, hk, ha⟩

theorem post_closing (k : ExcKind) (a : Actuator) (x y : Nat) (s : State) : Closing g s (post k a x y s) := by
  refine ⟨rfl, rfl, id, rfl, fun j b ⟨e, he, hk, hb⟩ => ?_⟩
  unfold State.raised post postTo
  dsimp only
  split
  · refine ⟨_, List.mem_map.2 ⟨e, he, rfl⟩, ?_⟩
    split <;> exact ⟨hk, hb⟩
  · exact ⟨e, List.mem_append_left _ he, hk, hb⟩

theorem evalMapPressure_closing (s : State) : Closing g s (evalMapPressure s) := by
  unfold evalMapPressure
  repeat' split
  · exact .refl s
  · exact .refl s
  · exact Closing.trans (t := { s with mapPressure := true }) (.of_eq rfl rfl) (post_closing _ _ _ _ _)
  · exact .of_eq rfl rfl
  · exact .refl s

theorem evalBandPressure_closing (a : Actuator) (s : State) : Closing g s (evalBandPressure a s) := by
  unfold evalBandPressure
  repeat' split
  all_goals exact .of_eq rfl rfl

theorem evalLatch_closing (a : Actuator) (s : State) : Closing g s (evalLatch a s) := by
  unfold evalLatch
  dsimp only
  repeat' split
  all_goals exact .of_eq rfl rfl

theorem requestCk_closing (s : State) : Closing g s (requestCk s) := .of_eq rfl rfl

theorem testRingHalf_closing (s : State) : Closing g s (testRingHalf s) := by
  unfold testRingHalf
  split
  · exact requestCk_closing s
  · exact .refl s

theorem bindNotice_closing (s : State) : Closing g s (bindNotice s) := by
  unfold bindNotice
  repeat' split
  all_goals first
    | exact .refl s
    | (refine Closing.trans ?_ (testRingHalf_closing _)
       exact .of_eq rfl rfl)

theorem releaseHeld_closing (f : Option Nat) (s : State) : Closing g s (releaseHeld f s) := by
  obtain ⟨p, hp⟩ := releaseHeld_poolOnly f s
  rw [hp]
  exact .of_eq rfl rfl

/-! ### What follows the command -/

theorem joinQueue_closing (n id : Nat) (b : Bool) (s : State) : Closing g s (joinQueue n id b s) := by
  unfold joinQueue
  split
  · exact modLane_closing _ _ _ (fun _ => by exact rfl)
  · exact .refl s

theorem stampFrame_closing (n id : Nat) (s : State) : Closing g s (stampFrame n id s) := by
  unfold stampFrame
  dsimp only
  split <;> exact .of_eq rfl rfl

theorem sealFrame_closing (n id : Nat) (s : State) : Closing g s (sealFrame n id s) := by
  unfold sealFrame
  dsimp only
  have stamped := (modFrame_closing (g := g) s id
    (fun f => { f with payload := f.payload.take f.fill ++ List.replicate (16 - f.fill) 0 })).trans (stampFrame_closing n id _)
  split
  · exact stamped
  · exact stamped.trans (joinQueue_closing _ _ _ _)

theorem closeOpen_closing (n : Nat) (s : State) : Closing g s (closeOpen n s) := by
  unfold closeOpen closeFrame
  split
  · have left := modLane_closing (g := g) s n (fun c => { c with openFrame := none, idleTimer := none }) (fun _ => rfl)
    dsimp only
    split
    · exact left.trans (sealFrame_closing _ _ _)
    · exact left.trans (modFrame_closing _ _ _)
  · exact .refl s

theorem refuseHeads_closing (fuel : Nat) (s : State) : Closing g s (refuseHeads fuel s) := by
  induction fuel generalizing s with
  | zero => exact .refl s
  | succ fuel ih =>
    have refused : ∀ t, Closing g s (complete t .writeProtected 0 (popIntake s)) := fun t => .of_eq rfl rfl
    unfold refuseHeads
    repeat' split
    all_goals first
      | exact .refl s
      | exact (refused _).trans (ih _)

theorem assertGate_closing (s : State) : Closing g s (assertGate s) := by
  have asserted : Closing g s { s with gate := true } := .of_eq rfl rfl
  unfold assertGate refuseTurns
  dsimp only
  exact (asserted.trans (.forAny (fun u n => closeOpen_closing n u) _ _)).trans (refuseHeads_closing _ _)

theorem gateEdge_closing (s : State) : Closing g s (gateEdge s) := by
  unfold gateEdge
  repeat' split
  · exact .refl s
  · exact assertGate_closing s
  · refine ⟨rfl, rfl, fun h => ?_, rfl, fun _ _ h => h⟩
    simp [deassertGate, State.modJob, h]
  · exact .refl s

theorem refreshWaits_closing (s : State) : Closing g s (refreshWaits s) := .of_eq rfl rfl

theorem settleRound_closing {s : State} (hl : s.stuckLanes = []) (hj : s.rc.job = none) : Closing g s (settleRound s) := by
  have edge := gateEdge_closing (g := g) s
  rw [settleRound_of_still (edge.lanes.trans hl) (edge.job hj)]
  exact edge.trans (refreshWaits_closing _)

/-- With no lane waiting and no job, what follows a command leaves the completion's work alone. -/
theorem settle_closing {s : State} (hl : s.stuckLanes = []) (hj : s.rc.job = none) : Closing g s (settle s) := by
  have first := settleRound_closing (g := g) hl hj
  unfold settle
  dsimp only
  split
  · exact first
  · exact first.trans (settleRound_closing (first.lanes.trans hl) (first.job hj))

end

/-! ## The bands cleared (R54) -/

/-- The rings of both actuators. -/
def rings (m : Two BandMgr) := (m.a.ring, m.b.ring)

/-- The bands of both actuators. -/
def bandLists (m : Two BandMgr) := (m.a.bands, m.b.bands)

theorem bandRec_of_bandLists {s t : State} (h : bandLists t.bm = bandLists s.bm) (a : Actuator) (b : Nat) :
    t.bandRec a b = s.bandRec a b := by
  simp only [bandLists, Prod.mk.injEq] at h
  cases a <;> simp [State.bandRec, Two.get, h]

theorem ring_of_rings {s t : State} (h : rings t.bm = rings s.bm) (a : Actuator) : t.ring a = s.ring a := by
  simp only [rings, Prod.mk.injEq] at h
  cases a <;> simp [State.ring, Two.get, h]

/-- What the clearing makes of an evacuated band without pins below the cleared sequence (R54). -/
def Band.clearedRec (r : Band) : Band :=
  if r.health < 3 then { r with state := .blank, reserved := 0, written := 0, validAtSel := none, evacSeq := none }
  else { r with state := .retired, validAtSel := none, evacSeq := none }

theorem clearedRec_of_healthy {r : Band} (h : r.health < 3) : r.clearedRec.state = .blank ∧ r.clearedRec.written = 0 := by
  unfold Band.clearedRec
  rw [if_pos h]
  exact ⟨rfl, rfl⟩

theorem clearedRec_of_worn {r : Band} (h : 3 ≤ r.health) : r.clearedRec.state = .retired := by
  unfold Band.clearedRec
  rw [if_neg (by omega)]

/-- A band that a completed checkpoint clears (R54). -/
def State.clears (s : State) (a : Actuator) (b : Nat) : Prop :=
  (s.bandRec a b).state = .evacuated ∧ (s.bandRec a b).readPins = 0 ∧ (s.bandRec a b).evacSeq.getD 0 < s.cleared.getD 0

theorem testEvacuated_of_not {a : Actuator} {b : Nat} {s : State} (h : (s.bandRec a b).state ≠ .evacuated) :
    testEvacuated a b s = s := by
  unfold testEvacuated
  exact if_neg (fun hc => h hc.1)

theorem modBand_closing (s : State) (a : Actuator) (b : Nat) (f : Band → Band) : Closing rings s (s.modBand a b f) :=
  .of_eq (by cases a <;> rfl) rfl

theorem testEvacuated_closing (a : Actuator) (b : Nat) (s : State) : Closing rings s (testEvacuated a b s) := by
  unfold testEvacuated
  dsimp only
  repeat' split
  · exact (modBand_closing _ _ _ _).trans (evalBandPressure_closing _ _)
  · exact (modBand_closing _ _ _ _).trans (post_closing _ _ _ _ _)
  · exact .refl s

theorem bandRec_evalBandPressure (x a : Actuator) (b : Nat) (s : State) : (evalBandPressure x s).bandRec a b = s.bandRec a b :=
  bandRec_of_bandLists (evalBandPressure_closing (g := bandLists) x s).bands a b

theorem testEvacuated_other {a x : Actuator} {b y : Nat} (h : (x, y) ≠ (a, b)) (s : State) :
    (testEvacuated a b s).bandRec x y = s.bandRec x y := by
  unfold testEvacuated
  dsimp only
  repeat' split
  · rw [bandRec_evalBandPressure]
    exact bandRec_modBand_ne s a x b y _ h
  · exact bandRec_modBand_ne s a x b y _ h
  · rfl

/-- An evacuated band stands in its actuator's list. -/
theorem lt_of_evacuated {s : State} {a : Actuator} {b : Nat} (h : (s.bandRec a b).state = .evacuated) :
    b < (s.bm.get a).bands.length := by
  by_contra hb
  simp [State.bandRec, List.getD_eq_getElem?_getD, hb, Band.blank] at h

theorem testEvacuated_clears {s : State} {a : Actuator} {b : Nat} (h : s.clears a b) :
    (testEvacuated a b s).bandRec a b = (s.bandRec a b).clearedRec ∧
    (3 ≤ (s.bandRec a b).health → (testEvacuated a b s).raised .bandRetired a) := by
  have hb := lt_of_evacuated h.1
  unfold testEvacuated Band.clearedRec
  dsimp only
  rw [if_pos (by exact h)]
  split
  · rw [bandRec_evalBandPressure, bandRec_modBand_self hb]
    exact ⟨rfl, fun h3 => by omega⟩
  · refine ⟨?_, fun _ => post_raised _ _ _ _ _⟩
    exact bandRec_modBand_self hb _

theorem clearedRec_state (r : Band) : r.clearedRec.state ≠ .evacuated := by
  unfold Band.clearedRec
  split <;> simp

/-- The test of every evacuated band at a completion (R54, R159). -/
def testBands (s : State) : State := s.forAny s.evacuatedBands (fun s x => testEvacuated x.1 x.2 s)

theorem testBands_closing (s : State) : Closing rings s (testBands s) :=
  .forAny (f := fun (s : State) (x : Actuator × Nat) => testEvacuated x.1 x.2 s) (fun u x => testEvacuated_closing x.1 x.2 u) _ s

theorem mem_evacuatedBands {s : State} {a : Actuator} {b : Nat} (h : (s.bandRec a b).state = .evacuated) :
    (a, b) ∈ s.evacuatedBands := by
  have hb := lt_of_evacuated h
  cases a <;> simp [State.evacuatedBands, hb, h]

/-- A band in another state than EVACUATED is left alone. -/
theorem testBands_other {s : State} {a : Actuator} {b : Nat} (h : (s.bandRec a b).state ≠ .evacuated) :
    (testBands s).bandRec a b = s.bandRec a b := by
  refine forAny_holds (P := fun u => u.bandRec a b = s.bandRec a b) (fun u n hu => hu) (fun u x hu => ?_) _ rfl
  by_cases hx : (a, b) = x
  · subst hx
    rw [testEvacuated_of_not (by rw [hu]; exact h)]
    exact hu
  · exact (testEvacuated_other hx u).trans hu

/-- Each evacuated band without pins below the cleared sequence is cleared, whatever the order. -/
theorem testBands_clears {s : State} {a : Actuator} {b : Nat} (h : s.clears a b) :
    (testBands s).bandRec a b = (s.bandRec a b).clearedRec ∧
    (3 ≤ (s.bandRec a b).health → (testBands s).raised .bandRetired a) := by
  refine forAny_reaches (before := fun u => u.bandRec a b = s.bandRec a b ∧ u.cleared = s.cleared)
    (after := fun u => u.bandRec a b = (s.bandRec a b).clearedRec ∧ (3 ≤ (s.bandRec a b).health → u.raised .bandRetired a))
    (mem_evacuatedBands h.1) ⟨rfl, rfl⟩ (fun u n hu => hu) (fun u hu => ?_) (fun u y hy hu => ?_) (fun u y hu => ?_)
  · have hclears : u.clears a b := by
      unfold State.clears
      rw [hu.1, hu.2]
      exact h
    have := testEvacuated_clears hclears
    rwa [hu.1] at this
  · have hwriter := (testEvacuated_closing y.1 y.2 u).writer
    simp only [Prod.mk.injEq] at hwriter
    exact ⟨(testEvacuated_other (Ne.symm hy) u).trans hu.1, hwriter.1.trans hu.2⟩
  · refine ⟨?_, fun h3 => (testEvacuated_closing y.1 y.2 u).raised _ _ (hu.2 h3)⟩
    by_cases hy : (a, b) = y
    · subst hy
      rw [testEvacuated_of_not (by rw [hu.1]; exact clearedRec_state _)]
      exact hu.1
    · exact (testEvacuated_other hy u).trans hu.1

/-! ## The rings released (R62) -/

theorem modRing_closing (s : State) (a : Actuator) (f : Ring → Ring) : Closing bandLists s (s.modRing a f) :=
  .of_eq (by cases a <;> rfl) rfl

theorem releaseRing_closing (a : Actuator) (c : Nat) (s : State) : Closing bandLists s (releaseRing a c s) := by
  unfold releaseRing advanceFree
  exact ((modRing_closing _ _ _).trans (modRing_closing _ _ _)).trans (evalLatch_closing _ _)

theorem releaseRing_freeTarget (a : Actuator) (c : Nat) (s : State) :
    ((releaseRing a c s).ring a).freeTarget = max (s.ring a).freeTarget c := by
  rw [releaseRing, advanceFree_ring, State.ring_modRing]

theorem releaseRing_other (a : Actuator) (c : Nat) (s : State) : (releaseRing a c s).ring (other a) = s.ring (other a) := by
  rw [releaseRing, advanceFree_ring_other]
  cases a <;> rfl

/-- Both rings' free targets rise to the captured migrate_head (R62). -/
def releaseRings (c : Two Captured) (s : State) : State := releaseRing .B c.b.migrateHead (releaseRing .A c.a.migrateHead s)

theorem releaseRings_closing (c : Two Captured) (s : State) : Closing bandLists s (releaseRings c s) :=
  (releaseRing_closing _ _ _).trans (releaseRing_closing _ _ _)

theorem releaseRings_freeTarget (c : Two Captured) (a : Actuator) (s : State) :
    ((releaseRings c s).ring a).freeTarget = max (s.ring a).freeTarget (c.get a).migrateHead := by
  cases a
  · rw [releaseRings, show Actuator.A = other .B from rfl, releaseRing_other]
    exact releaseRing_freeTarget _ _ _
  · rw [releaseRings, releaseRing_freeTarget, show Actuator.B = other .A from rfl, releaseRing_other]
    rfl

end Sys2Proof.Machine
end

section
/-! SEGMENT_WRITE_RESULT DONE for a page and for the close of a checkpoint (O39). -/

namespace Sys2Proof.Machine

/-! ## The completion, step by step (R159) -/

/-- The cleared sequence, ring_start and the segment count at the completion. -/
def clearUpTo (r : CkRun) (s : State) : State :=
  { s.modCk (fun c => { c with ringStart := r.startPos, dComplete := c.dStart }) with cleared := some r.sStart }

/-- The run ended, the bands pending tested, and the CHECKPOINT command answered. -/
def endOfRun (r : CkRun) (s : State) : State :=
  answerCheckpoint r ((releaseHeld r.closeFrame (settlePendingBlank r s)).modCk (fun c => { c with run := none }))

/-- A part FORMATTING becomes READY (R176). -/
def becomeReady (s : State) : State :=
  if s.service = .formatting then enterReady (s.modCk (fun c => { c with formatTries := none })) else s

theorem completeCheckpoint_eq {s : State} {r : CkRun} (hr : s.ck.run = some r) : completeCheckpoint s =
    testRingHalf (bindNotice (becomeReady (endOfRun r (releaseRings r.captured (testBands (clearUpTo r s)))))) := by
  unfold completeCheckpoint
  rw [hr]
  rfl

section
variable {β : Type} {g : Two BandMgr → β}

theorem settlePendingBlank_closing (r : CkRun) (s : State) : Closing g s (settlePendingBlank r s) := by
  unfold settlePendingBlank
  dsimp only
  have kept : Closing g s (s.modCk (fun c => { c with pendingBlank := c.pendingBlank.filter (fun p => decide (r.sStart ≤ p.2.2)) })) :=
    .of_eq rfl rfl
  split
  · exact kept.trans (requestCk_closing _)
  · exact kept

theorem answerCheckpoint_closing (r : CkRun) (s : State) : Closing g s (answerCheckpoint r s) := by
  unfold answerCheckpoint
  split
  · exact .of_eq rfl rfl
  · exact .refl s

theorem endOfRun_closing (r : CkRun) (s : State) : Closing g s (endOfRun r s) := by
  have ended : ∀ u : State, Closing g u (u.modCk (fun c => { c with run := none })) := fun _ => .of_eq rfl rfl
  exact (((settlePendingBlank_closing r s).trans (releaseHeld_closing _ _)).trans (ended _)).trans (answerCheckpoint_closing r _)

theorem enterReady_closing (s : State) : Closing g s (enterReady s) := by
  have idle : Closing g s { s with service := .ready, rc := { s.rc with idleClock := some s.now, idleExpired := false } } :=
    .of_eq rfl rfl
  unfold enterReady
  dsimp only
  exact ((idle.trans (evalMapPressure_closing _)).trans (evalBandPressure_closing _ _)).trans (evalBandPressure_closing _ _)

theorem becomeReady_closing (s : State) : Closing g s (becomeReady s) := by
  have tries : Closing g s (s.modCk (fun c => { c with formatTries := none })) := .of_eq rfl rfl
  unfold becomeReady
  split
  · exact tries.trans (enterReady_closing _)
  · exact .refl s

end

/-! ### The run, its command and the service state at the end -/

/-- The service state, the run and the maintenance answer. -/
def State.answerPart (s : State) := (s.service, s.ck.run, s.maint)

theorem answerPart_of_inner {s t : State} (h : Inner s t) : t.answerPart = s.answerPart := by
  have hpart := h.writerPart
  simp only [State.writerPart, Prod.mk.injEq] at hpart
  simp [State.answerPart, hpart]

theorem enterReady_answerPart (s : State) : (enterReady s).answerPart = (.ready, s.ck.run, s.maint) := by
  unfold enterReady
  dsimp only
  exact (answerPart_of_inner (((evalMapPressure_inner _).trans (evalBandPressure_inner _ _)).trans
    (evalBandPressure_inner _ _))).trans rfl

theorem becomeReady_answerPart (s : State) : (becomeReady s).answerPart =
    (if s.service = .formatting then .ready else s.service, s.ck.run, s.maint) := by
  unfold becomeReady
  split
  · exact (enterReady_answerPart _).trans rfl
  · rfl

theorem testRingHalf_answerPart (s : State) : (testRingHalf s).answerPart = s.answerPart := by
  unfold testRingHalf
  split <;> rfl

theorem bindNotice_answerPart {s : State} (h : s.ck.run = none) : (bindNotice s).answerPart = s.answerPart := by
  unfold bindNotice
  repeat' split
  all_goals first
    | rfl
    | (refine (testRingHalf_answerPart _).trans ?_
       simp [State.answerPart, State.modRun, State.modCk, bindRing, assignSeq, State.modFrame, h])

theorem endOfRun_answerPart (r : CkRun) (s : State) : (endOfRun r s).answerPart = (s.service, none,
    if r.answers then { s.maint with busy := false, awaitStart := false, status := .good, payload := leBytes 6 r.sStart }
    else s.maint) := by
  have settled : (releaseHeld r.closeFrame (settlePendingBlank r s)).answerPart = s.answerPart := by
    rw [answerPart_of_inner (releaseHeld_inner _ _)]
    unfold settlePendingBlank
    dsimp only
    split <;> rfl
  simp only [State.answerPart, Prod.mk.injEq] at settled
  obtain ⟨hservice, -, hmaint⟩ := settled
  rw [← hservice, ← hmaint]
  unfold endOfRun answerCheckpoint
  split <;> rfl

/-- Testing the bands and releasing the rings leaves the service state alone. -/
theorem released_service (r : CkRun) (s : State) : (releaseRings r.captured (testBands (clearUpTo r s))).service = s.service := by
  have bands : Inner (clearUpTo r s) (testBands (clearUpTo r s)) :=
    Inner.forAny (f := fun (s : State) (x : Actuator × Nat) => testEvacuated x.1 x.2 s)
      (fun u x => testEvacuated_inner x.1 x.2 u) _ _
  have ring : ∀ a c u, Inner u (releaseRing a c u) := fun a c u => (modRing_inner u a _).trans (advanceFree_inner a _)
  have all : Inner (clearUpTo r s) (releaseRings r.captured (testBands (clearUpTo r s))) :=
    bands.trans ((ring _ _ _).trans (ring _ _ _))
  have same := answerPart_of_inner all
  simp only [State.answerPart, Prod.mk.injEq] at same
  exact same.1

/-! ### The completion as a whole -/

section
variable {s : State} {r : CkRun} (hr : s.ck.run = some r)
include hr

/-- From the cleared rings on the completion leaves alone what `Closing` speaks of. -/
theorem completeCheckpoint_closing {β : Type} (g : Two BandMgr → β) :
    Closing g (releaseRings r.captured (testBands (clearUpTo r s))) (completeCheckpoint s) := by
  rw [completeCheckpoint_eq hr]
  exact ((endOfRun_closing r _).trans (becomeReady_closing _)).trans ((bindNotice_closing _).trans (testRingHalf_closing _))

/-- The completion ends the run, answers the command and leaves FORMATTING (R159, R176, R189). -/
theorem completeCheckpoint_answers : (completeCheckpoint s).ck.run = none ∧
    (r.answers = true → (completeCheckpoint s).maint.status = .good ∧
      (completeCheckpoint s).maint.payload = leBytes 6 r.sStart ∧ (completeCheckpoint s).maint.busy = false) ∧
    (s.service = .formatting → (completeCheckpoint s).service = .ready) := by
  have hservice := released_service r s
  rw [completeCheckpoint_eq hr]
  generalize releaseRings r.captured (testBands (clearUpTo r s)) = t at hservice
  have ended := endOfRun_answerPart r t
  have ready := becomeReady_answerPart (endOfRun r t)
  simp only [State.answerPart, Prod.mk.injEq] at ended ready
  obtain ⟨eservice, erun, emaint⟩ := ended
  obtain ⟨rservice, rrun, rmaint⟩ := ready
  have bound := (testRingHalf_answerPart (bindNotice (becomeReady (endOfRun r t)))).trans
    (bindNotice_answerPart (rrun.trans erun))
  simp only [State.answerPart, Prod.mk.injEq] at bound
  obtain ⟨bservice, brun, bmaint⟩ := bound
  refine ⟨brun.trans (rrun.trans erun), fun h => ?_, fun h => ?_⟩
  · rw [bmaint, rmaint, emaint, if_pos h]
    exact ⟨rfl, rfl, rfl⟩
  · rw [bservice, rservice, eservice, hservice, if_pos h]

/-- The bands, rings and counters after the completion (R54, R62, R159). -/
theorem completeCheckpoint_clears :
    let t := completeCheckpoint s
    (t.cleared = some r.sStart ∧ t.ck.ringStart = r.startPos ∧ t.ck.dComplete = s.ck.dStart) ∧
    (∀ a b, (s.bandRec a b).state = .evacuated → (s.bandRec a b).readPins = 0 → (s.bandRec a b).evacSeq.getD 0 < r.sStart →
      t.bandRec a b = (s.bandRec a b).clearedRec ∧ (3 ≤ (s.bandRec a b).health → t.raised .bandRetired a)) ∧
    (∀ a b, (s.bandRec a b).state ≠ .evacuated → t.bandRec a b = s.bandRec a b) ∧
    (∀ a, (t.ring a).freeTarget = max (s.ring a).freeTarget (r.captured.get a).migrateHead) ∧
    t.stuckLanes = s.stuckLanes ∧ (s.rc.job = none → t.rc.job = none) := by
  intro t
  have bands := testBands_closing (clearUpTo r s)
  have released := releaseRings_closing r.captured (testBands (clearUpTo r s))
  have afterBands := released.trans (completeCheckpoint_closing hr bandLists)
  have hband := bandRec_of_bandLists afterBands.bands
  refine ⟨?_, fun a b he hp hs => ?_, fun a b he => ?_, fun a => ?_, afterBands.lanes.trans bands.lanes,
    fun h => afterBands.job (bands.job h)⟩
  · have hw := afterBands.writer.trans bands.writer
    simp only [Prod.mk.injEq] at hw
    exact hw
  · obtain ⟨hrec, hret⟩ := testBands_clears (s := clearUpTo r s) (a := a) (b := b) ⟨he, hp, hs⟩
    exact ⟨(hband a b).trans hrec, fun h => afterBands.raised _ _ (hret h)⟩
  · exact (hband a b).trans (testBands_other (s := clearUpTo r s) he)
  · rw [ring_of_rings (completeCheckpoint_closing hr rings).bands, releaseRings_freeTarget, ring_of_rings bands.bands]
    rfl

end

theorem ringWritten_close {q : RingSeg} (h : q.kind = .close) (s : State) :
    ringWritten q s = completeCheckpoint (unqueueRing q.frame s) := by
  unfold ringWritten
  rw [h]

/-- Settles O39: a page by `pageWritten_spec`, the close by `completeCheckpoint_clears` and `completeCheckpoint_answers`, which
`settle_closing` carries behind the command. -/
theorem checkpointCompletionClears : Obligations.CheckpointCompletionClears := by
  refine ⟨fun s issue o q r hw hk hreq hf hq hkind hr => ?_, fun s issue o q r hw hk hreq hf hq hkind hr hlanes hjob => ?_⟩
  · intro rest r'
    have hr' : (endOp .A s).ck.run = some r := hr
    obtain ⟨hports, hfree, hclose, hwait⟩ := pageWritten_spec hkind hr'
    exact ⟨_, exec_ringWritten hw hk hreq hf hq, by rw [port_of_ports hports, endOp_port], hfree, hclose, hwait⟩
  · refine ⟨_, exec_ringWritten hw hk hreq hf hq, ?_⟩
    rw [ringWritten_close hkind]
    generalize hu : unqueueRing q.frame (endOp .A s) = u
    have hrun : u.ck.run = some r := by rw [← hu]; exact hr
    obtain ⟨⟨hcleared, hstart, hcount⟩, hevac, hother, htarget, hstuck, hnojob⟩ := completeCheckpoint_clears hrun
    obtain ⟨hnone, hans, hready⟩ := completeCheckpoint_answers hrun
    have hl : (completeCheckpoint u).stuckLanes = [] := hstuck.trans (by rw [← hu]; exact hlanes)
    have hj : (completeCheckpoint u).rc.job = none := hnojob (by rw [← hu]; exact hjob)
    have later := settle_closing (g := id) hl hj
    have hpart := settle_writerPart (completeCheckpoint u)
    simp only [State.writerPart, Prod.mk.injEq] at hpart
    obtain ⟨-, hservice, -, hmaint, -, -, -, -, -, hsettled⟩ := hpart
    have hwriter := later.writer
    simp only [Prod.mk.injEq] at hwriter
    have hband : ∀ a b, (settle (completeCheckpoint u)).bandRec a b = (completeCheckpoint u).bandRec a b := fun a b =>
      bandRec_of_bandLists (congrArg bandLists later.bands) a b
    have hring : ∀ a, (settle (completeCheckpoint u)).ring a = (completeCheckpoint u).ring a := fun a =>
      ring_of_rings (congrArg rings later.bands) a
    subst hu
    refine ⟨hwriter.1.trans hcleared, hwriter.2.1.trans hstart, hsettled.trans hnone, hwriter.2.2.trans hcount,
      fun a b he hp hs => ?_, fun a b he => (hband a b).trans (hother a b he), fun a => ?_, fun h => ?_, fun h => ?_⟩
    · obtain ⟨hrec, hret⟩ := hevac a b he hp hs
      rw [hband, hrec]
      exact ⟨clearedRec_of_healthy, fun h3 => ⟨clearedRec_of_worn h3, later.raised _ _ (hret h3)⟩⟩
    · rw [hring]
      exact htarget a
    · rw [hmaint]
      exact hans h
    · rw [hservice]
      exact hready h

end Sys2Proof.Machine
end

section
/-! The tables keep their sizes and the ports their records at every step (O7). -/

namespace Sys2Proof.Machine

theorem sizesOk_resetPart (straps : Straps) (wprot : Bool) (s : State) : SizesOk (resetPart straps wprot s) :=
  ⟨List.length_replicate, List.length_replicate, List.length_replicate⟩

theorem portsOk_resetPart (straps : Straps) (wprot : Bool) (s : State) : PortsOk (resetPart straps wprot s) := by
  simp [PortsOk, PortOk, resetPart, State.afterReset, Two.both, Port.fresh]

/-- Every command keeps the sizes of the tables and the ports' records: one that is no reset by `Kept`, a reset because it
makes the tables and the ports anew (R163). -/
theorem exec_sizesOk_portsOk {c : Instr} {s t : State} (h : exec c s = .next t) (hs : SizesOk s) (hp : PortsOk s) :
    SizesOk t ∧ PortsOk t := by
  obtain ⟨u, hu, hk⟩ := exec_kept c s
  obtain rfl : u = t := by
    rw [hu] at h
    exact Host.Outcome.next.inj h
  rcases hk with ⟨b, hk⟩ | ⟨straps, wprot, rfl⟩ | rfl | ⟨straps, rfl⟩
  · exact ⟨hk.sizes hs, hk.ports hp⟩
  · exact ⟨sizesOk_resetPart straps wprot s, portsOk_resetPart straps wprot s⟩
  · exact ⟨sizesOk_resetPart s.straps s.wprot s, portsOk_resetPart s.straps s.wprot s⟩
  · exact ⟨hs, hp⟩

/-- Settles O7: a step is a command (`exec_sizesOk_portsOk`) or a tick of the clock, which no table sees. -/
theorem tableSizesAlways : Obligations.TableSizesAlways := by
  intro s t hs hp hstep
  unfold step at hstep
  split at hstep
  · rename_i c rest _
    exact exec_sizesOk_portsOk (s := { s with pending := rest }) hstep hs hp
  · cases hstep
    exact ⟨hs, hp⟩

end Sys2Proof.Machine
end

section
/-! What the work that follows a command does to a lane of 0..6: nothing but for that lane's own retry and the close of its open
frame (R43, R82, R86). -/

namespace Sys2Proof.Machine

/-! ## Work that no lane sees -/

theorem forAny_lanes {α : Type} {f : State → α → State} (h : ∀ s x, (f s x).lanes = s.lanes) (l : List α) (s : State) :
    (s.forAny l f).lanes = s.lanes :=
  forAny_keeps (g := State.lanes) (fun _ _ => rfl) h l s

theorem foldl_lanes {α : Type} {f : State → α → State} (h : ∀ s x, (f s x).lanes = s.lanes) (l : List α) (s : State) :
    (l.foldl f s).lanes = s.lanes :=
  foldl_holds (P := fun u => u.lanes = s.lanes) (fun u x hu => (h u x).trans hu) l rfl

theorem lane_of_lanes {s t : State} (h : t.lanes = s.lanes) (m : Nat) : t.lane m = s.lane m := by
  simp [State.lane, h]

theorem releaseFrame_lanes (id : Nat) (s : State) : (releaseFrame id s).lanes = s.lanes := rfl

theorem releaseHeld_lanes (f : Option Nat) (s : State) : (releaseHeld f s).lanes = s.lanes := by
  cases f <;> rfl

theorem grantFrame_lanes {r : Requester} {s t : State} {id : Nat} (h : grantFrame r s = some (id, t)) : t.lanes = s.lanes := by
  unfold grantFrame at h
  split at h
  · cases h
  · cases h
    rfl

theorem requestFrame_lanes (r : Requester) (s : State) : (requestFrame r s).2.lanes = s.lanes := by
  have granted := @grantFrame_lanes r s
  grind [requestFrame]

theorem evalMapPressure_lanes (s : State) : (evalMapPressure s).lanes = s.lanes := by
  unfold evalMapPressure
  repeat' split
  all_goals rfl

theorem evalBandPressure_lanes (a : Actuator) (s : State) : (evalBandPressure a s).lanes = s.lanes := by
  unfold evalBandPressure
  repeat' split
  all_goals rfl

theorem countDataSegment_lanes (s : State) : (countDataSegment s).lanes = s.lanes := by
  unfold countDataSegment
  dsimp only
  split <;> rfl

theorem allocate_lanes (n : Nat) (a : Actuator) (s : State) : (allocate n a s).2.lanes = s.lanes := by
  unfold allocate
  repeat' split
  all_goals first
    | rfl
    | exact evalBandPressure_lanes _ _

theorem reserveSegment_lanes (n : Nat) (a : Actuator) (b : Nat) (s : State) : (reserveSegment n a b s).2.lanes = s.lanes := by
  unfold reserveSegment
  dsimp only
  split <;> rfl

theorem giveUpBand_lanes (n : Nat) (a : Actuator) (b : Nat) (s : State) : (giveUpBand n a b s).lanes = s.lanes := by
  unfold giveUpBand
  dsimp only
  repeat' split
  all_goals rfl

theorem leaveBand_lanes (l : SegLoc) (s : State) : (leaveBand l s).lanes = s.lanes := by
  unfold leaveBand
  split <;> rfl

theorem cacheSlot_lanes (a : Actuator) (s : State) : (cacheSlot a s).2.lanes = s.lanes := by
  unfold cacheSlot evalLatch
  dsimp only
  repeat' split
  all_goals rfl

theorem ringSegment_lanes (s : State) : (ringSegment s).2.lanes = s.lanes := by
  have slot := fun a => cacheSlot_lanes a s
  grind [ringSegment]

theorem checkComplete_lanes (t : Nat) (s : State) : (checkComplete t s).lanes = s.lanes := by
  unfold checkComplete completeWrite completeFlush
  repeat' split
  all_goals rfl

theorem wakeWaiters_lanes (l : List Nat) (s : State) : (wakeWaiters l s).lanes = s.lanes :=
  forAny_lanes (fun s t => checkComplete_lanes t s) l s

theorem tellLost_lanes (id : Nat) (l : List Nat) (s : State) : (tellLost id l s).lanes = s.lanes :=
  foldl_lanes (fun _ _ => by exact rfl) _ s

theorem refuseHeads_lanes (fuel : Nat) (s : State) : (refuseHeads fuel s).lanes = s.lanes := by
  induction fuel generalizing s with
  | zero => rfl
  | succ fuel ih =>
    unfold refuseHeads
    repeat' split
    all_goals first
      | rfl
      | exact (ih _).trans rfl

theorem dropAheadWhere_lanes (p : ReadEntry → Bool) (s : State) : (dropAheadWhere p s).lanes = s.lanes := by
  have deleted : ∀ (u : State) l, (deleteEntry l u).lanes = u.lanes := fun u l => by
    unfold deleteEntry
    split
    · rfl
    · exact releaseHeld_lanes _ _
  refine foldl_lanes (fun u l => ?_) _ s
  unfold dropAhead
  repeat' split
  · rfl
  · rfl
  · exact deleted _ _

theorem dropSource_lanes (s : State) (e : SourceRead) : (dropSource s e).lanes = s.lanes := by
  unfold dropSource
  split
  · rfl
  · exact releaseHeld_lanes _ _

theorem countRecord_lanes (s : State) (e : Extent) : (countRecord s e).lanes = s.lanes := by
  unfold countRecord
  split <;> rfl

theorem uncountRecord_lanes (s : State) (e : Extent) : (uncountRecord s e).lanes = s.lanes := by
  unfold uncountRecord
  split <;> rfl

theorem tellRecord_lanes (e : Extent) (s : State) : (tellRecord e s).lanes = s.lanes := by
  unfold tellRecord
  split
  · rfl
  · refine foldl_lanes (fun u id => ?_) _ s
    repeat' split
    · exact tellLost_lanes _ _ _
    · rfl
    · rfl

theorem reportConverted_lanes (s : State) (e : Extent) : (reportConverted s e).lanes = s.lanes :=
  (tellRecord_lanes e _).trans rfl

/-! ## The reclaim engine beside lane 7 -/

theorem beginPass_lanes (s : State) : (beginPass s).lanes = s.lanes := by
  unfold beginPass beginBandPass beginCachePass
  dsimp only
  repeat' split
  all_goals rfl

theorem deleteSource_lanes (l : SegLoc) (s : State) : (deleteSource l s).lanes = s.lanes := by
  unfold deleteSource
  split
  · rfl
  · exact releaseHeld_lanes _ _

theorem tidySource_lanes (l : SegLoc) (s : State) : (tidySource l s).lanes = s.lanes := by
  unfold tidySource
  repeat' split
  · exact deleteSource_lanes _ _
  · rfl
  · rfl

theorem makeSource_lanes {s t : State} (h : makeSource s = some t) : t.lanes = s.lanes := by
  have asked := fun r u => requestFrame_lanes r u
  have dead := fun p (u : State) => show (resolveMoves .dead p u).lanes = u.lanes from rfl
  have granted := fun l id (u : State) => show (grantSource l id u).lanes = u.lanes from rfl
  grind [makeSource]

end Sys2Proof.Machine
end

section
/-! What the retries of the waiting lanes and the reclaim job do to a lane of 0..6. -/

namespace Sys2Proof.Machine

/-! ## Another lane's frames -/

theorem lane_modLane_ne {n m : Nat} (h : n ≠ m) (s : State) (f : Lane → Lane) : (s.modLane n f).lane m = s.lane m := by
  simp [State.lane, State.modLane, List.getD_eq_getElem?_getD, h]

theorem joinQueue_lane_ne {n m : Nat} (h : n ≠ m) (id : Nat) (b : Bool) (s : State) :
    (joinQueue n id b s).lane m = s.lane m := by
  unfold joinQueue
  split
  · exact lane_modLane_ne h _ _
  · rfl

/-- The frame with zeros in its unfilled slots (R76 step 1). -/
def padFrame (id : Nat) (s : State) : State :=
  s.modFrame id (fun f => { f with payload := f.payload.take f.fill ++ List.replicate (16 - f.fill) 0 })

/-- The close of a frame, step by step (R76): padded, stamped, and queued unless it waits on the rebind list. -/
theorem sealFrame_eq (n id : Nat) (s : State) : sealFrame n id s =
    let t := stampFrame n id (padFrame id s)
    if (s.lane n).rebind.contains id then t else joinQueue n id false t := by
  have same : (stampFrame n id (padFrame id s)).lane n = s.lane n := lane_of_lanes (stampFrame_lanes n id (padFrame id s)) n
  rw [← same]
  rfl

theorem sealFrame_lane_ne {n m : Nat} (h : n ≠ m) (id : Nat) (s : State) : (sealFrame n id s).lane m = s.lane m := by
  have stamped : (stampFrame n id (padFrame id s)).lane m = s.lane m := lane_of_lanes (stampFrame_lanes n id (padFrame id s)) m
  rw [sealFrame_eq]
  dsimp only
  split
  · exact stamped
  · exact (joinQueue_lane_ne h _ _ _).trans stamped

theorem closeFrame_lane_ne {n m : Nat} (h : n ≠ m) (id : Nat) (s : State) : (closeFrame n id s).lane m = s.lane m := by
  unfold closeFrame
  dsimp only
  split
  · exact (sealFrame_lane_ne h _ _).trans (lane_modLane_ne h _ _)
  · exact Eq.trans (by rfl) (lane_modLane_ne h s _)

theorem closeOpen_lane_ne {n m : Nat} (h : n ≠ m) (s : State) : (closeOpen n s).lane m = s.lane m := by
  unfold closeOpen
  split
  · exact closeFrame_lane_ne h _ _
  · rfl

theorem giveUpLaneBand_lane_ne {n m : Nat} (h : n ≠ m) (s : State) : (giveUpLaneBand n s).lane m = s.lane m := by
  unfold giveUpLaneBand
  split
  · exact (lane_modLane_ne h _ _).trans (lane_of_lanes (giveUpBand_lanes _ _ _ _) m)
  · rfl

theorem dropRequest_lane_ne {n m : Nat} (h : n ≠ m) (s : State) : (dropRequest n s).lane m = s.lane m := by
  unfold dropRequest
  dsimp only
  split
  · exact (lane_of_lanes (releaseFrame_lanes _ _) m).trans (lane_modLane_ne h _ _)
  · rfl

/-! ## The end of a job and the extent map, beside lane 7 -/

section
variable {m : Nat} (h : 7 ≠ m)
include h

theorem endLaneSeven_lane (s : State) : (endLaneSeven s).lane m = s.lane m := by
  have gaveUp : (giveUpLaneBand 7 (closeOpen 7 (dropRequest 7 s))).lane m = s.lane m := by
    rw [giveUpLaneBand_lane_ne h, closeOpen_lane_ne h, dropRequest_lane_ne h]
  unfold endLaneSeven
  dsimp only
  split <;> exact (lane_modLane_ne h _ _).trans gaveUp

theorem endJob_lane (s : State) : (endJob s).lane m = s.lane m := by
  have cleared : ∀ u : State, ({ u with rc := { u.rc with job := none } } : State).lane m = u.lane m := fun _ => rfl
  rw [endJob, cleared, endLaneSeven_lane h]
  exact lane_of_lanes (foldl_lanes dropSource_lanes _ s) m

theorem evacuate_lane (a : Actuator) (b : Nat) (s : State) : (evacuate a b s).lane m = s.lane m := by
  have dropped : ∀ q x p, (dropAheadWhere p (returnCredit a x (s.modBand a b
      (fun r => { r with state := .evacuated, evacSeq := some q, closeSeq := none })))).lane m = s.lane m := fun q x p => by
    rw [lane_of_lanes (dropAheadWhere_lanes _ _)]
    unfold returnCredit
    split <;> rfl
  unfold evacuate
  dsimp only
  repeat' split
  · exact (endJob_lane h _).trans (dropped _ _ _)
  · exact dropped _ _ _
  · exact dropped _ _ _

theorem testEmptied_lane (s : State) (x : Actuator × Nat) : (testEmptied s x).lane m = s.lane m := by
  unfold testEmptied
  dsimp only
  split
  · exact evacuate_lane h _ _ _
  · rfl

theorem commitTable_lane (t : List Extent) (s : State) : (commitTable t s).lane m = s.lane m := by
  unfold commitTable
  dsimp only
  split
  · rfl
  · refine (lane_of_lanes (evalMapPressure_lanes _) m).trans ?_
    refine foldl_holds (P := fun u => u.lane m = s.lane m) (fun u x hu => (testEmptied_lane h u x).trans hu) _ ?_
    exact lane_of_lanes ((foldl_lanes uncountRecord_lanes _ _).trans (foldl_lanes countRecord_lanes _ _)) m

theorem exhaust_lane (lba : Nat) (s : State) : (exhaust lba s).lane m = s.lane m := by
  unfold exhaust
  split
  · exact (lane_of_lanes (reportConverted_lanes _ _) m).trans (commitTable_lane h _ _)
  · rfl

theorem place_lane (lba : Nat) (loc : Loc) (s : State) : (place lba loc s).2.lane m = s.lane m := by
  unfold place
  split
  · exact commitTable_lane h _ _
  · exact exhaust_lane h _ _

theorem makeLostEach_lane (l : List (List (Nat × Loc))) (s : State) : (makeLostEach l s).2.lane m = s.lane m := by
  have once : ∀ b (u : State), (makeLost b u).2.lane m = u.lane m := fun b u =>
    (lane_of_lanes (foldl_lanes reportConverted_lanes _ _) m).trans (commitTable_lane h _ u)
  induction l generalizing s with
  | nil => rfl
  | cons b l ih => exact (ih _).trans (once b s)

theorem loseFrame_lane (id : Nat) (f : Frame) (l : SegLoc) (s : State) : (loseFrame id f l s).lane m = s.lane m := by
  unfold loseFrame
  dsimp only
  rw [lane_of_lanes (tellLost_lanes _ _ _), ← makeLostEach_lane h (f.runs.map (fun r => lossRange r.start r.len (l.at r.first))) s]
  split <;> rfl

end

/-! ## A lane's own retries -/

/-- What a lane's retries leave alone: its open frame, and whether CLOSE_LANES has reached it (R80). -/
def Lane.face (c : Lane) := (c.openFrame, c.giveUpLater)

/-- t came from s by a retry of lane n, as the lanes of 0..6 see it: nothing at all but for lane n itself, and its face alone. -/
structure Spares (n : Nat) (s t : State) : Prop where
  other : ∀ m, 7 ≠ m → n ≠ m → t.lane m = s.lane m
  face : ∀ m, 7 ≠ m → (t.lane m).face = (s.lane m).face

theorem Spares.of_lane {n : Nat} {s t : State} (h : ∀ m, 7 ≠ m → t.lane m = s.lane m) : Spares n s t :=
  ⟨fun m hm _ => h m hm, fun m hm => by rw [h m hm]⟩

theorem Spares.of_lanes {n : Nat} {s t : State} (h : t.lanes = s.lanes) : Spares n s t := .of_lane (fun m _ => lane_of_lanes h m)

theorem Spares.refl {n : Nat} (s : State) : Spares n s s := .of_lanes rfl

theorem Spares.trans {n : Nat} {s t u : State} (h : Spares n s t) (k : Spares n t u) : Spares n s u :=
  ⟨fun m x y => (k.other m x y).trans (h.other m x y), fun m x => (k.face m x).trans (h.face m x)⟩

theorem modLane_spares (n : Nat) (s : State) (f : Lane → Lane) (hf : ∀ c, (f c).face = c.face) : Spares n s (s.modLane n f) :=
  ⟨fun _ _ x => lane_modLane_ne x s f, fun m _ => modLane_keeps Lane.face hf s n m⟩

theorem modFrame_spares (n id : Nat) (s : State) (f : Frame → Frame) : Spares n s (s.modFrame id f) := .of_lanes rfl

theorem askBand_lanes (n : Nat) (s : State) : (askBand n s).2.lanes = s.lanes := by
  have asked := fun a => allocate_lanes n a s
  grind [askBand]

theorem obtainBand_spares (n : Nat) (s : State) : Spares n s (obtainBand n s).2 := by
  have asked := askBand_lanes n s
  unfold obtainBand
  split <;> (rename_i heq; rw [heq] at asked)
  · exact (Spares.of_lanes asked).trans (modLane_spares _ _ _ (by exact fun _ => rfl))
  · exact .of_lanes asked

theorem reserveHeld_spares (n : Nat) (a : Actuator) (b : Nat) (s : State) : Spares n s (reserveHeld n a b s).2 := by
  have left : ∀ u : State, Spares n u (u.modLane n (fun c => { c with band := none })) := fun u =>
    modLane_spares _ _ _ (by exact fun _ => rfl)
  have reserved := reserveSegment_lanes n a b s
  unfold reserveHeld
  split <;> (rename_i heq; rw [heq] at reserved; dsimp only)
  · split
    · exact .of_lanes reserved
    · exact (Spares.of_lanes reserved).trans (left _)
  · exact (Spares.of_lanes reserved).trans (left _)

theorem bandSegment_spares (n : Nat) (s : State) : Spares n s (bandSegment n s).2 := by
  grind [bandSegment, Spares.refl, Spares.trans, reserveHeld_spares, obtainBand_spares]

theorem laneLocation_spares (n : Nat) (s : State) : Spares n s (laneLocation n s).2 := by
  have ring : Spares n s (ringSegment s).2 := .of_lanes (ringSegment_lanes s)
  grind [laneLocation, bandSegment_spares]

theorem joinQueue_spares (n id : Nat) (b : Bool) (s : State) : Spares n s (joinQueue n id b s) := by
  unfold joinQueue
  split
  · exact modLane_spares _ _ _ (by exact fun _ => rfl)
  · exact .refl s

theorem giveUpLaneBand_spares (n : Nat) (s : State) : Spares n s (giveUpLaneBand n s) := by
  unfold giveUpLaneBand
  split
  · exact (Spares.of_lanes (giveUpBand_lanes _ _ _ _)).trans (modLane_spares _ _ _ (by exact fun _ => rfl))
  · exact .refl s

theorem endRebind_spares (n : Nat) (s : State) : Spares n s (endRebind n s) := by
  unfold endRebind
  dsimp only
  split
  · exact (giveUpLaneBand_spares n s).trans (modLane_spares _ _ _ (by exact fun _ => rfl))
  · split
    · exact modLane_spares _ _ _ (by exact fun _ => rfl)
    · exact .refl s

theorem retryWaiting_spares (s : State) (n : Nat) : Spares n s (retryWaiting s n) := by
  have wakes : ∀ u : State, Spares n u (u.modLane n (fun c => { c with state := .opened })) := fun u =>
    modLane_spares _ _ _ (by exact fun _ => rfl)
  grind [retryWaiting, Spares.refl, Spares.trans, obtainBand_spares]

theorem abandonFrame_spares (n id : Nat) (s : State) : Spares n s (abandonFrame n id s) := by
  unfold abandonFrame
  dsimp only
  split
  · exact .refl s
  · refine Spares.trans ?_ (.of_lanes (wakeWaiters_lanes _ _))
    refine Spares.trans ?_ (.of_lanes (releaseFrame_lanes _ _))
    refine Spares.trans ?_ (modLane_spares _ _ _ (by exact fun _ => rfl))
    refine Spares.trans ?_ (.of_lanes (leaveBand_lanes _ _))
    split
    · exact .of_lanes rfl
    · exact .of_lane (fun m h => loseFrame_lane h _ _ _ _)

theorem replaceBlock_lane {m : Nat} (h : 7 ≠ m) (l loc : SegLoc) (s : State) (x : Nat × Nat) :
    (replaceBlock l loc s x).lane m = s.lane m := by
  unfold replaceBlock
  split
  · exact place_lane h _ _ _
  · rfl

theorem moveFrame_spares (n id : Nat) (loc : SegLoc) (ctr : Nat) (s : State) : Spares n s (moveFrame n id loc ctr s) := by
  unfold moveFrame
  dsimp only
  split
  · exact .refl s
  · rename_i old _
    generalize (if n = 7 then [] else _) = cur
    have replaced : Spares n s (cur.foldl (replaceBlock old loc) s) := .of_lane (fun m h =>
      foldl_holds (P := fun u => u.lane m = s.lane m) (fun u x hu => (replaceBlock_lane h old loc u x).trans hu) _ rfl)
    have moved : ∀ x u, Spares n u ((countDataSegment (leaveBand old (tellLost id x
        (u.modFrame id (fun f => { f with bound := some loc, ringCtr := ctr }))))).modLane n
          (fun c => { c with rebind := c.rebind.filter (fun i => i ≠ id) })) := fun x u => by
      refine Spares.trans ?_ (modLane_spares _ _ _ (by exact fun _ => rfl))
      refine Spares.trans ?_ (.of_lanes (countDataSegment_lanes _))
      refine Spares.trans ?_ (.of_lanes (leaveBand_lanes _ _))
      exact (modFrame_spares _ _ _ _).trans (.of_lanes (tellLost_lanes _ _ _))
    refine replaced.trans ?_
    split
    · exact ((moved _ _).trans (.of_lanes (stampFrame_lanes _ _ _))).trans (joinQueue_spares _ _ _ _)
    · exact moved _ _

theorem workRebinds_spares (n fuel : Nat) (s : State) : Spares n s (workRebinds n fuel s) := by
  induction fuel generalizing s with
  | zero => exact .refl s
  | succ fuel ih =>
    unfold workRebinds
    split
    · exact endRebind_spares n s
    · split
      · exact (abandonFrame_spares n _ s).trans (ih _)
      · have found := laneLocation_spares n s
        split <;> (rename_i heq; rw [heq] at found)
        · exact (found.trans (moveFrame_spares n _ _ _ _)).trans (ih _)
        · exact found.trans (modLane_spares _ _ _ (by exact fun _ => rfl))

theorem retryFaulted_spares (s : State) (n : Nat) : Spares n s (retryFaulted s n) := by
  unfold retryFaulted
  split
  · exact workRebinds_spares n _ s
  · exact .refl s

/-! ## The reclaim job -/

theorem closeOpen_spares (s : State) : Spares 7 s (closeOpen 7 s) := .of_lane (fun _ h => closeOpen_lane_ne h s)

theorem closeFrame_spares (id : Nat) (s : State) : Spares 7 s (closeFrame 7 id s) := .of_lane (fun _ h => closeFrame_lane_ne h id s)

theorem dropRequest_spares (s : State) : Spares 7 s (dropRequest 7 s) := .of_lane (fun _ h => dropRequest_lane_ne h s)

theorem laneSeven_spares (s : State) (f : Lane → Lane) : Spares 7 s (s.modLane 7 f) := .of_lane (fun _ h => lane_modLane_ne h s f)

theorem waitLane_spares (s : State) : Spares 7 s (waitLane 7 s) := laneSeven_spares s _

theorem wakeLaneSeven_spares (a : Actuator) (s : State) : Spares 7 s (wakeLaneSeven a s) := laneSeven_spares s _

theorem beginPass_spares (s : State) : Spares 7 s (beginPass s) := .of_lanes (beginPass_lanes s)

theorem modJob_spares (s : State) (f : Job → Job) : Spares 7 s (s.modJob f) := .of_lanes rfl

theorem requestFrame_spares (r : Requester) (s : State) : Spares 7 s (requestFrame r s).2 := .of_lanes (requestFrame_lanes r s)

theorem laneFrame_spares (s : State) : Spares 7 s (laneFrame 7 s).2 := by
  grind [laneFrame, Spares.refl, Spares.trans, requestFrame_spares, laneSeven_spares]

theorem openFrame_spares (id : Nat) (loc : SegLoc) (ctr : Nat) (s : State) : Spares 7 s (openFrame 7 id loc ctr s) :=
  ((modFrame_spares _ _ _ _).trans (laneSeven_spares _ _)).trans (.of_lanes (countDataSegment_lanes _))

theorem openLaneSeven_spares (s : State) : Spares 7 s (openLaneSeven s).2 := by
  grind [openLaneSeven, Spares.refl, Spares.trans, laneFrame_spares, laneLocation_spares, closeOpen_spares, openFrame_spares,
    dropRequest_spares, waitLane_spares]

theorem placeRelocation_spares (id : Nat) (x : Move) (s : State) : Spares 7 s (placeRelocation id x s) := by
  unfold placeRelocation
  dsimp only
  refine Spares.trans ?_ (.of_lanes (tidySource_lanes _ _))
  split
  · exact ((modFrame_spares _ _ _ _).trans (modJob_spares _ _)).trans (closeFrame_spares _ _)
  · exact (modFrame_spares _ _ _ _).trans (modJob_spares _ _)

theorem handBlock_spares {s t : State} (hs : handBlock s = some t) : Spares 7 s t := by
  unfold handBlock at hs
  split at hs
  · rename_i j x _ _
    have woken := wakeLaneSeven_spares j.act s
    have opened := woken.trans (openLaneSeven_spares _)
    have dead : ∀ p, Spares 7 s (tidySource x.src.segment (resolveMoves .dead p s)) := fun p =>
      .of_lanes ((tidySource_lanes _ _).trans rfl)
    grind [Spares.trans, placeRelocation_spares, closeFrame_spares]
  · cases hs

theorem requestCk_spares (s : State) : Spares 7 s (requestCk s) := .of_lanes rfl

theorem endJob_spares (s : State) : Spares 7 s (endJob s) := .of_lane (fun _ h => endJob_lane h s)

theorem endCachePass_spares (j : Job) (s : State) : Spares 7 s (endCachePass j s) := by
  grind [endCachePass, Spares.refl, Spares.trans, endJob_spares, requestCk_spares, beginPass_spares, modJob_spares]

theorem pumpStep_spares {s t : State} (hs : pumpStep s = some t) : Spares 7 s t := by
  have advanced : ∀ s t, advanceMigrate s = some t → Spares 7 s t := fun s t hs => by
    have moved : ∀ a f, Spares 7 s (s.modRing a f) := fun _ _ => .of_lanes rfl
    grind [advanceMigrate, Spares.trans, modJob_spares]
  have told : ∀ s t, endHanding s = some t → Spares 7 s t := fun s t hs => by
    grind [endHanding, Spares.trans, closeOpen_spares, dropRequest_spares, modJob_spares]
  have ended : ∀ s t, endPass s = some t → Spares 7 s t := fun s t hs => by
    grind [endPass, nextBandPass, Spares.trans, endCachePass_spares, beginPass_spares, modJob_spares]
  have endedPaused : ∀ s t, endPausedPass s = some t → Spares 7 s t := fun s t hs => by
    grind [endPausedPass, Spares.trans, endCachePass_spares, requestCk_spares, modJob_spares]
  have resumed : ∀ s t, resumePass s = some t → Spares 7 s t := fun s t hs => by grind [resumePass, beginPass_spares]
  have protect : ∀ s t, pauseForProtect s = some t → Spares 7 s t := fun s t hs => by
    grind [pauseForProtect, closeOpen_spares, modJob_spares]
  have all : ∀ f ∈ [advanceMigrate, handBlock, makeSource, endHanding, endPass, endPausedPass, resumePass, pauseForProtect],
      ∀ s t, f s = some t → Spares 7 s t := by
    simp only [List.forall_mem_cons, List.not_mem_nil, false_implies, implies_true, and_true]
    exact ⟨advanced, fun _ _ => handBlock_spares, fun _ _ hs => .of_lanes (makeSource_lanes hs), told, ended, endedPaused, resumed,
      protect⟩
  have first : ∀ l : List (State → Option State), (∀ f ∈ l, ∀ s t, f s = some t → Spares 7 s t) →
      firstStep l s = some t → Spares 7 s t := fun l hl hfirst => by
    obtain ⟨f, hf, hst⟩ := exists_of_firstStep hfirst
    exact hl f hf s t hst
  unfold pumpStep at hs
  repeat' split at hs
  · cases hs
  all_goals exact first _ (fun f hf => all f (by simp only [List.mem_cons, List.not_mem_nil, or_false] at hf ⊢; tauto)) hs

theorem askLaneSeven_spares (s : State) : Spares 7 s (askLaneSeven s) := by
  grind [askLaneSeven, Spares.refl, Spares.trans, wakeLaneSeven_spares, openLaneSeven_spares]

theorem pumpSteps_spares (fuel : Nat) (s : State) : Spares 7 s (pumpSteps fuel s) := by
  induction fuel generalizing s with
  | zero => exact .refl s
  | succ fuel ih =>
    unfold pumpSteps
    split
    · exact (pumpStep_spares ‹_›).trans (ih _)
    · exact askLaneSeven_spares s

theorem pump_lane {m : Nat} (h : 7 ≠ m) (s : State) : (pump s).lane m = s.lane m := by
  unfold pump
  split
  · exact (pumpSteps_spares _ s).other m h h
  · rfl

/-! ## What follows a command -/

/-- What the work after a command makes of the context of a lane of 0..6: no frame is opened in it, a give-up that waits still
does, and a lane that waits for nothing keeps its state, its band and its stream. -/
structure Lane.Settles (c d : Lane) : Prop where
  openFrame : c.openFrame = none → d.openFrame = none
  giveUpLater : d.giveUpLater = c.giveUpLater
  rests : c.state ≠ .waiting → c.state ≠ .faulted → (d.state, d.act, d.band, d.nextLba) = (c.state, c.act, c.band, c.nextLba)

theorem Lane.Settles.refl (c : Lane) : c.Settles c := ⟨id, rfl, fun _ _ => rfl⟩

theorem Lane.Settles.of_eq {c d : Lane} (h : d = c) : c.Settles d := by
  subst h
  exact .refl d

theorem Lane.Settles.trans {c d e : Lane} (h : c.Settles d) (k : d.Settles e) : c.Settles e := by
  refine ⟨fun x => k.openFrame (h.openFrame x), k.giveUpLater.trans h.giveUpLater, fun x y => ?_⟩
  have hr := h.rests x y
  have hst : d.state = c.state := congrArg Prod.fst hr
  exact (k.rests (by rwa [hst]) (by rwa [hst])).trans hr

/-- A retry settles a lane that waits for a place, and passes the others by. -/
theorem Spares.settles {n m : Nat} (hm : 7 ≠ m) {s t : State} (h : Spares n s t)
    (hrest : (s.lane n).state ≠ .waiting → (s.lane n).state ≠ .faulted → t = s) : (s.lane m).Settles (t.lane m) := by
  have face := h.face m hm
  simp only [Lane.face, Prod.mk.injEq] at face
  by_cases hn : n = m
  · subst hn
    refine ⟨fun x => face.1.trans x, face.2, fun x y => by rw [hrest x y]⟩
  · exact .of_eq (h.other m hm hn)

theorem informLanes_settles {m : Nat} (hm : 7 ≠ m) (s : State) : (s.lane m).Settles ((informLanes s).lane m) := by
  have retry : ∀ (u : State) n, (u.lane m).Settles ((retryWaiting (retryFaulted u n) n).lane m) := fun u n =>
    ((retryFaulted_spares u n).settles hm (fun _ hf => by simp [retryFaulted, hf])).trans
      ((retryWaiting_spares _ n).settles hm (fun hw _ => by simp [retryWaiting, hw]))
  exact forAny_holds (P := fun u => (s.lane m).Settles (u.lane m)) (fun _ _ h => h) (fun u n h => h.trans (retry u n)) _ (.refl _)

theorem modLane_settles (n m : Nat) (s : State) (f : Lane → Lane) (hf : ∀ c : Lane, c.Settles (f c)) :
    (s.lane m).Settles ((s.modLane n f).lane m) := by
  by_cases hn : n < s.lanes.length
  · rw [State.lane_modLane _ _ _ _ hn]
    split
    · rename_i h
      rw [h]
      exact hf _
    · exact .refl _
  · have same : s.lanes.modify n f = s.lanes := List.modify_eq_self (not_lt.1 hn)
    exact .of_eq (lane_of_lanes same m)

theorem sealFrame_settles (n id m : Nat) (s : State) : (s.lane m).Settles ((sealFrame n id s).lane m) := by
  have stamped : (stampFrame n id (padFrame id s)).lane m = s.lane m := lane_of_lanes (stampFrame_lanes n id (padFrame id s)) m
  rw [sealFrame_eq, ← stamped]
  dsimp only
  split
  · exact .refl _
  · unfold joinQueue
    split
    · exact modLane_settles _ _ _ _ (fun _ => ⟨fun h => h, rfl, fun _ _ => rfl⟩)
    · exact .refl _

theorem closeOpen_settles (n m : Nat) (s : State) : (s.lane m).Settles ((closeOpen n s).lane m) := by
  have left : (s.lane m).Settles ((s.modLane n (fun c => { c with openFrame := none, idleTimer := none })).lane m) :=
    modLane_settles n m s _ (fun _ => ⟨fun _ => rfl, rfl, fun _ _ => rfl⟩)
  unfold closeOpen closeFrame
  dsimp only
  repeat' split
  · exact left.trans (sealFrame_settles _ _ _ _)
  · exact left.trans (.of_eq rfl)
  · exact .refl _

theorem gateEdge_settles (m : Nat) (s : State) : (s.lane m).Settles ((gateEdge s).lane m) := by
  unfold gateEdge
  repeat' split
  · exact .refl _
  · unfold assertGate refuseTurns
    dsimp only
    refine Lane.Settles.trans ?_ (.of_eq (lane_of_lanes (refuseHeads_lanes _ _) m))
    exact forAny_holds (P := fun u => (s.lane m).Settles (u.lane m)) (fun _ _ h => h)
      (fun u n h => h.trans (closeOpen_settles n m u)) _ (.of_eq rfl)
  · exact .of_eq rfl
  · exact .refl _

theorem settle_settles {m : Nat} (hm : 7 ≠ m) (s : State) : (s.lane m).Settles ((settle s).lane m) := by
  have round : ∀ u : State, (u.lane m).Settles ((settleRound u).lane m) := fun u => by
    have pumped : ∀ v : State, (v.lane m).Settles ((pump v).lane m) := fun v => .of_eq (pump_lane hm v)
    have waits : ∀ v : State, (v.lane m).Settles ((refreshWaits v).lane m) := fun v => .of_eq rfl
    exact ((((gateEdge_settles m u).trans (informLanes_settles hm _)).trans (pumped _)).trans (informLanes_settles hm _)).trans
      ((pumped _).trans (waits _))
  unfold settle
  dsimp only
  split
  · exact round s
  · exact (round s).trans (round _)

end Sys2Proof.Machine
end

section
/-! DATA_PHASE_START: the lane a WRITE is classified to (O22, R67 to R69). -/

namespace Sys2Proof.Machine

/-! ## What follows a command leaves the gate's business alone -/

/-- The fields that what follows a command leaves alone. -/
def State.framed (s : State) := (s.service, s.geom, s.earmarks, s.phase, s.ports, s.maint)

theorem settle_framed (s : State) : (settle s).framed = s.framed := by
  obtain ⟨g, hg⟩ := settle_gated s
  have ho := Inner.outside hg
  simp only [State.outside, Outside.mk.injEq] at ho
  simp [State.framed, ho]

theorem settle_phase (s : State) : (settle s).phase = s.phase := by
  have h := settle_framed s
  simp only [State.framed, Prod.mk.injEq] at h
  exact h.2.2.2.1

theorem settle_opened {n : Nat} (hn : n < 7) {s : State} (h : (s.lane n).state = .opened) : ((settle s).lane n).state = .opened := by
  have kept := (settle_settles (m := n) (by omega) s).rests (by simp [h]) (by simp [h])
  simp only [Prod.mk.injEq] at kept
  exact kept.1.trans h

/-! ## The stream lane that is idle longest (R69) -/

/-- Of an ascending list, the member with the least key, the first of two, is what the fold of R69 ends with. -/
theorem foldl_least {key : Nat → Nat} {n : Nat} (l : List Nat) (acc : Option Nat) (hl : l.Pairwise (· < ·))
    (hleast : ∀ m ∈ l, key n < key m ∨ (key n = key m ∧ n ≤ m)) (hacc : ∀ y, acc = some y → y = n ∨ key n < key y)
    (hin : n ∈ l ∨ acc = some n) :
    l.foldl (fun best x => match best with
      | none => some x
      | some y => if key x < key y then some x else some y) acc = some n := by
  induction l generalizing acc with
  | nil => exact hin.resolve_left (by simp)
  | cons x l ih =>
    obtain ⟨hx, hl⟩ := List.pairwise_cons.1 hl
    have hn := hleast x (by simp)
    have rest := fun acc' => ih acc' hl (fun m hm => hleast m (by simp [hm]))
    rw [List.foldl_cons]
    rcases hin with hin | rfl
    · rcases List.mem_cons.1 hin with rfl | hin
      · refine rest _ (fun y hy => ?_) (.inr ?_)
        all_goals cases acc with
          | none => simp_all
          | some z => rcases hacc z rfl with rfl | hz <;> simp_all
      · have hlt := hx n hin
        refine rest _ (fun y hy => ?_) (.inl hin)
        cases acc with
        | none =>
          cases hy
          exact .inr (hn.resolve_right (by omega))
        | some z =>
          dsimp only at hy
          split at hy <;> cases hy
          · exact .inr (hn.resolve_right (by omega))
          · exact hacc _ rfl
    · have hstay : ¬ key x < key n := by omega
      dsimp only
      rw [if_neg hstay]
      exact rest _ (fun y hy => .inl (Option.some.inj hy).symm) (.inr rfl)

theorem oldestStream_eq {s : State} {n : Nat} (hn : n < 6 ∧ s.work.windowBound n = false ∧ (s.lane n).state = .opened)
    (hleast : ∀ m, m < 6 → s.work.windowBound m = false → (s.lane m).state = .opened →
      (s.lane n).lastAccept.getD 0 < (s.lane m).lastAccept.getD 0 ∨
        ((s.lane n).lastAccept.getD 0 = (s.lane m).lastAccept.getD 0 ∧ n ≤ m)) : s.oldestStream = some n := by
  unfold State.oldestStream
  refine foldl_least (key := fun k => (s.lane k).lastAccept.getD 0) _ none (List.pairwise_lt_range.filter _) ?_ (by simp) (.inl ?_)
  · intro m hm
    simp only [List.mem_filter, List.mem_range, Bool.and_eq_true, decide_eq_true_eq, Bool.not_eq_true'] at hm
    exact hleast m hm.1 hm.2.2 hm.2.1
  · simp [hn]

theorem oldestStream_none {s : State} (h : ∀ n < 6, s.work.windowBound n = false → (s.lane n).state ≠ .opened) :
    s.oldestStream = none := by
  have empty : (List.range 6).filter (fun n => decide ((s.lane n).state = .opened) && !s.work.windowBound n) = [] := by
    simp only [List.filter_eq_nil_iff, List.mem_range, Bool.and_eq_true, decide_eq_true_eq, Bool.not_eq_true', not_and]
    exact fun n hn ho hw => h n hn hw ho
  simp [State.oldestStream, empty]

/-- The lowest of the first k numbers that p holds of. -/
theorem find_range_eq {p : Nat → Bool} {k n : Nat} (hk : n < k) (hn : p n = true) (hlow : ∀ m < n, p m = false) :
    (List.range k).find? p = some n := by
  rw [List.find?_eq_some_iff_append]
  refine ⟨hn, List.range n, (List.range (k - (n + 1))).map (fun i => n + 1 + i), ?_, fun m hm => by simp [hlow m (by simpa using hm)]⟩
  obtain ⟨d, rfl⟩ : ∃ d, k = n + 1 + d := ⟨k - (n + 1), by omega⟩
  rw [List.range_add, List.range_succ]
  simp

/-! ## The classification (R67) -/

theorem classify_of_sequential {s : State} {lba n : Nat} (count : Nat) (h : s.sequentialLane lba = some n) :
    classify lba count s = (n, s) := by
  simp [classify, h]

theorem classify_of_window {s : State} {lba n : Nat} (count : Nat) (h : s.sequentialLane lba = none)
    (hw : s.windowLane lba = some n) : classify lba count s = (n, s) := by
  simp [classify, h, hw]

theorem classify_of_small {s : State} {lba count : Nat} (h : s.sequentialLane lba = none) (hw : s.windowLane lba = none)
    (hc : count < s.work.streamMin) : classify lba count s = (6, s) := by
  simp [classify, h, hw, Nat.not_le.2 hc]

theorem classify_of_stream {s : State} {lba count : Nat} (h : s.sequentialLane lba = none) (hw : s.windowLane lba = none)
    (hc : s.work.streamMin ≤ count) : classify lba count s = ((takeStream s).1.getD 6, (takeStream s).2) := by
  unfold classify
  simp only [h, hw, if_pos hc]
  split <;> simp [*]

theorem takeStream_of_closed {s : State} {n : Nat} (h : s.closedStream = some n) : takeStream s = (some n, s) := by
  simp [takeStream, h]

theorem takeStream_of_old {s : State} {n : Nat} (h : s.closedStream = none) (ho : s.oldestStream = some n) :
    takeStream s = if s.work.idleLimit ≤ s.now - (s.lane n).lastAccept.getD 0 then (some n, evictLane n s) else (none, s) := by
  simp [takeStream, h, ho]

theorem takeStream_of_none {s : State} (h : s.closedStream = none) (ho : s.oldestStream = none) : takeStream s = (none, s) := by
  simp [takeStream, h, ho]

/-- The classification leaves every lane as it stands, but for the lane it evicts, which is OPEN. -/
theorem classify_state (lba count : Nat) (s : State) (n : Nat) (h : (classify lba count s).1 = n) :
    (classify lba count s).2 = s ∨ (s.lane n).state ≠ .closed := by
  have open_of_oldest : ∀ k, s.oldestStream = some k → (s.lane k).state = .opened := fun k hk => by
    have members : ∀ (l : List Nat) acc, (∀ x ∈ l, (s.lane x).state = .opened) → (∀ x, acc = some x → (s.lane x).state = .opened) →
        ∀ x, l.foldl (fun best n => match best with
          | none => some n
          | some m => if (s.lane n).lastAccept.getD 0 < (s.lane m).lastAccept.getD 0 then some n else some m) acc = some x →
          (s.lane x).state = .opened := by
      intro l
      induction l with
      | nil => exact fun acc _ hacc x hx => hacc x hx
      | cons y l ih =>
        intro acc hl hacc
        refine ih _ (fun x hx => hl x (by simp [hx])) (fun x hx => ?_)
        have hy := hl y (by simp)
        cases acc with
        | none => simp_all
        | some z =>
          have hz := hacc z rfl
          dsimp only at hx
          split at hx <;> cases hx <;> assumption
    refine members _ none (fun x hx => ?_) (by simp) k hk
    simp only [List.mem_filter, Bool.and_eq_true, decide_eq_true_eq] at hx
    exact hx.2.1
  subst h
  have taken : (takeStream s).2 = s ∨ ∃ k, (takeStream s).1 = some k ∧ (s.lane k).state = .opened := by
    unfold takeStream
    split
    · exact .inl rfl
    · split
      · exact .inl rfl
      · rename_i k hk
        split
        · exact .inr ⟨k, rfl, open_of_oldest k hk⟩
        · exact .inl rfl
  unfold classify
  repeat' split
  all_goals try exact .inl rfl
  · rename_i heq
    rw [heq] at taken
    rcases taken with hs | ⟨k, hk, ho⟩
    · exact .inl hs
    · cases hk
      exact .inr (by simp [ho])
  · rename_i heq
    rw [heq] at taken
    rcases taken with hs | ⟨k, hk, -⟩
    · exact .inl hs
    · cases hk

/-! ## The command -/

theorem headRequest_eq {s : State} {tag : Nat} {e : TagEntry} (hi : s.intake.head? = some tag) (ht : s.tag tag = some e) :
    s.headRequest = some (tag, e) := by
  simp [State.headRequest, hi, ht]

/-- DATA_PHASE_START with a WRITE at the head and the gate deasserted (R179). -/
theorem dataPhaseStart_eq {s : State} {tag : Nat} {e : TagEntry} (hh : s.headRequest = some (tag, e)) (hw : e.kind = .write)
    (hp : s.phase = none) (hg : s.gate = false) : exec .dataPhaseStart s = .next (settle (startPhase tag e s)) := by
  show execDataPhaseStart s = _
  simp [execDataPhaseStart, hh, hw, hp, hg]

theorem startPhase_phase (tag : Nat) (e : TagEntry) (s : State) : (startPhase tag e s).phase =
    some ⟨tag, e.lba, e.count, (classify e.lba e.count s).1, false, 0, 0, [], none, none, false⟩ := rfl

/-- The lane that takes the WRITE enters OPEN from CLOSED (R67). -/
theorem startPhase_opens {s : State} {tag n : Nat} {e : TagEntry} (hl : s.lanes.length = 8)
    (hn : (classify e.lba e.count s).1 = n) (hlt : n < 7) (hc : (s.lane n).state = .closed) :
    ((startPhase tag e s).lane n).state = .opened := by
  have hs : (classify e.lba e.count s).2 = s := (classify_state _ _ s n hn).resolve_right (by simp [hc])
  have entered : (startPhase tag e s).lane n = (enterLane n s).lane n := by
    unfold startPhase
    simp only [hs, hn]
    rfl
  rw [entered, enterLane, State.lane_modLane _ _ _ _ (by omega)]
  simp [hc]

/-- Settles O22: the lane is that of `classify`, which the phase records and what follows the command leaves open. -/
theorem writeStartsPhaseInItsLane : Obligations.WriteStartsPhaseInItsLane := by
  intro s tag e hsizes hhead htag hkind hphase hgate expects unbound free old last oldest
  refine ⟨_, _, dataPhaseStart_eq (headRequest_eq hhead htag) hkind hphase hgate,
    (settle_phase _).trans (startPhase_phase tag e s), rfl, ?_, ?_, ?_⟩
  · intro n hn hlow
    have found : s.sequentialLane e.lba = some n := find_range_eq hn.1 (by simpa using hn.2) (fun m hm => by
      have := hlow m hm
      simp only [expects, not_and] at this
      simpa using this (by omega))
    simp [classify_of_sequential _ found]
  · intro hnone
    have hseq : s.sequentialLane e.lba = none := by
      simp only [State.sequentialLane, List.find?_eq_none, List.mem_range]
      intro n hn
      have := hnone n
      simp only [expects, not_and] at this
      simpa using this hn
    refine ⟨fun w hw => ?_, fun hw => ?_⟩
    · have hwin : s.windowLane e.lba = some w.lane := congrArg (Option.map Window.lane) hw
      simp [classify_of_window _ hseq hwin]
    · have hwin : s.windowLane e.lba = none := congrArg (Option.map Window.lane) hw
      refine ⟨fun hc => by simp [classify_of_small hseq hwin hc], fun hc => ?_⟩
      rw [classify_of_stream hseq hwin hc]
      have missed : ∀ m < 6, ¬ free m → (decide ((s.lane m).state = .closed) && !s.work.windowBound m) = false := fun m hm h => by
        simp only [Bool.and_eq_false_imp, decide_eq_true_eq, Bool.not_eq_false']
        exact fun hc => by simpa using fun hb => h ⟨⟨hm, hb⟩, hc⟩
      have noneClosed : (∀ n, ¬ free n) → s.closedStream = none := fun h => by
        simp only [State.closedStream, List.find?_eq_none, List.mem_range]
        intro n hn
        simp [missed n hn (h n)]
      refine ⟨fun n hn hlow => ?_, fun hfree hold => ?_, fun hfree n hn => ?_⟩
      · have closed : s.closedStream = some n := find_range_eq hn.1.1 (by simp [hn.1.2, hn.2]) (fun m hm =>
          missed m (hm.trans hn.1.1) (hlow m hm))
        simp [takeStream_of_closed closed]
      · have none : s.oldestStream = Option.none := oldestStream_none (fun n hn hw ho => hold n ⟨⟨hn, hw⟩, ho⟩)
        simp [takeStream_of_none (noneClosed hfree) none]
      · obtain ⟨⟨⟨hlt, hbound⟩, hopen⟩, hleast⟩ := hn
        have found : s.oldestStream = some n :=
          oldestStream_eq ⟨hlt, hbound, hopen⟩ (fun m hm hw ho => hleast m ⟨⟨hm, hw⟩, ho⟩)
        rw [takeStream_of_old (noneClosed hfree) found]
        exact ⟨fun hi => by rw [if_pos hi]; rfl, fun hi => by rw [if_neg (Nat.not_le.2 hi)]; rfl⟩
  · exact fun hlt hc => settle_opened hlt (startPhase_opens hsizes.1 rfl hlt hc)

end Sys2Proof.Machine
end

section
/-! A lane that gives up (O29, O50, R46, R75, R76, R78 to R80): its frame closes and its band drains or is parked. -/

namespace Sys2Proof.Machine

/-! ## The band given up (R46) -/

theorem lt_of_opened {s : State} {a : Actuator} {b : Nat} (h : (s.bandRec a b).state = .opened) : b < (s.bm.get a).bands.length := by
  by_contra hb
  simp [State.bandRec, List.getElem?_eq_none (not_lt.1 hb), Band.blank] at h

/-- What becomes of the record of a band that is given up (R46). -/
def Band.givenUp (r : Band) : Band := { r with state := if r.bound = 0 then .parked else .draining, owner := none }

theorem bandRec_modBand_other (s : State) {a x : Actuator} {b y : Nat} (f : Band → Band) (h : x ≠ a ∨ y ≠ b) :
    (s.modBand a b f).bandRec x y = s.bandRec x y := by
  by_cases hx : x = a
  · subst hx
    have hy := h.resolve_left (by simp)
    simp [State.bandRec, State.modBand, State.modMgr, List.getD_eq_getElem?_getD, Ne.symm hy]
  · simp [State.bandRec, State.modBand, State.modMgr, Two.get_modify_of_ne _ _ _ _ hx]

theorem giveUpBand_of_not {s : State} {n : Nat} {a : Actuator} {b : Nat}
    (h : ¬ ((s.bandRec a b).state = .opened ∧ (s.bandRec a b).owner = some n)) : giveUpBand n a b s = s := by
  simp [giveUpBand, h]

/-- The band that its owner gives up, and no other, is parked or drains. -/
theorem giveUpBand_of_owner {s : State} {n : Nat} {a : Actuator} {b : Nat} (hs : (s.bandRec a b).state = .opened)
    (ho : (s.bandRec a b).owner = some n) :
    (giveUpBand n a b s).bandRec a b = (s.bandRec a b).givenUp ∧
    (∀ x y, x ≠ a ∨ y ≠ b → (giveUpBand n a b s).bandRec x y = s.bandRec x y) ∧
    ((giveUpBand n a b s).bm.get a).parked = (s.bm.get a).parked ++ (if (s.bandRec a b).bound = 0 then [b] else []) ∧
    ∀ x, x ≠ a → ((giveUpBand n a b s).bm.get x).parked = (s.bm.get x).parked := by
  have hb := lt_of_opened hs
  unfold giveUpBand
  dsimp only
  rw [if_pos ⟨hs, ho⟩]
  split
  · rename_i hbound
    refine ⟨?_, fun x y h => ?_, ?_, fun x hx => ?_⟩
    · rw [bandRec_park hb]
      simp [Band.givenUp, hbound]
    · rw [← bandRec_modBand_other s (fun r => { r with state := .parked, owner := none }) h]
      by_cases hx : x = a
      · subst hx
        simp [park, State.bandRec, State.modMgr]
      · simp [park, State.bandRec, State.modMgr, Two.get_modify_of_ne _ _ _ _ hx]
    · simp [park, State.modBand, State.modMgr]
    · simp [park, State.modBand, State.modMgr, Two.get_modify_of_ne _ _ _ _ hx]
  · rename_i hbound
    refine ⟨?_, fun x y h => bandRec_modBand_other s _ h, ?_, fun x hx => ?_⟩
    · rw [bandRec_modBand_self hb]
      simp [Band.givenUp, hbound]
    · simp [State.modBand, State.modMgr]
    · simp [State.modBand, State.modMgr, Two.get_modify_of_ne _ _ _ _ hx]

/-! ## The open frame closed (R75, R76) -/

theorem closeOpen_bm (n : Nat) (s : State) : (closeOpen n s).bm = s.bm :=
  (besideLanes_iff (closeOpen_beside n s)).2.2.2.2.2.2

theorem closeOpen_openFrame {n : Nat} {s : State} (h : n < s.lanes.length) : ((closeOpen n s).lane n).openFrame = none := by
  have frames := closeOpen_laneFrames h
  simp only [State.laneFrames, Prod.mk.injEq] at frames
  exact frames.1

theorem closeOpen_length (n : Nat) (s : State) : (closeOpen n s).lanes.length = s.lanes.length := by
  have sizes := (closeOpen_inner n s).sizes
  simp only [State.sizes, Prod.mk.injEq] at sizes
  exact sizes.1

/-- The close of a frame leaves the lanes' states, bands and streams alone. -/
theorem closeOpen_standing (n m : Nat) (s : State) :
    ((closeOpen n s).lane m).state = (s.lane m).state ∧ ((closeOpen n s).lane m).act = (s.lane m).act ∧
    ((closeOpen n s).lane m).band = (s.lane m).band ∧ ((closeOpen n s).lane m).nextLba = (s.lane m).nextLba ∧
    ((closeOpen n s).lane m).giveUpLater = (s.lane m).giveUpLater := by
  have field : ∀ {β : Type} (g : Lane → β), (∀ c, g { c with openFrame := none, idleTimer := none } = g c) →
      (∀ c q, g { c with queues := q } = g c) → g ((closeOpen n s).lane m) = g (s.lane m) := by
    intro β g hleft hqueue
    have left := modLane_keeps g (f := fun c => { c with openFrame := none, idleTimer := none }) hleft s n m
    have sealed : ∀ id u, g ((sealFrame n id u).lane m) = g (u.lane m) := fun id u => by
      have stamped : (stampFrame n id (padFrame id u)).lane m = u.lane m :=
        lane_of_lanes (stampFrame_lanes n id (padFrame id u)) m
      rw [sealFrame_eq, ← stamped]
      dsimp only
      split
      · rfl
      · unfold joinQueue
        split
        · exact modLane_keeps g (fun c => hqueue c _) _ _ _
        · rfl
    unfold closeOpen closeFrame
    dsimp only
    repeat' split
    · exact (sealed _ _).trans left
    · exact left
    · rfl
  exact ⟨field _ (fun _ => rfl) (fun _ _ => rfl), field _ (fun _ => rfl) (fun _ _ => rfl), field _ (fun _ => rfl) (fun _ _ => rfl),
    field _ (fun _ => rfl) (fun _ _ => rfl), field _ (fun _ => rfl) (fun _ _ => rfl)⟩

/-! ## The lane gives up (R79) -/

theorem giveUpLane_lane_ne {n m : Nat} (h : n ≠ m) (s : State) : (giveUpLane n s).lane m = s.lane m := by
  unfold giveUpLane
  dsimp only
  rw [lane_modLane_ne h, giveUpLaneBand_lane_ne h, closeOpen_lane_ne h]

theorem giveUpLaneBand_openFrame (n m : Nat) (s : State) : ((giveUpLaneBand n s).lane m).openFrame = (s.lane m).openFrame := by
  unfold giveUpLaneBand
  split
  · rw [modLane_keeps Lane.openFrame (by exact fun _ => rfl), lane_of_lanes (giveUpBand_lanes _ _ _ _)]
  · rfl

theorem giveUpLaneBand_length (n : Nat) (s : State) : (giveUpLaneBand n s).lanes.length = s.lanes.length := by
  have sizes := (giveUpLaneBand_inner n s).sizes
  simp only [State.sizes, Prod.mk.injEq] at sizes
  exact sizes.1

/-- The lane that has given up is CLOSED, without band, actuator, stream and frame. -/
theorem giveUpLane_lane {n : Nat} {s : State} (h : n < s.lanes.length) :
    let c := (giveUpLane n s).lane n
    c.state = .closed ∧ c.act = none ∧ c.band = none ∧ c.nextLba = none ∧ c.openFrame = none := by
  have frame : ((giveUpLaneBand n (closeOpen n s)).lane n).openFrame = none :=
    (giveUpLaneBand_openFrame n n _).trans (closeOpen_openFrame h)
  unfold giveUpLane
  dsimp only
  rw [State.lane_modLane _ _ _ _ (by rwa [giveUpLaneBand_length, closeOpen_length]), if_pos rfl]
  exact ⟨rfl, rfl, rfl, rfl, frame⟩

/-- The bands after lane n has given up are those after it has given up the band it holds. -/
theorem giveUpLane_bm (n : Nat) (s : State) : (giveUpLane n s).bm =
    match (s.lane n).act, (s.lane n).band with
    | some a, some b => (giveUpBand n a b s).bm
    | _, _ => s.bm := by
  obtain ⟨-, hact, hband, -⟩ := closeOpen_standing n n s
  have same : ∀ a b, (giveUpBand n a b (closeOpen n s)).bm = (giveUpBand n a b s).bm := fun a b => by
    have hrec : (closeOpen n s).bandRec a b = s.bandRec a b := by simp only [State.bandRec, closeOpen_bm]
    unfold giveUpBand park
    dsimp only
    rw [hrec]
    repeat' split
    all_goals simp only [State.modBand, State.modMgr, closeOpen_bm]
  show (giveUpLaneBand n (closeOpen n s)).bm = _
  unfold giveUpLaneBand
  rw [hact, hband]
  cases (s.lane n).act <;> cases (s.lane n).band <;> simp only [closeOpen_bm, State.modLane, same]

theorem bandRec_congr {s t : State} (h : t.bm = s.bm) (a : Actuator) (b : Nat) : t.bandRec a b = s.bandRec a b := by
  simp only [State.bandRec, h]

theorem appends_of_owner {s : State} {n : Nat} {a : Actuator} {b : Nat} (ha : (s.lane n).act = some a) (hb : (s.lane n).band = some b)
    (h : (s.bandRec a b).state = .opened ∧ (s.bandRec a b).owner = some n) : s.appends n a b :=
  ⟨ha, hb, lt_of_opened h.1, h.1, h.2⟩

/-- A lane that appends to no band leaves all bands alone. -/
theorem giveUpLane_keeps {n : Nat} {s : State} (h : ∀ a b, ¬ s.appends n a b) : (giveUpLane n s).bm = s.bm := by
  rw [giveUpLane_bm]
  split
  · rename_i a b ha hb
    rw [giveUpBand_of_not (fun hc => h a b (appends_of_owner ha hb hc))]
  · rfl

/-- The band that a lane appends to is given up with the lane, and no other band is (R46). -/
theorem giveUpLane_gives {n : Nat} {s : State} {a : Actuator} {b : Nat} (h : s.appends n a b) :
    s.bandGivenUp (giveUpLane n s) a b ∧
    (∀ x y, x ≠ a ∨ y ≠ b → (giveUpLane n s).bandRec x y = s.bandRec x y) ∧
    ∀ x, x ≠ a → ((giveUpLane n s).bm.get x).parked = (s.bm.get x).parked := by
  obtain ⟨ha, hb, -, hs, ho⟩ := h
  have same : (giveUpLane n s).bm = (giveUpBand n a b s).bm := by rw [giveUpLane_bm, ha, hb]
  obtain ⟨hrec, hother, hparked, hlists⟩ := giveUpBand_of_owner hs ho
  refine ⟨⟨?_, ?_⟩, fun x y hx => ?_, fun x hx => ?_⟩
  · rw [bandRec_congr same, hrec]
    rfl
  · rw [same, hparked]
  · rw [bandRec_congr same, hother x y hx]
  · rw [same, hlists x hx]

/-- A lane appends to one band at most. -/
theorem appends_unique {s : State} {n : Nat} {a x : Actuator} {b y : Nat} (h : s.appends n a b) (k : s.appends n x y) :
    x = a ∧ y = b :=
  ⟨Option.some.inj (k.1.symm.trans h.1), Option.some.inj (k.2.1.symm.trans h.2.1)⟩

theorem stuckLanes_eq_nil {s : State} : s.stuckLanes = [] ↔ ∀ n < 8, (s.lane n).state ≠ .waiting ∧ (s.lane n).state ≠ .faulted := by
  simp [State.stuckLanes, List.filter_eq_nil_iff]

theorem settle_bm_of_calm {s t : State} (h : s.calm) (hl : ∀ n, (t.lane n).state = (s.lane n).state ∨ (t.lane n).state = .closed)
    (hj : t.rc.job = s.rc.job) : (settle t).bm = t.bm := by
  obtain ⟨-, hstuck, hjob⟩ := h
  refine (settle_closing (g := id) (stuckLanes_eq_nil.2 (fun n hn => ?_)) (hj.trans hjob)).bands
  rcases hl n with hs | hs
  · rw [hs]
    exact stuckLanes_eq_nil.1 hstuck n hn
  · simp [hs]

end Sys2Proof.Machine
end

section
/-! The lane timers and the idle clock once they have run (O29, R76, R78, R79, R134). -/

namespace Sys2Proof.Machine

/-! ## The stamp of a closed frame (R76, R86) -/

/-- The record of a frame of lane n bound at l once it has been stamped (R76 steps 2 to 4). -/
def State.stampedFrame (s : State) (n id : Nat) (l : SegLoc) : Frame :=
  let f := { s.frame id with void := s.voidMask n (s.frame id) }
  { f with seq := some (s.seq.getD 0), closed := true, closePending := false, stamp := some (laneStamp s n f l (s.seq.getD 0)) }

theorem stampFrame_eq {n id : Nat} {s : State} {l : SegLoc} (h : (s.frame id).bound = some l) :
    stampFrame n id s = (assignSeq s).2.modFrame id (fun _ => s.stampedFrame n id l) := by
  simp only [stampFrame, State.stampedFrame, h]
  rfl

theorem stampFrame_seq (n id : Nat) (s : State) : (stampFrame n id s).seq = some (s.seq.getD 0 + 1) := by
  unfold stampFrame
  dsimp only
  split <;> rfl

theorem stampFrame_seqLimit (n id : Nat) (s : State) :
    (stampFrame n id s).seqLimit = (s.seqLimit || decide (Config.sequenceLimit ≤ s.seq.getD 0 + 1)) := by
  unfold stampFrame
  dsimp only
  split <;> rfl

theorem frame_modFrame_self {s : State} {id : Nat} (f : Frame → Frame) (h : id < s.pool.frames.length) :
    (s.modFrame id f).frame id = f (s.frame id) := by
  rw [State.frame_modFrame s id id f h, if_pos rfl]

theorem stampFrame_frame {n id : Nat} {s : State} {l : SegLoc} (hid : id < s.pool.frames.length) (h : (s.frame id).bound = some l) :
    (stampFrame n id s).frame id = s.stampedFrame n id l := by
  rw [stampFrame_eq h]
  exact frame_modFrame_self _ hid

theorem joinQueue_pool (n id : Nat) (b : Bool) (s : State) : (joinQueue n id b s).pool = s.pool := by
  unfold joinQueue
  split <;> rfl

theorem frame_of_pool {s t : State} (h : t.pool = s.pool) (i : Nat) : t.frame i = s.frame i := by
  simp only [State.frame, h]

theorem padFrame_frame {s : State} {id : Nat} (h : id < s.pool.frames.length) : (padFrame id s).frame id =
    { s.frame id with payload := (s.frame id).payload.take (s.frame id).fill ++ List.replicate (16 - (s.frame id).fill) 0 } :=
  frame_modFrame_self _ h

/-- What the close of a bound frame makes of it: the stamped record of the padded frame. -/
theorem sealFrame_frame {n id : Nat} {s : State} {l : SegLoc} (hid : id < s.pool.frames.length) (h : (s.frame id).bound = some l) :
    (sealFrame n id s).frame id = (padFrame id s).stampedFrame n id l := by
  have bound : ((padFrame id s).frame id).bound = some l := by rw [padFrame_frame hid]; exact h
  have stamped : (stampFrame n id (padFrame id s)).frame id = (padFrame id s).stampedFrame n id l :=
    stampFrame_frame (by simpa [padFrame] using hid) bound
  rw [sealFrame_eq]
  dsimp only
  split
  · exact stamped
  · rw [frame_of_pool (joinQueue_pool _ _ _ _), stamped]

theorem sealFrame_seq (n id : Nat) (s : State) : (sealFrame n id s).seq = some (s.seq.getD 0 + 1) ∧
    (sealFrame n id s).seqLimit = (s.seqLimit || decide (Config.sequenceLimit ≤ s.seq.getD 0 + 1)) := by
  have stamped := And.intro (stampFrame_seq n id (padFrame id s)) (stampFrame_seqLimit n id (padFrame id s))
  rw [sealFrame_eq]
  dsimp only
  split
  · exact stamped
  · have same : ∀ u : State, (joinQueue n id false u).seq = u.seq ∧ (joinQueue n id false u).seqLimit = u.seqLimit := fun u => by
      unfold joinQueue
      split <;> exact ⟨rfl, rfl⟩
    rw [(same _).1, (same _).2]
    exact stamped

/-- The close of an open frame without promises is the seal of the frame (R75). -/
theorem closeOpen_eq {n id : Nat} {s : State} (ho : (s.lane n).openFrame = some id) (hp : (s.frame id).promises = 0) :
    closeOpen n s = sealFrame n id (s.modLane n (fun c => { c with openFrame := none, idleTimer := none })) := by
  unfold closeOpen
  rw [ho]
  dsimp only
  unfold closeFrame
  exact if_pos hp

/-! ## What the close of a frame leaves -/

theorem closeOpen_job (n : Nat) (s : State) : (closeOpen n s).rc = s.rc :=
  (besideLanes_iff (closeOpen_beside n s)).2.2.2.2.1

/-- A close that does not bring the sequence limit leaves a quiet part quiet. -/
theorem closeOpen_quiet {n : Nat} {s : State} (h : s.quiet) (hl : (closeOpen n s).seqLimit = s.seqLimit) : (closeOpen n s).quiet := by
  refine quiet_congr ?_ h
  have beside := closeOpen_beside n s
  simp only [State.besideLanes, Prod.mk.injEq] at beside
  obtain ⟨⟨-, -, -, -, hrc, hrs⟩, -, -, -, -, -, -, hgate⟩ := beside
  have outside := (closeOpen_inner n s).outside
  simp only [State.outside, Outside.mk.injEq] at outside
  have stuck := stuckLanes_congr (fun m => (closeOpen_standing n m s).1)
  simp only [State.quietPart, State.gateLevel, hl, hrc, hrs, hgate, stuck, outside]

/-! ## The commands -/

theorem ranFor_of {s : State} {t0 limit : Nat} (h : limit ≤ s.now - t0) : s.ranFor (some t0) limit = true := by
  simp [State.ranFor, h]

theorem idleTimerExpiry_eq {s : State} {n t0 : Nat} (hn : n ≤ 6) (ht : (s.lane n).idleTimer = some t0)
    (h : s.work.idleLimit ≤ s.now - t0) : exec (.idleTimerExpiry n) s = .next (settle (closeOpen n s)) := by
  show execIdleTimerExpiry n s = _
  simp [execIdleTimerExpiry, hn, ht, ranFor_of h]

theorem releaseTimerExpiry_eq {s : State} {n t0 : Nat} (hn : n ≤ 6) (ho : (s.lane n).state = .opened)
    (ht : (s.lane n).releaseTimer = some t0) (h : s.work.laneRelease * 1000 ≤ s.now - t0) :
    exec (.releaseTimerExpiry n) s = .next (settle (giveUpLane n s)) := by
  show execReleaseTimerExpiry n s = _
  simp [execReleaseTimerExpiry, hn, ho, ht, ranFor_of h]

theorem idleClockExpiry_eq {s : State} {t0 : Nat} (hm : s.work.idleMigrate ≠ 0) (ht : s.rc.idleClock = some t0)
    (h : s.work.idleMigrate * 1000 ≤ s.now - t0) :
    exec .idleClockExpiry s = .next { s with rc := { s.rc with idleExpired := true } } := by
  show execIdleClockExpiry s = _
  simp [execIdleClockExpiry, expireIdleClock, hm, ht, ranFor_of h]

/-- The lane whose idle timer has run has no open frame, and keeps its band and its stream (R78). -/
theorem idle_lane {s : State} {n : Nat} (hn : n ≤ 6) (hl : s.lanes.length = 8) :
    ((settle (closeOpen n s)).lane n).openFrame = none ∧
    (s.calm → (settle (closeOpen n s)).bm = s.bm ∧ ((settle (closeOpen n s)).lane n).state = (s.lane n).state ∧
      ((settle (closeOpen n s)).lane n).act = (s.lane n).act ∧ ((settle (closeOpen n s)).lane n).band = (s.lane n).band ∧
      ((settle (closeOpen n s)).lane n).nextLba = (s.lane n).nextLba) := by
  have after := settle_settles (m := n) (by omega) (closeOpen n s)
  obtain ⟨hstate, hact, hband, hnext, -⟩ := closeOpen_standing n n s
  refine ⟨after.openFrame (closeOpen_openFrame (by omega)), fun hcalm => ?_⟩
  have bands := settle_bm_of_calm hcalm (fun m => .inl (closeOpen_standing n m s).1) (by rw [closeOpen_job])
  obtain ⟨hwait, hfault⟩ := stuckLanes_eq_nil.1 hcalm.2.1 n (by omega)
  have rests := after.rests (by rwa [hstate]) (by rwa [hstate])
  simp only [Prod.mk.injEq, hstate, hact, hband, hnext] at rests
  exact ⟨bands.trans (closeOpen_bm n s), rests⟩

/-- The open frame that IDLE_LIMIT closes takes the next sequence (R75, R76). -/
theorem idle_frame {s : State} {n id : Nat} (ho : (s.lane n).openFrame = some id) (hid : id < s.pool.frames.length)
    (hp : (s.frame id).promises = 0) (hb : (s.frame id).bound.isSome) (hq : s.quiet) (hs : s.seq.getD 0 + 1 < 2 ^ 48 - 65536) :
    let t := settle (closeOpen n s)
    (t.frame id).closed = true ∧ (t.frame id).seq = some (s.seq.getD 0) ∧ t.seq = some (s.seq.getD 0 + 1) := by
  obtain ⟨l, hl⟩ := Option.isSome_iff_exists.1 hb
  have sealed := closeOpen_eq ho hp
  generalize hu : s.modLane n (fun c => { c with openFrame := none, idleTimer := none }) = u at sealed
  have hseq : u.seq = s.seq := by rw [← hu]; rfl
  have hlimit : u.seqLimit = s.seqLimit := by rw [← hu]; rfl
  have hframe : u.frame id = s.frame id := by rw [← hu]; rfl
  have hlen : id < u.pool.frames.length := by rw [← hu]; exact hid
  have below : ¬ Config.sequenceLimit ≤ s.seq.getD 0 + 1 := by simp only [Config.sequenceLimit]; omega
  have quiet : (closeOpen n s).quiet := closeOpen_quiet hq (by
    rw [sealed, (sealFrame_seq n id u).2, hseq, hlimit]
    simp [below])
  have record := sealFrame_frame (n := n) hlen (hframe ▸ hl)
  dsimp only
  rw [settle_of_quiet quiet, sealed, record, (sealFrame_seq n id u).1, ← hseq]
  exact ⟨rfl, rfl, rfl⟩

/-- Settles O29: each expiry that is due is `closeOpen`, `giveUpLane` or the expired idle clock, and what follows leaves the
lane as it then is. -/
theorem timersThatRunOutAct : Obligations.TimersThatRunOutAct := by
  refine ⟨fun s n t0 hn hl ht hran => ?_, fun s n t0 hn hl ho ht hran => ?_, fun s t0 hm ht hran => idleClockExpiry_eq hm ht hran⟩
  · obtain ⟨hopen, hcalm⟩ := idle_lane hn hl
    exact ⟨_, idleTimerExpiry_eq hn ht hran, hopen, hcalm, fun id hid hlt hp hb hq hs => idle_frame hid hlt hp hb hq hs⟩
  · refine ⟨_, releaseTimerExpiry_eq hn ho ht hran, ?_⟩
    obtain ⟨hstate, hact, hband, hnext, hframe⟩ := giveUpLane_lane (n := n) (s := s) (by omega)
    have after := settle_settles (m := n) (by omega) (giveUpLane n s)
    have rests := after.rests (by simp [hstate]) (by simp [hstate])
    simp only [Prod.mk.injEq, hstate, hact, hband, hnext] at rests
    have parked : ∀ a, (∀ b, ¬ s.appends n a b) → ((giveUpLane n s).bm.get a).parked = (s.bm.get a).parked := fun a h => by
      by_cases hx : ∃ x y, s.appends n x y
      · obtain ⟨x, y, hxy⟩ := hx
        exact (giveUpLane_gives hxy).2.2 a (fun hax => h y (hax ▸ hxy))
      · rw [giveUpLane_keeps (fun x y hxy => hx ⟨x, y, hxy⟩)]
    have bands : ∀ a b, ¬ s.appends n a b → (giveUpLane n s).bandRec a b = s.bandRec a b := fun a b h => by
      by_cases hx : ∃ x y, s.appends n x y
      · obtain ⟨x, y, hxy⟩ := hx
        refine (giveUpLane_gives hxy).2.1 a b ?_
        by_contra hab
        simp only [not_or, not_not] at hab
        obtain ⟨rfl, rfl⟩ := hab
        exact h hxy
      · exact bandRec_congr (giveUpLane_keeps (fun x y hxy => hx ⟨x, y, hxy⟩)) a b
    refine ⟨rests.1, rests.2.1, rests.2.2.1, rests.2.2.2, after.openFrame hframe, fun a b h => (giveUpLane_gives h).1, bands, parked,
      fun hcalm => settle_bm_of_calm hcalm (fun m => ?_) ?_⟩
    · by_cases hm : n = m
      · exact .inr (hm ▸ hstate)
      · exact .inl (by rw [giveUpLane_lane_ne hm])
    · show (giveUpLaneBand n (closeOpen n s)).rc.job = _
      have rc : ∀ u : State, (giveUpLaneBand n u).rc = u.rc := fun u => by
        unfold giveUpLaneBand giveUpBand park
        dsimp only
        repeat' split
        all_goals rfl
      rw [rc, closeOpen_job]

end Sys2Proof.Machine
end

section
/-! CHECKPOINT and CLOSE_LANES (O50, R46, R80, R154, R189). -/

namespace Sys2Proof.Machine

/-! ## A command taken (R187) -/

theorem takeLen_of_hears {w : MaintWrite} {s : State} (h : s.hears w.addr) (hp : w.payload = []) (cmd : State → State) :
    takeLen w 0 cmd s = cmd s := by
  obtain ⟨haddr, hbusy⟩ := h
  have own : w.addr.toNat = s.ownAddress := by
    rw [haddr, State.ownAddress]
    cases s.straps.addr0 <;> cases s.straps.addr1 <;> rfl
  simp [takeLen, take, own, hbusy, hp]

theorem checkpoint_eq {w : MaintWrite} {s : State} (h : s.hears w.addr) (hp : w.payload = []) : exec (.checkpoint w) s =
    .next (if s.service = .ready then runCheckpoint s else respond .wrongState [] s) := by
  show execCheckpoint w s = _
  rw [execCheckpoint, takeLen_of_hears h hp]

theorem closeLanes_eq {w : MaintWrite} {s : State} (h : s.hears w.addr) (hp : w.payload = []) : exec (.closeLanes w) s =
    .next (if s.service = .ready then settle (respond .good [] (s.forAny s.lanesToClose closeLane))
      else respond .wrongState [] s) := by
  show execCloseLanes w s = _
  rw [execCloseLanes, takeLen_of_hears h hp]

/-! ## One lane closed (R80) -/

/-- Lane n gives up its band at once when CLOSE_LANES reaches it (R80): it is OPEN, appends to the band, and is not the lane of
the data phase. -/
def State.gives (s : State) (n : Nat) (a : Actuator) (b : Nat) : Prop :=
  (s.lane n).state = .opened ∧ (∀ p, s.phase = some p → p.lane ≠ n) ∧ s.appends n a b

theorem phaseLane_ne {s : State} {n : Nat} (h : ∀ p, s.phase = some p → p.lane ≠ n) : s.phase.map (fun p => p.lane) ≠ some n := by
  cases hp : s.phase with
  | none => simp
  | some p => simpa using h p hp

theorem closeLane_opened {s : State} {n : Nat} (h : (s.lane n).state = .opened) (hp : ∀ p, s.phase = some p → p.lane ≠ n) :
    closeLane s n = giveUpLane n s := by
  simp [closeLane, h, phaseLane_ne hp]

theorem closeLane_later {s : State} {n : Nat}
    (h : (s.lane n).state = .waiting ∨ ((s.lane n).state = .opened ∧ ∃ p, s.phase = some p ∧ p.lane = n)) :
    closeLane s n = s.modLane n (fun c => { c with giveUpLater := true }) := by
  rcases h with h | ⟨h, p, hp, rfl⟩
  · simp [closeLane, h]
  · simp [closeLane, h, hp]

theorem closeLane_idle {s : State} {n : Nat} (ho : (s.lane n).state ≠ .opened) (hw : (s.lane n).state ≠ .waiting) :
    closeLane s n = s := by
  unfold closeLane
  cases h : (s.lane n).state <;> simp_all

/-- The three things that CLOSE_LANES can do to a lane (R80). -/
theorem closeLane_cases (s : State) (n : Nat) :
    ((s.lane n).state = .opened ∧ (∀ p, s.phase = some p → p.lane ≠ n) ∧ closeLane s n = giveUpLane n s) ∨
    (((s.lane n).state = .waiting ∨ ((s.lane n).state = .opened ∧ ∃ p, s.phase = some p ∧ p.lane = n)) ∧
      closeLane s n = s.modLane n (fun c => { c with giveUpLater := true })) ∨
    ((s.lane n).state ≠ .opened ∧ (s.lane n).state ≠ .waiting ∧ closeLane s n = s) := by
  by_cases ho : (s.lane n).state = .opened
  · by_cases hp : ∀ p, s.phase = some p → p.lane ≠ n
    · exact .inl ⟨ho, hp, closeLane_opened ho hp⟩
    · have hp : ∃ p, s.phase = some p ∧ p.lane = n := by
        simpa only [ne_eq, not_forall, not_not, exists_prop] using hp
      exact .inr (.inl ⟨.inr ⟨ho, hp⟩, closeLane_later (.inr ⟨ho, hp⟩)⟩)
  · by_cases hw : (s.lane n).state = .waiting
    · exact .inr (.inl ⟨.inl hw, closeLane_later (.inl hw)⟩)
    · exact .inr (.inr ⟨ho, hw, closeLane_idle ho hw⟩)

theorem giveUpLane_rc (n : Nat) (s : State) : (giveUpLane n s).rc = s.rc := by
  have band : ∀ u : State, (giveUpLaneBand n u).rc = u.rc := fun u => by
    unfold giveUpLaneBand giveUpBand park
    dsimp only
    repeat' split
    all_goals rfl
  exact (band _).trans (closeOpen_job n s)

theorem closeLane_lane_ne {n m : Nat} (h : n ≠ m) (s : State) : (closeLane s n).lane m = s.lane m := by
  rcases closeLane_cases s n with ⟨-, -, hs⟩ | ⟨-, hs⟩ | ⟨-, -, hs⟩ <;> rw [hs]
  · exact giveUpLane_lane_ne h s
  · exact lane_modLane_ne h s _

theorem closeLane_rc (s : State) (n : Nat) : (closeLane s n).rc = s.rc := by
  rcases closeLane_cases s n with ⟨-, -, hs⟩ | ⟨-, hs⟩ | ⟨-, -, hs⟩ <;> rw [hs]
  · exact giveUpLane_rc n s
  · rfl

theorem closeLane_state (s : State) (n m : Nat) (h : n < s.lanes.length) :
    ((closeLane s n).lane m).state = (s.lane m).state ∨ ((closeLane s n).lane m).state = .closed := by
  by_cases hn : n = m
  · subst hn
    rcases closeLane_cases s n with ⟨-, -, hs⟩ | ⟨-, hs⟩ | ⟨-, -, hs⟩ <;> rw [hs]
    · exact .inr (giveUpLane_lane h).1
    · exact .inl (modLane_keeps Lane.state (by exact fun _ => rfl) s n n)
    · exact .inl rfl
  · exact .inl (by rw [closeLane_lane_ne hn])

/-- A lane that gives no band up at once leaves all bands alone. -/
theorem closeLane_keeps {s : State} {n : Nat} (h : ∀ a b, ¬ s.gives n a b) : (closeLane s n).bm = s.bm := by
  rcases closeLane_cases s n with ⟨ho, hp, hs⟩ | ⟨-, hs⟩ | ⟨-, -, hs⟩ <;> rw [hs]
  · exact giveUpLane_keeps (fun a b hab => h a b ⟨ho, hp, hab⟩)
  · rfl

/-! ## Lane after lane -/

/-- v is s with the lanes of `done` closed by CLOSE_LANES, in some order. -/
structure ClosedLanes (s : State) (done : List Nat) (v : State) : Prop where
  phase : v.phase = s.phase
  length : v.lanes.length = s.lanes.length
  job : v.rc.job = s.rc.job
  states : ∀ n, (v.lane n).state = (s.lane n).state ∨ (v.lane n).state = .closed
  waits : ∀ n, n ∉ done → v.lane n = s.lane n
  closed : ∀ n ∈ done, (s.lane n).state = .opened → (∀ p, s.phase = some p → p.lane ≠ n) →
    (v.lane n).state = .closed ∧ (v.lane n).act = none ∧ (v.lane n).band = none ∧ (v.lane n).openFrame = none
  later : ∀ n ∈ done, ((s.lane n).state = .waiting ∨ ((s.lane n).state = .opened ∧ ∃ p, s.phase = some p ∧ p.lane = n)) →
    (v.lane n).giveUpLater = true
  given : ∀ a b, (∃ n ∈ done, s.gives n a b) → v.bandRec a b = (s.bandRec a b).givenUp
  kept : ∀ a b, (∀ n ∈ done, ¬ s.gives n a b) → v.bandRec a b = s.bandRec a b
  parked : ∀ a, ∃ l : List Nat, l.Nodup ∧ (v.bm.get a).parked = (s.bm.get a).parked ++ l ∧
    ∀ b, b ∈ l ↔ (∃ n ∈ done, s.gives n a b) ∧ (s.bandRec a b).bound = 0

theorem ClosedLanes.start (s : State) (k : Nat) : ClosedLanes s [] { s with freeCount := k } where
  phase := rfl
  length := rfl
  job := rfl
  states _ := .inl rfl
  waits _ _ := rfl
  closed := by simp
  later := by simp
  given := by simp
  kept _ _ _ := rfl
  parked a := ⟨[], List.nodup_nil, (List.append_nil _).symm, by simp⟩

section
variable {s v : State} {done : List Nat} {k : Nat} (h : ClosedLanes s done v)
include h

/-- A lane not yet reached gives the same band up as at the start: no other lane owned it. -/
theorem ClosedLanes.gives_iff (hk : k ∉ done) (a : Actuator) (b : Nat) : v.gives k a b ↔ s.gives k a b := by
  have lane := h.waits k hk
  unfold State.gives State.appends
  rw [lane, h.phase]
  by_cases hg : ∃ n ∈ done, s.gives n a b
  · obtain ⟨n, hn, -, -, hband⟩ := id hg
    have taken : (v.bandRec a b).owner = none := by rw [h.given a b hg]; rfl
    have other : (s.bandRec a b).owner ≠ some k := by
      rw [hband.2.2.2.2]
      rintro ⟨⟩
      exact hk hn
    simp [taken, other]
  · have same := h.kept a b (fun n hn hs => hg ⟨n, hn, hs⟩)
    rw [same]
    have inRange : ∀ u : State, (u.bandRec a b).state = .opened → b < (u.bm.get a).bands.length := fun u => lt_of_opened
    constructor
    · rintro ⟨h1, h2, h3, h4, -, h5, h6⟩
      exact ⟨h1, h2, h3, h4, inRange s h5, h5, h6⟩
    · rintro ⟨h1, h2, h3, h4, -, h5, h6⟩
      exact ⟨h1, h2, h3, h4, inRange v (same ▸ h5), h5, h6⟩

/-- The bands after the next lane, where it gives up band b of a. -/
theorem ClosedLanes.bands_given (hk : k ∉ done) {a : Actuator} {b : Nat} (hg : s.gives k a b) :
    (closeLane v k).bandRec a b = (s.bandRec a b).givenUp ∧
    (∀ x y, x ≠ a ∨ y ≠ b → (closeLane v k).bandRec x y = v.bandRec x y) ∧
    ((closeLane v k).bm.get a).parked = (v.bm.get a).parked ++ (if (s.bandRec a b).bound = 0 then [b] else []) ∧
    ∀ x, x ≠ a → ((closeLane v k).bm.get x).parked = (v.bm.get x).parked := by
  obtain ⟨hopen, hphase, happ⟩ := (h.gives_iff hk a b).2 hg
  have same : v.bandRec a b = s.bandRec a b := h.kept a b (fun n hn hs => by
    have := hs.2.2.2.2.2.2.symm.trans hg.2.2.2.2.2.2
    exact hk (Option.some.inj this ▸ hn))
  obtain ⟨⟨hrec, hlist⟩, hother, hlists⟩ := giveUpLane_gives happ
  rw [closeLane_opened hopen hphase, ← same]
  exact ⟨hrec, hother, hlist, hlists⟩

/-- The bands after the next lane, where it gives none up. -/
theorem ClosedLanes.bands_kept (hk : k ∉ done) (hg : ¬ ∃ a b, s.gives k a b) : (closeLane v k).bm = v.bm :=
  closeLane_keeps (fun a b hv => hg ⟨a, b, (h.gives_iff hk a b).1 hv⟩)

theorem ClosedLanes.step_given (hk : k ∉ done) (a : Actuator) (b : Nat) (hgive : ∃ n ∈ k :: done, s.gives n a b) :
    (closeLane v k).bandRec a b = (s.bandRec a b).givenUp := by
  obtain ⟨n, hn, hgive⟩ := hgive
  by_cases hg : ∃ a b, s.gives k a b
  · obtain ⟨x, y, hxy⟩ := hg
    obtain ⟨hrec, hother, -, -⟩ := h.bands_given hk hxy
    by_cases hab : a = x ∧ b = y
    · obtain ⟨rfl, rfl⟩ := hab
      exact hrec
    · rw [hother a b (by tauto)]
      rcases List.mem_cons.1 hn with rfl | hn
      · exact absurd (appends_unique hxy.2.2 hgive.2.2) hab
      · exact h.given a b ⟨n, hn, hgive⟩
  · rcases List.mem_cons.1 hn with rfl | hn
    · exact absurd ⟨a, b, hgive⟩ hg
    · rw [bandRec_congr (h.bands_kept hk hg)]
      exact h.given a b ⟨n, hn, hgive⟩

theorem ClosedLanes.step_kept (hk : k ∉ done) (a : Actuator) (b : Nat) (hnone : ∀ n ∈ k :: done, ¬ s.gives n a b) :
    (closeLane v k).bandRec a b = s.bandRec a b := by
  have before := h.kept a b (fun n hn => hnone n (by simp [hn]))
  by_cases hg : ∃ a b, s.gives k a b
  · obtain ⟨x, y, hxy⟩ := hg
    obtain ⟨-, hother, -, -⟩ := h.bands_given hk hxy
    refine (hother a b ?_).trans before
    by_contra hab
    simp only [not_or, not_not] at hab
    obtain ⟨rfl, rfl⟩ := hab
    exact hnone k (by simp) hxy
  · exact (bandRec_congr (h.bands_kept hk hg) a b).trans before

theorem ClosedLanes.step_parked (hk : k ∉ done) (a : Actuator) :
    ∃ l : List Nat, l.Nodup ∧ ((closeLane v k).bm.get a).parked = (s.bm.get a).parked ++ l ∧
      ∀ b, b ∈ l ↔ (∃ n ∈ k :: done, s.gives n a b) ∧ (s.bandRec a b).bound = 0 := by
  obtain ⟨l, hnodup, hparked, hmem⟩ := h.parked a
  by_cases hg : ∃ y, s.gives k a y
  · obtain ⟨y, hxy⟩ := hg
    obtain ⟨-, -, hlist, -⟩ := h.bands_given hk hxy
    have fresh : y ∉ l := fun hy => by
      obtain ⟨⟨n, hn, hgive⟩, -⟩ := (hmem y).1 hy
      have := hgive.2.2.2.2.2.2.symm.trans hxy.2.2.2.2.2.2
      exact hk (Option.some.inj this ▸ hn)
    refine ⟨l ++ (if (s.bandRec a y).bound = 0 then [y] else []), ?_, by rw [hlist, hparked, List.append_assoc], fun b => ?_⟩
    · split
      · rw [List.nodup_append]
        exact ⟨hnodup, by simp, fun b hb c hc => by rintro rfl; exact fresh (List.mem_singleton.1 hc ▸ hb)⟩
      · simpa using hnodup
    · simp only [List.mem_append, hmem, List.mem_cons, exists_eq_or_imp]
      by_cases hb : b = y
      · subst hb
        by_cases h0 : (s.bandRec a b).bound = 0 <;> simp [h0, hxy]
      · have : ¬ s.gives k a b := fun hgive => hb (appends_unique hxy.2.2 hgive.2.2).2
        by_cases h0 : (s.bandRec a y).bound = 0 <;> simp [h0, hb, this]
  · have same : ((closeLane v k).bm.get a).parked = (v.bm.get a).parked := by
      by_cases hx : ∃ x y, s.gives k x y
      · obtain ⟨x, y, hxy⟩ := hx
        exact (h.bands_given hk hxy).2.2.2 a (fun ha => hg ⟨y, ha ▸ hxy⟩)
      · rw [h.bands_kept hk hx]
    have other : ∀ b, ¬ s.gives k a b := fun b hgive => hg ⟨b, hgive⟩
    exact ⟨l, hnodup, by rw [same, hparked], fun b => by simp [hmem, other]⟩

theorem ClosedLanes.step (hk : k ∉ done) (hlt : k < s.lanes.length) : ClosedLanes s (k :: done) (closeLane v k) := by
  have lane := h.waits k hk
  have hlt' : k < v.lanes.length := h.length ▸ hlt
  have framed : (closeLane v k).phase = v.phase ∧ (closeLane v k).lanes.length = v.lanes.length := by
    have inner := closeLane_inner v k
    have outside := inner.outside
    have sizes := inner.sizes
    simp only [State.outside, Outside.mk.injEq] at outside
    simp only [State.sizes, Prod.mk.injEq] at sizes
    exact ⟨by simp [outside], sizes.1⟩
  have earlier : ∀ n ∈ done, (closeLane v k).lane n = v.lane n := fun n hn =>
    closeLane_lane_ne (fun hkn : k = n => hk (hkn ▸ hn)) v
  refine ⟨framed.1.trans h.phase, framed.2.trans h.length, by rw [closeLane_rc, h.job], fun n => ?_, fun n hn => ?_, fun n hn => ?_,
    fun n hn => ?_, h.step_given hk, h.step_kept hk, h.step_parked hk⟩
  · rcases closeLane_state v k n hlt' with hs | hs
    · exact (h.states n).imp (fun hv => hs.trans hv) (fun hv => hs.trans hv)
    · exact .inr hs
  · simp only [List.mem_cons, not_or] at hn
    rw [closeLane_lane_ne (Ne.symm hn.1), h.waits n hn.2]
  · rcases List.mem_cons.1 hn with rfl | hn
    · intro ho hp
      rw [closeLane_opened (by rwa [lane]) (by rwa [h.phase])]
      obtain ⟨h1, h2, h3, -, h5⟩ := giveUpLane_lane hlt'
      exact ⟨h1, h2, h3, h5⟩
    · rw [earlier n hn]
      exact h.closed n hn
  · rcases List.mem_cons.1 hn with rfl | hn
    · intro hw
      rw [closeLane_later (by rwa [lane, h.phase]), State.lane_modLane _ _ _ _ hlt', if_pos rfl]
    · rw [earlier n hn]
      exact h.later n hn

end

/-- CLOSE_LANES reaches each of its lanes once, whatever the order (R80). -/
theorem closeLanes_closed (s : State) (hl : s.lanes.length = 8) :
    ∃ done : List Nat, done.Perm s.lanesToClose ∧ ClosedLanes s done (s.forAny s.lanesToClose closeLane) := by
  have run : ∀ (l done : List Nat) (v : State), ClosedLanes s done v → (done.reverse ++ l).Nodup → (∀ k ∈ l, k < 8) →
      ClosedLanes s (l.reverse ++ done) (l.foldl closeLane v) := by
    intro l
    induction l with
    | nil => exact fun done v h _ _ => h
    | cons k l ih =>
      intro done v h hnodup hlt
      have hk : k ∉ done := fun hk => (List.nodup_append.1 hnodup).2.2 k (by simpa using hk) k (by simp) rfl
      have := ih (k :: done) _ (h.step hk (hl ▸ hlt k (by simp))) (by simpa using hnodup) (fun x hx => hlt x (by simp [hx]))
      simpa using this
  have hperm := anyOrder_perm s s.lanesToClose
  have hnodup : s.lanesToClose.Nodup := List.nodup_range.filter _
  have hlt : ∀ k ∈ (s.anyOrder s.lanesToClose).1, k < 8 := fun k hk => by
    have := hperm.mem_iff.1 hk
    simp only [State.lanesToClose, List.mem_filter, List.mem_range] at this
    omega
  have start : ClosedLanes s [] (s.anyOrder s.lanesToClose).2 := by
    unfold State.anyOrder
    split
    · exact ClosedLanes.start s s.freeCount
    · exact ClosedLanes.start s _
  refine ⟨(s.anyOrder s.lanesToClose).1.reverse ++ [], by simpa using (List.reverse_perm _).trans hperm, ?_⟩
  exact run _ [] _ start (by simpa using (hperm.nodup_iff).2 hnodup) hlt

/-- Settles O50: CHECKPOINT by its equation; CLOSE_LANES lane by lane (`ClosedLanes`), and what follows leaves the lanes it has
closed, and the give-ups that wait, as they are. -/
theorem checkpointAndCloseLanesCommands : Obligations.CheckpointAndCloseLanesCommands := by
  intro w s hears hpay
  rw [checkpoint_eq hears hpay, closeLanes_eq hears hpay]
  refine ⟨fun hs => by rw [if_neg hs, if_neg hs]; exact ⟨rfl, rfl⟩, fun hs => by rw [if_pos hs]; rfl, fun hs hl => ?_⟩
  rw [if_pos hs]
  obtain ⟨done, hperm, hclosed⟩ := closeLanes_closed s hl
  generalize s.forAny s.lanesToClose closeLane = v at hclosed
  have reached : ∀ n < 7, ((s.lane n).state = .opened ∨ (s.lane n).state = .waiting) → n ∈ done := fun n hn h => by
    rw [hperm.mem_iff]
    simpa [State.lanesToClose, hn] using h
  have lt_of_done : ∀ n ∈ done, n < 7 := fun n hn => by
    have := hperm.mem_iff.1 hn
    simp only [State.lanesToClose, List.mem_filter, List.mem_range] at this
    exact this.1
  have maint : (settle (respond .good [] v)).maint = (respond .good [] v).maint := by
    have := settle_framed (respond .good [] v)
    simp only [State.framed, Prod.mk.injEq] at this
    exact this.2.2.2.2.2
  refine ⟨respond .good [] v, rfl, by rw [maint]; rfl, by rw [maint]; rfl, fun n hn => ⟨fun ho hp => ?_, fun hw => ?_⟩, ?_, ?_, ?_, ?_⟩
  · obtain ⟨hstate, hact, hband, hframe⟩ := hclosed.closed n (reached n hn (.inl ho)) ho hp
    have after := settle_settles (m := n) (by omega) (respond .good [] v)
    have same : (respond .good [] v).lane n = v.lane n := rfl
    have rests := after.rests (by simp [same, hstate]) (by simp [same, hstate])
    simp only [Prod.mk.injEq, same, hstate, hact, hband] at rests
    exact ⟨rests.1, rests.2.1, rests.2.2.1, after.openFrame hframe⟩
  · have after := settle_settles (m := n) (by omega) (respond .good [] v)
    exact after.giveUpLater.trans (hclosed.later n (reached n hn (hw.elim .inr (fun h => .inl h.1))) hw)
  · rintro n a b ⟨hn, ho, hp, happ⟩
    exact hclosed.given a b ⟨n, reached n hn (.inl ho), ho, hp, happ⟩
  · intro a b h
    exact hclosed.kept a b (fun n hn hg => h n ⟨lt_of_done n hn, hg.1, hg.2.1, hg.2.2⟩)
  · intro a
    obtain ⟨l, hnodup, hparked, hmem⟩ := hclosed.parked a
    refine ⟨l, hnodup, hparked, fun b => (hmem b).trans ?_⟩
    constructor
    · rintro ⟨⟨n, hn, hg⟩, h0⟩
      exact ⟨⟨n, lt_of_done n hn, hg.1, hg.2.1, hg.2.2⟩, h0⟩
    · rintro ⟨⟨n, hn, ho, hp, happ⟩, h0⟩
      exact ⟨⟨n, reached n hn (.inl ho), ho, hp, happ⟩, h0⟩
  · exact fun hcalm => settle_bm_of_calm hcalm hclosed.states hclosed.job

end Sys2Proof.Machine
end


section
/-! A front block accepted into its slot (O18, R74, R180): what the acceptance does to the map, the earmarks and the data
phase, and that the block's data stands in its slot through everything the same event still does. -/

namespace Sys2Proof.Machine

/-! ## The data of a frame while nothing else works on frames -/

/-- The frames, the job and the read entries. -/
def State.held (s : State) := (s.pool, s.rc.job, s.rs.entries)

/-- With no job and no read entry in s there is none in t, and the filled slots of frame id hold what they held. -/
def Still (id : Nat) (s t : State) : Prop :=
  s.rc.job = none ∧ s.rs.entries = [] → (t.rc.job = none ∧ t.rs.entries = []) ∧
    (t.frame id).fill = (s.frame id).fill ∧ ∀ k < (s.frame id).fill, (t.frame id).payload.getD k 0 = (s.frame id).payload.getD k 0

theorem Still.refl {id : Nat} (s : State) : Still id s s := fun h => ⟨h, rfl, fun _ _ => rfl⟩

theorem Still.trans {id : Nat} {s t u : State} (h : Still id s t) (k : Still id t u) : Still id s u := by
  intro idle
  obtain ⟨idle', fill, data⟩ := h idle
  obtain ⟨idle'', fill', data'⟩ := k idle'
  exact ⟨idle'', fill'.trans fill, fun i hi => (data' i (fill ▸ hi)).trans (data i hi)⟩

theorem Still.of_held {id : Nat} {s t : State} (h : t.held = s.held) : Still id s t := by
  simp only [State.held, Prod.mk.injEq] at h
  obtain ⟨pool, job, entries⟩ := h
  have same := frame_of_pool pool id
  exact fun idle => ⟨⟨job.trans idle.1, entries.trans idle.2⟩, by rw [same], fun _ _ => by rw [same]⟩

theorem Still.foldl {id : Nat} {α : Type} {f : State → α → State} (h : ∀ s x, Still id s (f s x)) (l : List α) (s : State) :
    Still id s (l.foldl f s) := by
  induction l generalizing s with
  | nil => exact .refl s
  | cons x l ih => exact (h s x).trans (ih _)

theorem anyOrder_still {id : Nat} {α : Type} (s : State) (l : List α) : Still id s (s.anyOrder l).2 := by
  unfold State.anyOrder
  split <;> exact .of_held rfl

theorem Still.forAny {id : Nat} {α : Type} {f : State → α → State} (h : ∀ s x, Still id s (f s x)) (l : List α) (s : State) :
    Still id s (s.forAny l f) :=
  (anyOrder_still s l).trans (Still.foldl h _ _)

/-- A change of frame i that keeps g of it keeps g of every frame. -/
theorem frame_modFrame_at {β : Type} (g : Frame → β) {f : Frame → Frame} {s : State} {i : Nat} (h : g (f (s.frame i)) = g (s.frame i))
    (j : Nat) : g ((s.modFrame i f).frame j) = g (s.frame j) := by
  by_cases hj : j = i
  · subst hj
    by_cases hlen : j < s.pool.frames.length
    · rw [frame_modFrame_self _ hlen, h]
    · simp [State.frame, State.modFrame, List.getD_eq_getElem?_getD, hlen]
  · rw [State.frame_modFrame_ne _ _ hj]

theorem frame_modFrame_keeps {β : Type} (g : Frame → β) {f : Frame → Frame} (h : ∀ c, g (f c) = g c) (s : State) (i j : Nat) :
    g ((s.modFrame i f).frame j) = g (s.frame j) := frame_modFrame_at g (h _) j

theorem modFrame_still {id i : Nat} {s : State} {g : Frame → Frame}
    (hg : (g (s.frame i)).fill = (s.frame i).fill ∧
      ∀ k < (s.frame i).fill, (g (s.frame i)).payload.getD k 0 = (s.frame i).payload.getD k 0) : Still id s (s.modFrame i g) := by
  refine fun idle => ⟨idle, ?_⟩
  by_cases hi : i = id
  · subst hi
    by_cases hlen : i < s.pool.frames.length
    · rw [frame_modFrame_self _ hlen]
      exact hg
    · have same : (s.modFrame i g).frame i = s.frame i := by
        simp [State.frame, State.modFrame, List.getD_eq_getElem?_getD, hlen]
      rw [same]
      exact ⟨rfl, fun _ _ => rfl⟩
  · rw [State.frame_modFrame_ne _ _ (Ne.symm hi)]
    exact ⟨rfl, fun _ _ => rfl⟩

/-- The zeros of a close (R76) stand above the filled slots. -/
theorem padFrame_still (id i : Nat) (s : State) : Still id s (padFrame i s) := by
  refine modFrame_still ⟨rfl, fun k hk => ?_⟩
  generalize s.frame i = f at hk ⊢
  simp only [List.getD_eq_getElem?_getD, List.getElem?_append, List.getElem?_take, List.length_take]
  by_cases hlen : k < f.payload.length
  · simp [hk, hlen]
  · have out : f.payload[k]? = none := by simp; omega
    have notTaken : ¬ k < min f.fill f.payload.length := by omega
    simp only [out, notTaken, if_false, List.getElem?_replicate]
    split <;> rfl

theorem stampFrame_still (id n i : Nat) (s : State) : Still id s (stampFrame n i s) := by
  cases hb : (s.frame i).bound with
  | none =>
    simp only [stampFrame, hb]
    exact .of_held rfl
  | some l =>
    rw [stampFrame_eq hb]
    exact (Still.of_held rfl : Still id s (assignSeq s).2).trans (modFrame_still ⟨rfl, fun _ _ => rfl⟩)

theorem sealFrame_still (id n i : Nat) (s : State) : Still id s (sealFrame n i s) := by
  have closed := (padFrame_still id i s).trans (stampFrame_still id n i _)
  rw [sealFrame_eq]
  dsimp only
  split
  · exact closed
  · refine closed.trans (.of_held ?_)
    unfold joinQueue
    split <;> rfl

theorem closeFrame_still (id n i : Nat) (s : State) : Still id s (closeFrame n i s) := by
  have off : ∀ f, Still id s (s.modLane n f) := fun _ => .of_held rfl
  unfold closeFrame
  dsimp only
  split
  · exact (off _).trans (sealFrame_still id n i _)
  · exact (off _).trans (modFrame_still ⟨rfl, fun _ _ => rfl⟩)

theorem closeOpen_still (id n : Nat) (s : State) : Still id s (closeOpen n s) := by
  unfold closeOpen
  split
  · exact closeFrame_still id n _ s
  · exact .refl s

theorem dropAheadWhere_of_none {s : State} (h : s.rs.entries = []) (p : ReadEntry → Bool) : dropAheadWhere p s = s := by
  simp [dropAheadWhere, h]

theorem evacuate_still (id : Nat) (a : Actuator) (b : Nat) (s : State) : Still id s (evacuate a b s) := by
  intro idle
  have credited : ∀ x f, ((returnCredit a x (s.modBand a b f)).held = s.held) := fun x f => by
    unfold returnCredit
    split <;> rfl
  refine Still.of_held ?_ idle
  unfold evacuate
  dsimp only
  generalize hu : returnCredit a _ (s.modBand a b _) = u
  have same : u.held = s.held := hu ▸ credited _ _
  have fields := same
  simp only [State.held, Prod.mk.injEq] at fields
  rw [dropAheadWhere_of_none (fields.2.2.trans idle.2)]
  simp only [fields.2.1.trans idle.1, same]

theorem testEmptied_still (id : Nat) (s : State) (x : Actuator × Nat) : Still id s (testEmptied s x) := by
  unfold testEmptied
  dsimp only
  split
  · exact evacuate_still id _ _ s
  · exact .refl s

theorem evalMapPressure_held (s : State) : (evalMapPressure s).held = s.held := by
  unfold evalMapPressure
  repeat' split
  all_goals rfl

theorem commitTable_still (id : Nat) (v : List Extent) (s : State) : Still id s (commitTable v s) := by
  obtain ⟨bm, hb⟩ := retable_fields v s
  have tabled : Still id s (retable v s) := .of_held (by rw [hb]; rfl)
  rw [commitTable_eq]
  split
  · exact tabled
  · exact (tabled.trans (.foldl (testEmptied_still id) _ _)).trans (.of_held (evalMapPressure_held _))

/-! ## What follows a command, while no lane is FAULTED -/

theorem refuseHeads_held (fuel : Nat) (s : State) : (refuseHeads fuel s).held = s.held := by
  induction fuel generalizing s with
  | zero => rfl
  | succ fuel ih => grind [refuseHeads, complete, popIntake, State.held, State.send]

theorem gateEdge_still (id : Nat) (s : State) : Still id s (gateEdge s) := by
  unfold gateEdge
  split
  · exact .refl s
  · split
    · have on : Still id s { s with gate := true } := .of_held rfl
      exact (on.trans (.forAny (fun u n => closeOpen_still id n u) _ _)).trans (.of_held (refuseHeads_held _ _))
    · split
      · exact fun idle => Still.of_held (by simp [deassertGate, State.modJob, State.held, idle.1]) idle
      · exact .refl s

theorem evalBandPressure_held (a : Actuator) (s : State) : (evalBandPressure a s).held = s.held := by
  unfold evalBandPressure
  repeat' split
  all_goals rfl

theorem obtainBand_held (n : Nat) (s : State) : (obtainBand n s).2.held = s.held := by
  have allocated : ∀ a, (allocate n a s).2.held = s.held := fun a => by
    unfold allocate
    repeat' split
    all_goals first
      | rfl
      | exact evalBandPressure_held _ _
  have asked : (askBand n s).2.held = s.held := by grind [askBand]
  unfold obtainBand
  split <;> (rename_i heq; rw [heq] at asked; exact asked)

theorem retryWaiting_still (id : Nat) (s : State) (n : Nat) : Still id s (retryWaiting s n) := by
  have wakes : ∀ u : State, Still id u (u.modLane n (fun c => { c with state := .opened })) := fun u => .of_held rfl
  have obtained : Still id s (obtainBand n s).2 := .of_held (obtainBand_held n s)
  grind [retryWaiting, Still.refl, Still.trans]

theorem still_foldl_unfaulted {id : Nat} {α : Type} {f : State → α → State} {l : List α} {s : State}
    (h : ∀ x ∈ l, ∀ u : State, u.unfaulted → Still id u (f u x) ∧ Work u (f u x)) (hs : s.unfaulted) :
    Still id s (l.foldl f s) := by
  induction l generalizing s with
  | nil => exact .refl s
  | cons x l ih =>
    obtain ⟨still, work⟩ := h x (by simp) s hs
    exact still.trans (ih (fun y hy => h y (by simp [hy])) (work.unfaulted hs))

theorem informLanes_still (id : Nat) {s : State} (hs : s.unfaulted) : Still id s (informLanes s) := by
  have ordered := anyOrder_work s s.stuckLanes
  refine (anyOrder_still s s.stuckLanes).trans ?_
  refine still_foldl_unfaulted (fun n hn u hu => ?_) (ordered.unfaulted hs)
  have lane : n < 8 := List.mem_range.1 (List.mem_filter.1 (mem_anyOrder hn)).1
  have notFaulted : retryFaulted u n = u := by rw [retryFaulted, if_neg (hu n lane)]
  rw [notFaulted]
  exact ⟨retryWaiting_still id u n, retryWaiting_work u n⟩

theorem refreshWaits_still (id : Nat) (s : State) : Still id s (refreshWaits s) := .of_held rfl

theorem pump_still (id : Nat) (s : State) : Still id s (pump s) :=
  fun idle => by
    rw [pump_of_none idle.1]
    exact Still.refl s idle

theorem settleRound_still (id : Nat) {s : State} (hs : s.unfaulted) : Still id s (settleRound s) := by
  have level := gateEdge_work s
  have informed := level.trans (informLanes_work (level.unfaulted hs))
  have pumped := informed.trans (pump_work _)
  have first := (gateEdge_still id s).trans (informLanes_still id (level.unfaulted hs))
  have second := (first.trans (pump_still id _)).trans (informLanes_still id (pumped.unfaulted hs))
  exact (second.trans (pump_still id _)).trans (refreshWaits_still id _)

theorem settle_still (id : Nat) {s : State} (hs : s.unfaulted) : Still id s (settle s) := by
  have once := settleRound_still id hs
  unfold settle
  dsimp only
  split
  · exact once
  · exact once.trans (settleRound_still id ((settleRound_work hs).unfaulted hs))

/-! ## The end of the data phase -/

theorem endPhase_kept_of_phase {s : State} {p : DataPhase} (h : s.phase = some p) :
    Inner { s with phase := none } (endPhase s) ∧ Work { s with phase := none } (endPhase s) := by
  simp only [endPhase, h]
  exact ⟨((((leavePhase_inner _ _).trans (lateGiveUps_inner _)).trans (modTag_inner _ _ _)).trans (popIntake_inner _)).trans
      ((checkComplete_inner _ _).trans (refuseTurns_inner _)),
    ((((leavePhase_work _ _).trans (lateGiveUps_work _)).trans (modTag_work _ _ _)).trans (popIntake_work _)).trans
      ((checkComplete_work _ _).trans (refuseTurns_work _))⟩

/-- What the test of a data phase's end leaves alone, and the phase it leaves (R101). -/
theorem testPhaseEnd_of_phase {s : State} {p : DataPhase} (h : s.phase = some p) (hs : s.unfaulted) :
    (testPhaseEnd s).unfaulted ∧ (testPhaseEnd s).extents = s.extents ∧ (testPhaseEnd s).earmarks = s.earmarks ∧
    (testPhaseEnd s).phase = (if p.over then none else some p) ∧ (p.over = false → testPhaseEnd s = s) := by
  unfold testPhaseEnd
  simp only [h]
  cases hover : p.over with
  | false => exact ⟨hs, rfl, rfl, h, fun _ => rfl⟩
  | true =>
    obtain ⟨inner, work⟩ := endPhase_kept_of_phase h
    have outside := inner.outside
    simp only [State.outside, Outside.mk.injEq] at outside
    exact ⟨work.unfaulted (fun n hn => hs n hn), work.extents, by simp [outside], by simp [outside], nofun⟩

/-! ## The acceptance of a block -/

/-- A frame with the block in its slot and the promise kept, and a DURABLE WRITE among its waiters (R74). -/
def takeBlock (p : DataPhase) (u : Pull) (data : Block) (s : State) (f : Frame) : Frame :=
  let durable := match s.tag p.tag with
    | some e => e.durable
    | none => false
  { f with payload := f.payload.set u.slot data, promises := f.promises - 1,
           waiters := if durable && !f.waiters.contains p.tag then f.waiters ++ [p.tag] else f.waiters }

/-- The state with the block in its slot, the earmark returned and the WRITE's count one higher (R74), before the block is
placed. -/
def filled (p : DataPhase) (u : Pull) (data : Block) (s : State) : State :=
  ({ s.modFrame u.frame (takeBlock p u data s) with earmarks := s.earmarks - 1 }).modPhase
    (fun p => { p with accepted := p.accepted + 1, unanswered := p.unanswered.tail })

/-- What an acceptance does after the Place of its block. -/
def afterPlace (p : DataPhase) (u : Pull) (l : SegLoc) (s : State) : State :=
  closeAtAcceptance u (acceptLane u (decide (p.lane = u.lane)) (if u.lane ≤ 5 then chargeCredit l.act s else s))

theorem acceptBlock_eq {p : DataPhase} {u : Pull} {data : Block} {s : State} {l : SegLoc}
    (h : (s.frame u.frame).bound = some l) :
    acceptBlock p u data s = afterPlace p u l (place u.lba (l.at u.slot) (filled p u data s)).2 := by
  have bound : ((filled p u data s).frame u.frame).bound = some l :=
    (frame_modFrame_keeps (f := takeBlock p u data s) (fun f => f.bound) (by exact fun _ => rfl) s u.frame u.frame).trans h
  have byBound : acceptBlock p u data s = match ((filled p u data s).frame u.frame).bound with
    | none => filled p u data s
    | some l => afterPlace p u l (place u.lba (l.at u.slot) (filled p u data s)).2 := rfl
  rw [byBound, bound]

theorem afterPlace_inner (p : DataPhase) (u : Pull) (l : SegLoc) (s : State) : Inner s (afterPlace p u l s) := by
  unfold afterPlace
  refine Inner.trans ?_ ((acceptLane_inner _ _ _).trans (closeAtAcceptance_inner _ _))
  split
  · exact chargeCredit_inner _ _
  · exact .refl s

theorem afterPlace_work (p : DataPhase) (u : Pull) (l : SegLoc) (s : State) : Work s (afterPlace p u l s) := by
  unfold afterPlace
  refine Work.trans ?_ ((acceptLane_work _ _ _).trans (closeAtAcceptance_work _ _))
  split
  · exact chargeCredit_work _ _
  · exact .refl s

theorem afterPlace_still (id : Nat) (p : DataPhase) (u : Pull) (l : SegLoc) (s : State) : Still id s (afterPlace p u l s) := by
  have charged : Still id s (if u.lane ≤ 5 then chargeCredit l.act s else s) := .of_held (by
    unfold chargeCredit
    repeat' split
    all_goals rfl)
  have taken : ∀ v : State, Still id v (acceptLane u (decide (p.lane = u.lane)) v) := fun _ => .of_held rfl
  have closed : ∀ v : State, Still id v (closeAtAcceptance u v) := fun v => by
    have sealed := sealFrame_still id u.lane u.frame v
    have closing := closeFrame_still id u.lane u.frame v
    grind [closeAtAcceptance, Still.refl]
  exact (charged.trans (taken _)).trans (closed _)

theorem filled_frame {p : DataPhase} {u : Pull} {data : Block} {s : State} (hid : u.frame < s.pool.frames.length) :
    (filled p u data s).frame u.frame = takeBlock p u data s (s.frame u.frame) :=
  frame_modFrame_self (takeBlock p u data s) hid

/-- Settles O18: the Place has the two records its earmark kept, and nothing after it in the event touches the map. -/
theorem writeDataPlacesBlock : Obligations.WriteDataPlacesBlock := by
  unfold Obligations.WriteDataPlacesBlock
  intro tag data s p u us l hp htag hu hbound hslot hear hroom htable hs
  have exec_eq : exec (.writeData tag data) s = .next (settle (testPhaseEnd (acceptBlock p u data s))) := by
    simp only [exec, execWriteData, hp, hu, htag, if_true]
  have phased : (filled p u data s).phase = some { p with accepted := p.accepted + 1, unanswered := us } := by
    simp [filled, State.modPhase, hp, hu]
  have free : 2 ≤ (filled p u data s).freeRecords := by
    have count : (filled p u data s).freeRecords = 262144 - s.extents.length - 2 * (s.earmarks - 1) := rfl
    omega
  obtain ⟨v, hv⟩ := exists_remap htable s.geom free u.lba (.media (l.at u.slot))
  have placed : acceptBlock p u data s = afterPlace p u l (commitTable v (filled p u data s)) := by
    rw [acceptBlock_eq hbound, place]
    simp only [show (filled p u data s).geom = s.geom from rfl, show (filled p u data s).extents = s.extents from rfl, hv]
  have mapped := lookup_remap htable hv
  have inner : Inner (filled p u data s) (acceptBlock p u data s) := by
    rw [placed]
    exact (commitTable_inner _ _ (fun _ => remap_ok htable hv)).trans (afterPlace_inner _ _ _ _)
  have outside := inner.outside
  simp only [State.outside, Outside.mk.injEq] at outside
  have extents : (acceptBlock p u data s).extents = v := by
    rw [placed, (afterPlace_work _ _ _ _).extents, commitTable_extents]
  have unfaulted : (acceptBlock p u data s).unfaulted := by
    rw [acceptBlock_eq hbound]
    exact ((place_mapWork _ _ _).trans (afterPlace_work _ _ _ _).mapWork).unfaulted (fun n hn => hs n hn)
  have phase : (acceptBlock p u data s).phase = some { p with accepted := p.accepted + 1, unanswered := us } := by
    rw [← phased]
    simp [outside]
  have earmarks : (acceptBlock p u data s).earmarks = s.earmarks - 1 := by
    simp [outside, filled, State.modPhase]
  obtain ⟨tested, extents', earmarks', phase', same⟩ := testPhaseEnd_of_phase phase unfaulted
  have framed := settle_framed (testPhaseEnd (acceptBlock p u data s))
  simp only [State.framed, Prod.mk.injEq] at framed
  obtain ⟨-, -, settledEarmarks, settledPhase, -⟩ := framed
  have settledMap : (settle (testPhaseEnd (acceptBlock p u data s))).extents = v :=
    ((settle_work tested).extents.trans extents').trans extents
  refine ⟨_, exec_eq, ?_, ?_, settledEarmarks.trans (earmarks'.trans earmarks), ?_, ?_⟩
  · rw [settledMap, mapped, if_pos rfl]
    exact congrArg Mapped.media (Loc.further_zero hslot)
  · intro x hx
    rw [settledMap, mapped, if_neg hx]
  · rw [settledPhase, phase']
    simp [DataPhase.over]
  · intro hopen hjob hentries hsizes hid hlen hfill
    rw [settledPhase, phase'] at hopen
    have going : ¬ DataPhase.over _ = true := fun ended => hopen (if_pos ended)
    rw [same (by simpa using going)]
    have pool : u.frame < s.pool.frames.length := by
      rw [hsizes.2.2]
      exact hid
    have frame := filled_frame (p := p) (data := data) pool
    have still : Still u.frame (filled p u data s) (settle (acceptBlock p u data s)) := by
      refine Still.trans ?_ (settle_still _ unfaulted)
      rw [placed]
      exact (commitTable_still _ _ _).trans (afterPlace_still _ _ _ _ _)
    obtain ⟨-, -, kept⟩ := still ⟨hjob, hentries⟩
    rw [kept u.slot (by rw [frame]; exact hfill), frame]
    simp [takeBlock, List.getD_eq_getElem?_getD, hlen, hslot]

end Sys2Proof.Machine
end


section
/-! O27 fails: a notice's record may name the tag of another FLUSH, which can complete before its own record is met. The
FLUSHes that recorded it are then not told, and one of them waits for ever.

The state below has a notice of two records whose tags 0 and 1 are FLUSHes that recorded each other, and the FLUSH of tag 2
recorded both. Whichever record comes first completes the other FLUSH, so tag 2 keeps one of them. -/

namespace Sys2Proof.Machine

/-- A FLUSH that waits for these RELEASEs. -/
def flushOf (releases : List Nat) : TagEntry := ⟨.flush, 0, 0, false, .accepted, 0, none, releases, false⟩

/-- The notice, in frame 0, with a record for tag 0 and one for tag 1. -/
def crossNotice : Notice := ⟨[⟨0, 1, 0, some 0⟩, ⟨1, 1, 1, some 1⟩], none, true, 0⟩

/-- Its place in the ring queue. -/
def crossSeg : RingSeg := ⟨.notice, 0, 0⟩

/-- Its write, in flight. -/
def crossOp : Op := ⟨.segmentWrite, 0, .ckpt, ⟨.A, .ckring, 0, 0⟩, 1, .through, 0, some 0, none, false, true, false⟩

/-- Tags 0 and 1 recorded each other, and tag 2 recorded both. -/
def crossed : State :=
  { State.reset with
    service := .ready
    tags := [some (flushOf [1]), some (flushOf [0]), some (flushOf [0, 1])] ++ List.replicate 61 none
    ports := ⟨{ Port.fresh with up := true, op := some crossOp }, Port.fresh⟩
    ck := { Ckpt.fresh with queue := [crossSeg], notice := some crossNotice } }

/-- The state in which the records are met. -/
def crossedOpen : State := { (unqueueRing 0 (endOp .A crossed)) with ck := { Ckpt.fresh with notice := none } }

theorem ringWritten_crossed : ringWritten crossSeg (endOp .A crossed) =
    takeBatch (crossedOpen.forAny [0, 1] (completeRelease true)) := by
  rfl

theorem forAny_pair {α : Type} (s : State) (a b : α) (f : State → α → State) :
    s.forAny [a, b] f = f (f { s with freeCount := s.freeCount + 2 } a) b ∨
    s.forAny [a, b] f = f (f { s with freeCount := s.freeCount + 2 } b) a := by
  rcases Nat.mod_two_eq_zero_or_one (Config.pick (s.freeCount + 1)) with h | h
  · exact .inl (by simp [State.forAny, State.anyOrder, permute, h, Nat.mod_one])
  · exact .inr (by simp [State.forAny, State.anyOrder, permute, h, Nat.mod_one])

/-- What the record met first leaves: the FLUSH of the other one has completed, and tag 2 waits for it still. -/
structure LeftWaiting (y : Nat) (t : State) : Prop where
  gone : t.tag y = none
  waits : t.tag 2 = some (flushOf [y])
  batch : t.ck.batch = []
  quiet : t.quietPart = (false, false, [], false, [])

/-- The state in which the FLUSHes are told that the record of tag x, the first, has ended. -/
def crossedTold (x : Nat) : State :=
  let s := complete x .good 0 { crossedOpen with freeCount := 2 }
  { s with tags := s.tags.map (Option.map (TagEntry.dropRelease x true)) }

theorem completeRelease_crossed :
    completeRelease true { crossedOpen with freeCount := 2 } 0 = (crossedTold 0).forAny [1, 2] (fun s t => checkComplete t s) ∧
    completeRelease true { crossedOpen with freeCount := 2 } 1 = (crossedTold 1).forAny [0, 2] (fun s t => checkComplete t s) :=
  ⟨by rfl, by rfl⟩

/-- Of the two FLUSHes told, the one with no record left completes and tag 2 does not, whichever is tested first. -/
theorem forAny_told {y : Nat} {s : State} (hne : y ≠ 2) (hy : s.tag y = some (flushOf [])) (h2 : s.tag 2 = some (flushOf [y]))
    (hf : s.hasFrames y = false) :
    s.forAny [y, 2] (fun s t => checkComplete t s) = complete y .good 0 { s with freeCount := s.freeCount + 2 } := by
  have done : ∀ u : State, u.tag y = some (flushOf []) → u.hasFrames y = false → checkComplete y u = complete y .good 0 u :=
    fun u hu hf => by simp [checkComplete, completeFlush, hu, hf, flushOf]
  have waits : ∀ u : State, u.tag 2 = some (flushOf [y]) → checkComplete 2 u = u := fun u hu => by
    simp [checkComplete, completeFlush, hu, flushOf]
  have kept : ∀ u : State, u.tag 2 = some (flushOf [y]) → (complete y .good 0 u).tag 2 = some (flushOf [y]) := fun u hu => by
    rw [← hu]
    simp [State.tag, complete, List.getD_eq_getElem?_getD, List.getElem?_set_ne hne]
  rcases forAny_pair s y 2 (fun s t => checkComplete t s) with h | h <;> rw [h]
  · rw [done _ (by exact hy) (by exact hf), waits _ (kept _ (by exact h2))]
  · rw [waits _ (by exact h2), done _ (by exact hy) (by exact hf)]

theorem crossedTold_hasFrames (x y : Nat) : (crossedTold x).hasFrames y = false := by
  have frames : (crossedTold x).pool.frames = List.replicate 256 Frame.free := rfl
  rw [State.hasFrames, frames, List.any_eq_false]
  intro f hf
  rw [List.eq_of_mem_replicate hf]
  simp [Frame.free]

theorem crossed_first : LeftWaiting 1 (completeRelease true { crossedOpen with freeCount := 2 } 0) := by
  rw [completeRelease_crossed.1, forAny_told (by decide) rfl rfl (crossedTold_hasFrames 0 1)]
  exact ⟨rfl, rfl, rfl, rfl⟩

theorem crossed_second : LeftWaiting 0 (completeRelease true { crossedOpen with freeCount := 2 } 1) := by
  rw [completeRelease_crossed.2, forAny_told (by decide) rfl rfl (crossedTold_hasFrames 1 0)]
  exact ⟨rfl, rfl, rfl, rfl⟩

/-- The record met second has no request any more, so the FLUSH of tag 2 is not told. -/
theorem LeftWaiting.second {y : Nat} {t : State} (h : LeftWaiting y t) : (settle (takeBatch (completeRelease true t y))).tag 2 ≠ none := by
  have met : completeRelease true t y = t := by simp [completeRelease, h.gone]
  have taken : takeBatch t = t := by simp [takeBatch, h.batch]
  have still : t.quiet := quiet_congr (s := crossedOpen) (by rw [h.quiet]; rfl) (by rw [quiet_iff]; exact ⟨rfl, rfl, rfl, rfl⟩)
  rw [met, taken, settle_of_quiet still, h.waits]
  exact Option.some_ne_none _

theorem crossed_waits : (settle (ringWritten crossSeg (endOp .A crossed))).tag 2 ≠ none := by
  rw [ringWritten_crossed]
  rcases forAny_pair crossedOpen 0 1 (completeRelease true) with h | h <;> rw [h]
  · exact crossed_first.second
  · exact crossed_second.second

theorem crossed_waiters (i : Nat) : 2 ∉ (crossed.frame i).waiters := by
  have frames : crossed.pool.frames = List.replicate 256 Frame.free := rfl
  have frame : crossed.frame i = Frame.free := by
    rw [State.frame, frames, List.getD_eq_getElem?_getD, List.getElem?_replicate]
    split <;> rfl
  rw [frame]
  exact List.not_mem_nil

theorem crossed_exec :
    exec (.segmentWriteResult .A 0 .done) crossed = .next (settle (ringWritten crossSeg (endOp .A crossed))) :=
  exec_ringWritten (o := crossOp) ⟨rfl, rfl, rfl⟩ rfl rfl rfl rfl

/-- Refutes O27, in its last part: in `crossed` the notice ends, both records that the FLUSH of tag 2 waits for among its
records and no frame left to wait for, and the FLUSH is not completed. -/
theorem not_flushClosesAndCompletes : ¬ Obligations.FlushClosesAndCompletes := by
  unfold Obligations.FlushClosesAndCompletes
  rintro ⟨-, ends⟩
  obtain ⟨-, notices⟩ := ends crossed 2 (flushOf [0, 1]) rfl rfl rfl
  obtain ⟨u, hexec, completes, -⟩ := notices 0 crossOp crossSeg crossNotice .done ⟨rfl, rfl, rfl⟩ rfl rfl rfl rfl rfl rfl
    (.inl rfl) (by decide)
  have done := (completes crossed_waiters (by decide) (by decide)).1
  rw [crossed_exec, Host.Outcome.next.injEq] at hexec
  rw [← hexec] at done
  exact crossed_waits done

end Sys2Proof.Machine
end


section
/-! O35 fails: the state it speaks of may let an AHEAD entry of the read server hold the very frame that lane n abandons. The
frame's last block made lost empties its band, the evacuation drops the entry and with it the frame (R53, R130), and the
waiters of the frame are forgotten before they are told LOST. -/

namespace Sys2Proof.Machine

/-- The segment of the frame, and of the entry. -/
def sharedSeg : SegLoc := ⟨.A, .band, 0, 0⟩

/-- The frame that lane 0 abandons: one block, LBA 5, in slot 0, and the WRITE of tag 0 waits for it. -/
def sharedFrame : Frame :=
  { Frame.granted .write (.lane 0) with bound := some sharedSeg, fill := 1, runs := [⟨5, 1, 0, none⟩], attempts := 4, waiters := [0] }

/-- The WRITE of the block. -/
def sharedWrite : TagEntry := ⟨.write, 5, 1, true, .accepted, 1, none, [], false⟩

/-- Band 0 of A is CLEANING with that block as its last, and an AHEAD entry holds the same frame. -/
def shared : State :=
  { State.reset with
    service := .ready
    extents := [⟨5, 1, .media ⟨sharedSeg, 0⟩⟩]
    bm := ⟨⟨[{ Band.blank with state := .cleaning, valid := 1, extents := 1, bound := 1 }], [], ⟨0, 0, 0, 0, []⟩⟩, BandMgr.discarded⟩
    pool := { Pool.fresh with frames := sharedFrame :: List.replicate 255 Frame.free }
    rs := { ReadServer.fresh with entries := [⟨sharedSeg, true, .ready, 0, some 0, [], 0, 0, false⟩] }
    tags := some sharedWrite :: List.replicate 63 none }

/-- The state whose waiters are woken, the frame released. -/
def sharedReleased : State :=
  let s := (loseFrame 0 sharedFrame sharedSeg shared).modFrame 0 (fun f => { f with waiters := [] })
  releaseFrame 0 ((leaveBand sharedSeg s).modLane 0 (fun c => { c with rebind := c.rebind.filter (fun i => i ≠ 0) }))

theorem abandonFrame_shared : abandonFrame 0 0 shared = checkComplete 0 sharedReleased := by
  have frame : shared.frame 0 = sharedFrame := rfl
  have bound : sharedFrame.bound = some sharedSeg := rfl
  have waiters : sharedFrame.waiters = [0] := rfl
  simp only [abandonFrame, frame, bound, waiters, wakeWaiters_one]
  rfl

/-- The WRITE has been told nothing, and no frame counts it. -/
theorem sharedReleased_tag : sharedReleased.tag 0 = some sharedWrite := by
  rfl

theorem sharedReleased_frames : sharedReleased.pool.frames = Frame.free :: List.replicate 255 Frame.free := by
  rfl

theorem sharedReleased_frontOut : sharedReleased.frontOut = [] := by
  rfl

theorem shared_frontOut : (abandonFrame 0 0 shared).frontOut = [.completion 0 .good 1] := by
  have uncounted : sharedReleased.hasFrames 0 = false := by
    rw [State.hasFrames, sharedReleased_frames, List.any_eq_false]
    intro f hf
    have free : f = Frame.free := by
      rcases List.mem_cons.1 hf with h | h
      · exact h
      · exact List.eq_of_mem_replicate h
    simp [free, Frame.free]
  rw [abandonFrame_shared, checkComplete_durable sharedReleased_tag rfl rfl rfl rfl rfl uncounted]
  simp [complete, State.send, sharedReleased_frontOut, sharedWrite]

/-- Tag 0 waits for frame 0 alone. -/
theorem shared_waiters (i : Nat) (h : i ≠ 0) : 0 ∉ (shared.frame i).waiters := by
  obtain ⟨k, rfl⟩ := Nat.exists_eq_succ_of_ne_zero h
  have frames : shared.pool.frames = sharedFrame :: List.replicate 255 Frame.free := rfl
  have free : shared.frame (k + 1) = Frame.free := by
    rw [State.frame, frames, List.getD_cons_succ, List.getD_eq_getElem?_getD, List.getElem?_replicate]
    split <;> rfl
  rw [Nat.succ_eq_add_one, free]
  exact List.not_mem_nil

theorem shared_length : 0 < shared.pool.frames.length := by
  have frames : shared.pool.frames = sharedFrame :: List.replicate 255 Frame.free := rfl
  exact List.length_pos_of_ne_nil (frames ▸ List.cons_ne_nil _ _)

theorem shared_table : TableOk shared.extents := by
  have table : shared.extents = [⟨5, 1, .media ⟨sharedSeg, 0⟩⟩] := rfl
  rw [table, TableOk]
  simp
  decide

/-- Refutes O35, in its last part: in `shared` lane 0 abandons its frame, block 5 is made lost, and the durable WRITE that
waited for the frame last completes GOOD, not LOST. -/
theorem not_reboundFrameTakesItsBlocks : ¬ Obligations.ReboundFrameTakesItsBlocks := by
  unfold Obligations.ReboundFrameTakesItsBlocks
  rintro ⟨-, -, -, -, -, abandons⟩
  obtain ⟨-, -, -, -, lost⟩ := abandons shared 0 0 sharedSeg (by decide) shared_length rfl
  obtain ⟨-, -, -, waits⟩ := lost (by decide) shared_table (by decide) (by decide) (by decide)
  have told := ((waits 0 sharedWrite (by decide) rfl rfl shared_waiters).1 5 ⟨0, by decide, rfl⟩ ?_ (by decide) (by decide) rfl rfl
    rfl).1
  · rw [shared_frontOut] at told
    simp at told
  · rintro x ⟨k, hx, -⟩
    have only : (x, k) ∈ [((5 : Nat), (0 : Nat))] := hx
    exact (congrArg Prod.fst (List.mem_singleton.1 only)).ge

end Sys2Proof.Machine
end


section
/-! The gate's test of a block (O24, R94): what stands ready is passed on, a lane that can have a frame and a location opens
it, and the block is tested again as it then stands. -/

namespace Sys2Proof.Machine

/-! ## A slot that stands ready -/

theorem exec_dataPull {s : State} {p : DataPhase} (hp : s.phase = some p) : exec .dataPull s = .next (settle (testGate s)) := by
  show execDataPull s = _
  simp only [execDataPull, hp]

theorem hasSlot_of {s : State} {n id : Nat} (ho : (s.lane n).openFrame = some id) (hf : (s.frame id).fill < 16) :
    s.hasSlot n = true := by
  simpa [State.hasSlot, ho] using hf

theorem findSlot_of_hasSlot {s : State} {n : Nat} (h : s.hasSlot n = true) : findSlot n s = (none, s) := by
  simp [findSlot, laneSlot, h]

/-- The first step of R94 leaves a lane alone that takes blocks and has a run left for the block. -/
theorem settleLane_of {s : State} {p : DataPhase} {lba : Nat} (hp : s.phase = some p) (hl : s.laneLost p.lane = false)
    (hn : ∀ id, (s.lane p.lane).openFrame = some id → needsNinthRun (s.frame id).runs lba none = false) : settleLane lba s = s := by
  have noNinth : closeAtNinthRun p.lane lba s = s := by
    unfold closeAtNinthRun
    split
    · rename_i id ho
      simp [hn id ho]
    · rfl
  simp [settleLane, hp, hl, noNinth]

/-- What the gate does with what the search for a slot found (R94). -/
def afterSlot (r : Option HoldCause × State) : State :=
  match r.1 with
  | some c => holdBlock c r.2
  | none => passBlock r.2

theorem testGate_of_phase {s : State} {p q : DataPhase} (hp : s.phase = some p) (hb : p.hasBlock = true)
    (hq : (settleLane (p.lba + p.next) s).phase = some q) :
    testGate s = afterSlot (findSlot q.lane (settleLane (p.lba + p.next) s)) := by
  simp only [testGate, hp, hb, if_true, hq]
  generalize findSlot q.lane (settleLane (p.lba + p.next) s) = r
  obtain ⟨_ | c, u⟩ := r <;> rfl

theorem testGate_of_settled {s : State} {p : DataPhase} (hp : s.phase = some p) (hb : p.hasBlock = true)
    (hs : settleLane (p.lba + p.next) s = s) : testGate s = afterSlot (findSlot p.lane s) := by
  have same := testGate_of_phase hp hb (q := p) (by rw [hs, hp])
  rwa [hs] at same

theorem testGate_of_ready {s : State} {p : DataPhase} {id : Nat} (hp : s.phase = some p) (hb : p.hasBlock = true)
    (hl : s.laneLost p.lane = false) (ho : (s.lane p.lane).openFrame = some id) (hf : (s.frame id).fill < 16)
    (hn : needsNinthRun (s.frame id).runs (p.lba + p.next) none = false) : testGate s = passBlock s := by
  have settled := settleLane_of hp hl (lba := p.lba + p.next) (fun i hi => by
    rw [ho, Option.some.injEq] at hi
    exact hi ▸ hn)
  rw [testGate_of_settled hp hb settled, findSlot_of_hasSlot (hasSlot_of ho hf)]
  rfl

/-- With credit and records free the pull is sent (R93). -/
theorem passBlock_of_free {s : State} {p : DataPhase} {id : Nat} (hp : s.phase = some p) (ho : (s.lane p.lane).openFrame = some id)
    (hc : s.creditPasses p id = true) (hf : 66 ≤ s.freeRecords) : passBlock s = sendPull p id s := by
  have free : ¬ s.freeRecords < Config.frontReserve := not_lt.2 hf
  simp [passBlock, hp, ho, hc, free]

/-! ## A frame for the lane (R72, R90) -/

/-- The frame that lane n has or is granted, with what it holds. -/
def State.obtains (s : State) (n id : Nat) (f : Frame) : Prop :=
  ((s.lane n).granted = some id ∧ f = s.frame id) ∨
  ((s.lane n).granted = none ∧ s.pool.queue .write = [] ∧ s.pool.passes .write = true ∧ (s.frame id).state = .free ∧
    (∀ j < id, (s.frame j).state ≠ .free) ∧ f = Frame.granted .write (.lane n))

/-- What the request for a frame leaves: the frame granted to the lane, and nothing else changed. -/
structure Obtained (n id : Nat) (f : Frame) (s t : State) : Prop where
  rest : t = { s with pool := t.pool, lanes := t.lanes }
  size : t.lanes.length = s.lanes.length
  frames : t.pool.frames.length = s.pool.frames.length
  own : t.lane n = { s.lane n with granted := some id }
  others : ∀ m, m ≠ n → t.lane m = s.lane m
  frame : t.frame id = f
  otherFrames : ∀ j, j ≠ id → t.frame j = s.frame j

theorem findIdx?_first_free {s : State} {id : Nat} (hid : id < s.pool.frames.length) (hf : (s.frame id).state = .free)
    (hlow : ∀ j < id, (s.frame j).state ≠ .free) :
    s.pool.frames.findIdx? (fun f => decide (f.state = .free)) = some id := by
  have listed : ∀ j (hj : j < s.pool.frames.length), s.frame j = s.pool.frames[j] := fun j hj => by
    simp [State.frame, List.getD_eq_getElem?_getD, hj]
  rw [List.findIdx?_eq_some_iff_getElem]
  refine ⟨hid, by simpa [listed id hid] using hf, fun j hj => ?_⟩
  have := hlow j hj
  rw [listed j (by omega)] at this
  simpa using this

theorem laneFrame_obtains {s : State} {n id : Nat} {f : Frame} (hn : n ≤ 6) (hlen : n < s.lanes.length)
    (hid : id < s.pool.frames.length) (h : s.obtains n id f) : ∃ t, laneFrame n s = (some id, t) ∧ Obtained n id f s t := by
  rcases h with ⟨granted, rfl⟩ | ⟨granted, queue, passes, free, low, rfl⟩
  · have same : { s.lane n with granted := some id } = s.lane n := by rw [← granted]
    exact ⟨s, by simp [laneFrame, granted], rfl, rfl, rfl, same.symm, fun _ _ => rfl, rfl, fun _ _ => rfl⟩
  · have cls : (Requester.lane n).cls = .write := by simp [Requester.cls, show n ≠ 7 by omega]
    have found := findIdx?_first_free hid free low
    have requested : requestFrame (.lane n) s = (some id, s.modFrame id (fun _ => Frame.granted .write (.lane n))) := by
      simp [requestFrame, grantFrame, cls, queue, passes, found, Requester.owner]
    refine ⟨_, by simp only [laneFrame, granted, State.waits, cls, queue, requested]; rfl, rfl, by simp, by simp, ?_, ?_, ?_, ?_⟩
    · rw [State.lane_modLane _ _ _ _ (by exact hlen), if_pos rfl]
      rfl
    · exact fun m hm => lane_modLane_ne (Ne.symm hm) _ _
    · exact frame_modFrame_self _ hid
    · exact fun j hj => State.frame_modFrame_ne _ _ hj

/-! ## The frame opened (R72) -/

/-- What the search for a location leaves of the rest: lane n with its actuator and band, and what the bands, the rings, the
credit and the reclaim engine keep of it. -/
structure Located (n : Nat) (act : Option Actuator) (band : Option Nat) (s t : State) : Prop where
  rest : t = { s with lanes := t.lanes, bm := t.bm, credit := t.credit, rc := t.rc }
  size : t.lanes.length = s.lanes.length
  own : t.lane n = { s.lane n with act := act, band := band }
  others : ∀ m, m ≠ n → t.lane m = s.lane m

theorem Located.trans {n : Nat} {act act' : Option Actuator} {band band' : Option Nat} {s t u : State}
    (h : Located n act band s t) (k : Located n act' band' t u) : Located n act' band' s u := by
  refine ⟨?_, k.size.trans h.size, by rw [k.own, h.own], fun m hm => (k.others m hm).trans (h.others m hm)⟩
  rw [k.rest, h.rest]

/-- The counts of the data segments after one more is bound (R154). -/
def Ckpt.counted (c : Ckpt) (ckSegments : Nat) : Ckpt :=
  { c with dStart := c.dStart + 1, dComplete := c.dComplete + 1, wanted := c.wanted || decide (ckSegments ≤ c.dStart + 1) }

theorem countDataSegment_eq (s : State) : countDataSegment s = { s with ck := s.ck.counted s.work.ckSegments } := by
  unfold countDataSegment Ckpt.counted
  dsimp only
  by_cases h : s.work.ckSegments ≤ s.ck.dStart + 1
  · have work : (s.modCk (fun c => { c with dStart := c.dStart + 1, dComplete := c.dComplete + 1 })).work = s.work := rfl
    rw [if_pos (by exact h)]
    simp [requestCk, State.modCk, h]
  · rw [if_neg (by exact h)]
    simp [State.modCk, h]

/-- Frame id is lane n's open frame in t, bound with what f holds, the lane's actuator and band as given. -/
def BoundOpen (n id : Nat) (f : Frame) (act : Option Actuator) (band : Option Nat) (s t : State) : Prop :=
  t.lane n = { s.lane n with act := act, band := band, openFrame := some id, granted := none, idleTimer := some s.now } ∧
  (∀ m, m ≠ n → t.lane m = s.lane m) ∧ t.frame id = f ∧ (∀ j, j ≠ id → t.frame j = s.frame j) ∧
  t.ck = s.ck.counted s.work.ckSegments ∧ t.phase = s.phase ∧ t.extents = s.extents ∧ t.earmarks = s.earmarks ∧
  t.frontOut = s.frontOut ∧ t.seq = s.seq

theorem openFrame_boundOpen {n id ctr : Nat} {f : Frame} {loc : SegLoc} {act : Option Actuator} {band : Option Nat}
    {s t u : State} (hn : n ≤ 6) (hlen : n < s.lanes.length) (hid : id < s.pool.frames.length) (hst : (s.lane n).state = .opened)
    (h : Obtained n id f s t) (k : Located n act band t u) :
    BoundOpen n id { f with bound := some loc, ringCtr := ctr } act band s (openFrame n id loc ctr u) ∧
    (openFrame n id loc ctr u).bm = u.bm ∧ (openFrame n id loc ctr u).credit = u.credit ∧
    (openFrame n id loc ctr u).ports = s.ports := by
  let bind : Frame → Frame := fun g => { g with bound := some loc, ringCtr := ctr }
  let enter : Lane → Lane := fun c => { c with openFrame := some id, granted := none, idleTimer := if n = 7 then none else some u.now, state :=
    if c.state = .closed then .opened else c.state, lastAccept := if c.state = .closed then some u.now else c.lastAccept }
  have fields : u.pool = t.pool ∧ u.ck = s.ck ∧ u.now = s.now ∧ u.work = s.work ∧ u.phase = s.phase ∧ u.extents = s.extents ∧
      u.earmarks = s.earmarks ∧ u.frontOut = s.frontOut ∧ u.seq = s.seq ∧ u.ports = s.ports := by
    rw [k.rest, h.rest]
    exact ⟨rfl, rfl, rfl, rfl, rfl, rfl, rfl, rfl, rfl, rfl⟩
  obtain ⟨pool, ck, now, work, phase, extents, earmarks, frontOut, seq, ports⟩ := fields
  have opened : openFrame n id loc ctr u = { (u.modFrame id bind).modLane n enter with ck := s.ck.counted s.work.ckSegments } := by
    rw [← ck, ← work]
    exact countDataSegment_eq ((u.modFrame id bind).modLane n enter)
  have frames : ∀ j, u.frame j = t.frame j := fun j => frame_of_pool pool j
  have lane : u.lane n = { s.lane n with act := act, band := band, granted := some id } := by rw [k.own, h.own]
  rw [opened]
  refine ⟨⟨?_, fun m hm => ?_, ?_, fun j hj => ?_, rfl, phase, extents, earmarks, frontOut, seq⟩, rfl, rfl, ports⟩
  · have entered := State.lane_modLane (u.modFrame id bind) n n enter (by exact (hlen.trans_eq (k.size.trans h.size).symm))
    rw [if_pos rfl] at entered
    refine Eq.trans entered ?_
    have same : (u.modFrame id bind).lane n = u.lane n := rfl
    rw [same, lane]
    simp [enter, hst, now, show n ≠ 7 by omega]
  · exact (lane_modLane_ne (Ne.symm hm) (u.modFrame id bind) enter).trans ((k.others m hm).trans (h.others m hm))
  · have bound := frame_modFrame_self (s := u) bind (id := id) (by rw [pool, h.frames]; exact hid)
    refine Eq.trans bound ?_
    rw [frames, h.frame]
  · exact (State.frame_modFrame_ne u bind hj).trans ((frames j).trans (h.otherFrames j hj))

/-! ## The test of a block whose lane has no open frame (R94 step 2) -/

/-- The lane n of the data phase may open a frame. -/
def State.mayOpen (s : State) (n : Nat) : Prop :=
  s.lanes.length = 8 ∧ (s.lane n).openFrame = none ∧ (s.lane n).state = .opened ∧ s.gate = false ∧ s.seqLimit = false ∧
    s.ck.dComplete < 2 * s.work.ckSegments

section
variable {s : State} {n id : Nat} {f : Frame} (ho : s.mayOpen n) (hn : n ≤ 6) (hid : id < s.pool.frames.length)
  (hf : s.obtains n id f)
include ho hn hid hf

/-- What `laneSlot` comes to: a location is looked for, with the frame at hand. -/
theorem laneSlot_of_mayOpen : ∃ t, Obtained n id f s t ∧
    (∀ loc ctr u, laneLocation n t = (some (loc, ctr), u) → laneSlot n s = (none, openFrame n id loc ctr (closeOpen n u))) ∧
    ∀ u, laneLocation n t = (none, u) → laneSlot n s = (some .place, dropRequest n u) := by
  obtain ⟨lanes, noFrame, opened, gate, limit, near⟩ := ho
  obtain ⟨t, framed, obtained⟩ := laneFrame_obtains hn (by omega) hid hf
  have far : t.distanceHold = false := by
    rw [obtained.rest]
    exact decide_eq_false (not_le.2 near)
  have noSlot : s.hasSlot n = false := by simp [State.hasSlot, noFrame]
  exact ⟨t, obtained, fun loc ctr u location => by simp [laneSlot, noSlot, gate, limit, opened, framed, far, location],
    fun u location => by simp [laneSlot, noSlot, gate, limit, opened, framed, far, location]⟩

end

theorem laneLost_of_up {s : State} {n : Nat} (h : (s.lane n).state ≠ .faulted)
    (hup : ∀ a, n ≤ 5 → (s.lane n).act = some a → (s.port a).up = true) : s.laneLost n = false := by
  by_cases hn : n ≤ 5
  · cases ha : (s.lane n).act with
    | none => simp [State.laneLost, h, ha]
    | some a => simp [State.laneLost, h, ha, hup a hn ha]
  · simp [State.laneLost, hn]

/-- The block is tested again once its frame is open: nothing is lost by it. -/
theorem exec_of_opened {s : State} {p : DataPhase} {n id ctr : Nat} {f : Frame} {loc : SegLoc} {act : Option Actuator}
    {band : Option Nat} {Q : State → Prop} (hp : s.phase = some p) (hb : p.hasBlock = true) (hpn : p.lane = n) (hn : n ≤ 6)
    (hl : s.laneLost n = false) (ho : s.mayOpen n) (hid : id < s.pool.frames.length) (hf : s.obtains n id f)
    (hempty : f.fill = 0 ∧ f.runs = []) (hup : ∀ a, n ≤ 5 → act = some a → (s.port a).up = true)
    (hloc : ∀ t, Obtained n id f s t → ∃ u, laneLocation n t = (some (loc, ctr), u) ∧ Located n act band t u ∧ Q u) :
    ∃ v u, exec .dataPull s = exec .dataPull v ∧
      BoundOpen n id { f with bound := some loc, ringCtr := ctr } act band s v ∧ v.bm = u.bm ∧ v.credit = u.credit ∧ Q u := by
  subst hpn
  obtain ⟨t, obtained, slot, -⟩ := laneSlot_of_mayOpen ho hn hid hf
  obtain ⟨u, location, located, hQ⟩ := hloc t obtained
  obtain ⟨lanes, noFrame, opened, -⟩ := ho
  obtain ⟨bound, bm, credit, ports⟩ := openFrame_boundOpen (loc := loc) (ctr := ctr) hn (by omega) hid opened obtained located
  have unclosed : closeOpen p.lane u = u := by
    have none : (u.lane p.lane).openFrame = none := by rw [located.own, obtained.own]; exact noFrame
    simp only [closeOpen, none]
  have slot := slot loc ctr u location
  rw [unclosed] at slot
  have first : testGate s = passBlock (openFrame p.lane id loc ctr u) := by
    have settled := settleLane_of hp hl (lba := p.lba + p.next) (fun i hi => by rw [noFrame] at hi; cases hi)
    rw [testGate_of_settled hp hb settled, findSlot, slot]
    rfl
  have parts := bound
  obtain ⟨own, -, frame, -, -, phase, -⟩ := parts
  have phase := phase.trans hp
  have again : testGate (openFrame p.lane id loc ctr u) = passBlock (openFrame p.lane id loc ctr u) := by
    refine testGate_of_ready phase hb ?_ (by rw [own]) (by rw [frame]; simp [hempty]) ?_
    · refine laneLost_of_up (by rw [own]; simp [opened]) (fun a hle ha => ?_)
      rw [own] at ha
      have up := hup a hle ha
      rwa [State.port, ← ports] at up
    · rw [frame]
      simp [hempty, needsNinthRun, extendRuns]
  exact ⟨_, u, by rw [exec_dataPull hp, exec_dataPull phase, first, again], bound, bm, credit, hQ⟩

end Sys2Proof.Machine
end


section
/-! A segment of a band for a stream lane (O24, R43, R45, R71, R72): from the band it holds, or from the one that answers its
request. -/

namespace Sys2Proof.Machine

/-! ## One band's record changed -/

/-- t came from s, as the bands and rings go, by band b of a taking the record r, the parked list of a aside. -/
structure BandMade (a : Actuator) (b : Nat) (r : Band) (s t : State) : Prop where
  made : t.bandRec a b = r
  others : ∀ a' b', a' ≠ a ∨ b' ≠ b → t.bandRec a' b' = s.bandRec a' b'
  rings : ∀ a', t.ring a' = s.ring a'
  parked : ∀ a', a' ≠ a → (t.bm.get a').parked = (s.bm.get a').parked
  size : (t.bm.get a).bands.length = (s.bm.get a).bands.length
  blank : t.blankCount a + (if (s.bandRec a b).state = .blank then 1 else 0) =
    s.blankCount a + (if r.state = .blank then 1 else 0)

theorem BandMade.trans {a : Actuator} {b : Nat} {q r : Band} {s t u : State} (h : BandMade a b q s t) (k : BandMade a b r t u) :
    BandMade a b r s u := by
  refine ⟨k.made, fun a' b' x => (k.others a' b' x).trans (h.others a' b' x), fun a' => (k.rings a').trans (h.rings a'),
    fun a' x => (k.parked a' x).trans (h.parked a' x), k.size.trans h.size, ?_⟩
  have first := h.blank
  have second := k.blank
  rw [h.made] at second
  omega

/-- Only the bands and rings count. -/
theorem BandMade.congr {a : Actuator} {b : Nat} {r : Band} {s t s' t' : State} (h : BandMade a b r s t) (hs : s'.bm = s.bm)
    (ht : t'.bm = t.bm) : BandMade a b r s' t' := by
  obtain ⟨made, others, rings, parked, size, blank⟩ := h
  constructor <;> simp only [State.bandRec, State.ring, State.blankCount, hs, ht] at * <;> assumption

theorem countP_modify {α : Type} (p : α → Bool) (f : α → α) (l : List α) (b : Nat) (h : b < l.length) :
    (l.modify b f).countP p + (if p l[b] then 1 else 0) = l.countP p + (if p (f l[b]) then 1 else 0) := by
  induction l generalizing b with
  | nil => simp at h
  | cons x l ih =>
    cases b with
    | zero =>
      simp only [List.modify_zero_cons, List.countP_cons, List.getElem_cons_zero]
      omega
    | succ b =>
      have tail := ih b (by simpa using h)
      simp only [List.modify_succ_cons, List.countP_cons, List.getElem_cons_succ]
      omega

theorem modBand_made {s : State} {a : Actuator} {b : Nat} (f : Band → Band) (hb : b < (s.bm.get a).bands.length) :
    BandMade a b (f (s.bandRec a b)) s (s.modBand a b f) := by
  refine ⟨bandRec_modBand_self hb f, fun x y h => bandRec_modBand_other s f h, fun x => ?_, fun x hx => ?_, length_modBand f, ?_⟩
  · by_cases hx : x = a
    · subst hx
      simp [State.ring, State.modBand, State.modMgr]
    · simp [State.ring, State.modBand, State.modMgr, Two.get_modify_of_ne _ _ _ _ hx]
  · simp [State.modBand, State.modMgr, Two.get_modify_of_ne _ _ _ _ hx]
  · have listed : s.bandRec a b = (s.bm.get a).bands[b] := by simp [State.bandRec, List.getD_eq_getElem?_getD, hb]
    have count := countP_modify (fun r : Band => decide (r.state = .blank)) f (s.bm.get a).bands b hb
    simp only [State.blankCount, State.modBand, State.modMgr, Two.get_modify, listed]
    simpa using count

theorem modBand_parked (s : State) (a : Actuator) (b : Nat) (f : Band → Band) :
    ((s.modBand a b f).bm.get a).parked = (s.bm.get a).parked := by
  simp [State.modBand, State.modMgr]

theorem modParked_made (a : Actuator) (b : Nat) (l : List Nat) (s : State) :
    BandMade a b (s.bandRec a b) s (s.modMgr a (fun m => { m with parked := l })) := by
  have bands : ∀ x, ((s.modMgr a (fun m => { m with parked := l })).bm.get x).bands = (s.bm.get x).bands ∧
      ((s.modMgr a (fun m => { m with parked := l })).bm.get x).ring = (s.bm.get x).ring := fun x => by
    by_cases hx : x = a
    · subst hx
      simp [State.modMgr]
    · simp [State.modMgr, Two.get_modify_of_ne _ _ _ _ hx]
  refine ⟨by rw [State.bandRec, (bands a).1]; rfl, fun x y _ => by rw [State.bandRec, (bands x).1]; rfl, fun x => (bands x).2,
    fun x hx => by simp [State.modMgr, Two.get_modify_of_ne _ _ _ _ hx], by rw [(bands a).1], ?_⟩
  rw [State.blankCount, (bands a).1]
  rfl

/-! ## The next segment of a band (R45) -/

/-- A band with its next segment reserved for lane n. -/
def Band.reserve (r : Band) (n spb : Nat) : Band :=
  { r with reserved := r.reserved + 1, bound := r.bound + 1
           state := if r.reserved + 1 = spb then .draining else .opened
           owner := if r.reserved + 1 = spb then none else some n }

theorem reserveHeld_takes {s : State} {n b : Nat} {a : Actuator} (hn : n < s.lanes.length) (hb : b < (s.bm.get a).bands.length)
    (hst : (s.bandRec a b).state = .opened) (hown : (s.bandRec a b).owner = some n) (hres : (s.bandRec a b).reserved < s.spb)
    (hact : (s.lane n).act = some a) (hband : (s.lane n).band = some b) :
    ∃ t, reserveHeld n a b s = (some ⟨a, .band, b, (s.bandRec a b).reserved⟩, t) ∧
      Located n (some a) (if (s.bandRec a b).reserved + 1 = s.spb then none else some b) s t ∧
      BandMade a b ((s.bandRec a b).reserve n s.spb) s t ∧ (t.bm.get a).parked = (s.bm.get a).parked ∧ t.credit = s.credit := by
  have taken : BandMade a b ((s.bandRec a b).reserve n s.spb) s (takeSegment a b s) := by
    have made := modBand_made (fun r =>
      if r.reserved + 1 = s.spb then
        { r with reserved := r.reserved + 1, bound := r.bound + 1, state := .draining, owner := none }
      else { r with reserved := r.reserved + 1, bound := r.bound + 1 }) hb
    have recorded : (s.bandRec a b).reserve n s.spb = if (s.bandRec a b).reserved + 1 = s.spb then
        { s.bandRec a b with reserved := (s.bandRec a b).reserved + 1, bound := (s.bandRec a b).bound + 1,
                             state := .draining, owner := none }
        else { s.bandRec a b with reserved := (s.bandRec a b).reserved + 1, bound := (s.bandRec a b).bound + 1 } := by
      unfold Band.reserve
      split <;> simp [← hst, ← hown]
    rw [recorded]
    exact made
  have parked : ((takeSegment a b s).bm.get a).parked = (s.bm.get a).parked := modBand_parked _ _ _ _
  refine ⟨_, reserveHeld_eq hst hown hres, ?_⟩
  by_cases full : (s.bandRec a b).reserved + 1 = s.spb
  · have drained : ¬ ((takeSegment a b s).bandRec a b).state = .opened := by
      rw [taken.made]
      simp [Band.reserve, full]
    rw [if_neg drained, if_pos full]
    refine ⟨⟨rfl, by simp [takeSegment], ?_, fun m hm => ?_⟩, taken.congr rfl rfl, parked, rfl⟩
    · have own := State.lane_modLane (takeSegment a b s) n n (fun c => { c with band := none }) hn
      rw [if_pos rfl] at own
      rw [own, ← hact]
      rfl
    · exact lane_modLane_ne (Ne.symm hm) _ _
  · have held : ((takeSegment a b s).bandRec a b).state = .opened := by
      rw [taken.made]
      simp [Band.reserve, full]
    rw [if_pos held, if_neg full, ← hact, ← hband]
    exact ⟨⟨rfl, rfl, rfl, fun _ _ => rfl⟩, taken, parked, rfl⟩

/-! ## The band that answers a request (R43) -/

/-- The head of the parked list, continued at its pointers. -/
def State.parkedAt (s : State) (n : Nat) (a : Actuator) (b : Nat) (r : Band) : Prop :=
  (s.bm.get a).parked.head? = some b ∧ r = { s.bandRec a b with state := .opened, owner := some n }

/-- The lowest BLANK band while more than RESERVE are blank, from 0. -/
def State.blankAt (s : State) (n : Nat) (a : Actuator) (b : Nat) (r : Band) : Prop :=
  (s.bm.get a).parked = [] ∧ b < (s.bm.get a).bands.length ∧ (s.bandRec a b).state = .blank ∧
  (∀ c < b, (s.bandRec a c).state ≠ .blank) ∧ s.work.reserve < s.blankCount a ∧
  r = { s.bandRec a b with state := .opened, owner := some n, reserved := 0, written := 0 }

/-- Actuator a has a band for lane n. -/
def State.answers (s : State) (n : Nat) (a : Actuator) (b : Nat) (r : Band) : Prop :=
  s.service = .ready ∧ (s.port a).up = true ∧ (s.parkedAt n a b r ∨ s.blankAt n a b r)

/-- What an answered request leaves. -/
structure Answered (n : Nat) (a : Actuator) (b : Nat) (r : Band) (s t : State) : Prop where
  rest : t = { s with bm := t.bm, credit := t.credit, rc := t.rc }
  made : BandMade a b r s t
  parked : (t.bm.get a).parked = (s.bm.get a).parked.tail
  continued : s.parkedAt n a b r → t.credit = s.credit
  fresh : s.blankAt n a b r → t.blankCount a + 1 = s.blankCount a ∧
    (t.credit.get a).pressure = decide (t.blankCount a ≤ s.work.blankLow)

theorem evalBandPressure_rest (a : Actuator) (s : State) :
    evalBandPressure a s = { s with credit := (evalBandPressure a s).credit, rc := (evalBandPressure a s).rc } := by
  unfold evalBandPressure
  repeat' split
  all_goals rfl

theorem evalBandPressure_pressure (a : Actuator) (s : State) :
    ((evalBandPressure a s).credit.get a).pressure = decide (s.blankCount a ≤ s.work.blankLow) := by
  rcases le_or_gt (s.blankCount a) s.work.blankLow with hb | hb
  · rw [evalBandPressure_of_low hb]
    split <;> simp [*]
  · rw [evalBandPressure_of_high hb]
    split <;> simp_all

theorem findIdx?_first_blank {s : State} {a : Actuator} {b : Nat} (hb : b < (s.bm.get a).bands.length)
    (hf : (s.bandRec a b).state = .blank) (hlow : ∀ c < b, (s.bandRec a c).state ≠ .blank) :
    (s.bm.get a).bands.findIdx? (fun r => decide (r.state = .blank)) = some b := by
  have listed : ∀ j (hj : j < (s.bm.get a).bands.length), s.bandRec a j = (s.bm.get a).bands[j] := fun j hj => by
    simp [State.bandRec, List.getD_eq_getElem?_getD, hj]
  rw [List.findIdx?_eq_some_iff_getElem]
  refine ⟨hb, by simpa [listed b hb] using hf, fun j hj => ?_⟩
  have := hlow j hj
  rw [listed j (by omega)] at this
  simpa using this

theorem allocate_of_answers {s : State} {n b : Nat} {a : Actuator} {r : Band} (hb : b < (s.bm.get a).bands.length)
    (h : s.answers n a b r) : ∃ t, allocate n a s = (some b, t) ∧ Answered n a b r s t := by
  obtain ⟨ready, up, parked | blank⟩ := h
  · obtain ⟨head, rfl⟩ := parked
    obtain ⟨rest, hp⟩ : ∃ rest, (s.bm.get a).parked = b :: rest := by
      cases hp : (s.bm.get a).parked with
      | nil => simp [hp] at head
      | cons x l => exact ⟨l, by simp_all⟩
    let u := s.modMgr a (fun m => { m with parked := rest })
    have answered : allocate n a s = (some b, u.modBand a b (fun r => { r with state := .opened, owner := some n })) := by
      simp [allocate, ready, up, hp, u]
    have sameBands : BandMade a b (s.bandRec a b) s u := modParked_made a b rest s
    have recorded : u.bandRec a b = s.bandRec a b := sameBands.made
    have made := modBand_made (s := u) (fun r => { r with state := .opened, owner := some n }) (b := b) (a := a)
      (by rw [sameBands.size]; exact hb)
    rw [recorded] at made
    refine ⟨_, answered, rfl, sameBands.trans made, ?_, fun _ => rfl, fun hbl => ?_⟩
    · rw [modBand_parked, hp]
      simp [u, State.modMgr]
    · rw [hbl.1] at hp
      cases hp
  · obtain ⟨hp, hlen, hst, low, reserve, rfl⟩ := blank
    let f : Band → Band := fun r => { r with state := .opened, owner := some n, reserved := 0, written := 0 }
    have found := findIdx?_first_blank hlen hst low
    have answered : allocate n a s = (some b, evalBandPressure a (s.modBand a b f)) := by
      simp [allocate, ready, up, hp, found, reserve, f]
    have made := modBand_made (s := s) f hb
    have rest := evalBandPressure_rest a (s.modBand a b f)
    have bm : (evalBandPressure a (s.modBand a b f)).bm = (s.modBand a b f).bm := by rw [rest]
    refine ⟨_, answered, ?_, made.congr rfl bm, ?_, fun hpk => ?_, fun _ => ⟨?_, ?_⟩⟩
    · rw [rest]
      rfl
    · rw [bm, modBand_parked, hp]
      rfl
    · rw [State.parkedAt, hp] at hpk
      cases hpk.1
    · have blank := (made.congr rfl bm).blank
      simpa [hst, f] using blank
    · rw [evalBandPressure_pressure]
      have count : (evalBandPressure a (s.modBand a b f)).blankCount a = (s.modBand a b f).blankCount a := by
        rw [State.blankCount, bm]
        rfl
      rw [count]
      rfl

theorem allocate_of_not_answers {s : State} {n : Nat} {a : Actuator} (hn : n ≠ 7) (h : ∀ b r, ¬ s.answers n a b r) :
    allocate n a s = (none, s) := by
  by_cases ready : s.service = .ready ∧ (s.port a).up = true
  · have nobody : ∀ b r, ¬ (s.parkedAt n a b r ∨ s.blankAt n a b r) := fun b r x => h b r ⟨ready.1, ready.2, x⟩
    have parked : (s.bm.get a).parked = [] := by
      cases hp : (s.bm.get a).parked with
      | nil => rfl
      | cons x l => exact absurd (.inl ⟨by rw [hp]; rfl, rfl⟩) (nobody x _)
    have kept : ∀ b, (s.bm.get a).bands.findIdx? (fun r => decide (r.state = .blank)) = some b →
        ¬ s.work.reserve < s.blankCount a := by
      intro b found reserve
      rw [List.findIdx?_eq_some_iff_getElem] at found
      obtain ⟨hb, blank, low⟩ := found
      have listed : ∀ j (hj : j < (s.bm.get a).bands.length), s.bandRec a j = (s.bm.get a).bands[j] := fun j hj => by
        simp [State.bandRec, List.getD_eq_getElem?_getD, hj]
      refine nobody b _ (.inr ⟨parked, hb, by simpa [listed b hb] using blank, fun c hc => ?_, reserve, rfl⟩)
      simpa [listed c (by omega)] using low c hc
    simp only [allocate, ready.1, ready.2, parked]
    cases found : (s.bm.get a).bands.findIdx? (fun r => decide (r.state = .blank)) with
    | none => simp
    | some b => simp [hn, kept b found]
  · have off : s.service ≠ .ready ∨ (s.port a).up = false := by
      by_cases hs : s.service = .ready
      · exact .inr (by simpa [hs] using ready)
      · exact .inl hs
    simp only [allocate, if_pos off]

end Sys2Proof.Machine
end


section
/-! The location of a stream lane's frame (O24, R71, R72): the actuator asked first, the other one, and the segment reserved. -/

namespace Sys2Proof.Machine

/-! ## The actuator asked (R71) -/

/-- Bands of an actuator in BLANK and PARKED. -/
def State.room (s : State) (a : Actuator) : Nat := s.blankCount a + s.countIn a .parked

/-- Lane n asks a first: its own actuator, or for want of one the UP port with more room, then fewer streams, then A. -/
def State.first (s : State) (n : Nat) (a : Actuator) : Prop :=
  (s.lane n).act = some a ∨ ((s.lane n).act = none ∧ (s.port a).up = true ∧ ((s.port (other a)).up = true →
    s.room (other a) < s.room a ∨ (s.room (other a) = s.room a ∧
      (s.streamsOn a < s.streamsOn (other a) ∨ (s.streamsOn a = s.streamsOn (other a) ∧ a = .A)))))

theorem laneActuator_of_first {s : State} {n : Nat} {a : Actuator} (hn : n ≠ 7) (h : s.first n a) : s.laneActuator n = some a := by
  rcases h with own | ⟨absent, up, best⟩
  · simp [State.laneActuator, own]
  · simp only [State.laneActuator, absent, hn, if_false, State.chooseActuator]
    unfold State.room at best
    cases a with
    | A =>
      simp only [other] at best
      cases hB : (s.port .B).up with
      | false => simp [up]
      | true =>
        have best := best hB
        simp only [up]
        rw [if_neg (by omega)]
        split
        · rfl
        · rw [if_neg (by omega)]
    | B =>
      simp only [other] at best
      cases hA : (s.port .A).up with
      | false => simp [up]
      | true =>
        have best := best hA
        simp only [up]
        split
        · rfl
        · rw [if_neg (by omega), if_pos (by simp at best; omega)]

/-- Actuator a is the one whose answer lane n takes. -/
def State.asked (s : State) (n : Nat) (a : Actuator) : Prop :=
  s.first n a ∨ (s.first n (other a) ∧ ∀ b r, ¬ s.answers n (other a) b r)

theorem askBand_of_asked {s : State} {n b : Nat} {a : Actuator} {r : Band} (hn : n ≠ 7) (hb : b < (s.bm.get a).bands.length)
    (hup : ∀ x, (s.lane n).act = some x → (s.port x).up = true) (ha : s.asked n a) (h : s.answers n a b r) :
    ∃ t, askBand n s = (some (a, b), t) ∧ Answered n a b r s t := by
  obtain ⟨t, allocated, answered⟩ := allocate_of_answers hb h
  have firstUp : ∀ x, s.first n x → (s.port x).up = true := fun x hx => hx.elim (hup x) (fun y => y.2.1)
  refine ⟨t, ?_, answered⟩
  rcases ha with hfirst | ⟨hfirst, nothing⟩
  · simp [askBand, laneActuator_of_first hn hfirst, firstUp a hfirst, allocated]
  · have back : other (other a) = a := by cases a <;> rfl
    simp [askBand, laneActuator_of_first hn hfirst, firstUp _ hfirst, allocate_of_not_answers hn nothing, back, h.2.1, allocated]

/-! ## A segment for the lane (R72) -/

/-- Lane n appends to a band with a segment left. -/
def State.holdsSegment (s : State) (n : Nat) (a : Actuator) (b : Nat) : Prop :=
  s.appends n a b ∧ (s.bandRec a b).reserved < s.spb

theorem laneLocation_of_holds {s : State} {n b : Nat} {a : Actuator} (hn : n < s.lanes.length) (h6 : n ≠ 6)
    (h : s.holdsSegment n a b) : ∃ t, laneLocation n s = (some (⟨a, .band, b, (s.bandRec a b).reserved⟩, 0), t) ∧
      Located n (some a) (if (s.bandRec a b).reserved + 1 = s.spb then none else some b) s t ∧
      BandMade a b ((s.bandRec a b).reserve n s.spb) s t ∧ (t.bm.get a).parked = (s.bm.get a).parked ∧ t.credit = s.credit := by
  obtain ⟨⟨act, band, hb, opened, owner⟩, left⟩ := h
  obtain ⟨t, reserved, rest⟩ := reserveHeld_takes hn hb opened owner left act band
  exact ⟨t, by simp [laneLocation, h6, bandSegment, act, band, reserved], rest⟩

/-- Without such a band the lane asks for one, the band it had lost to it. -/
theorem bandSegment_of_not_holds {s : State} {n : Nat} (hn : n < s.lanes.length) (h : ∀ a b, ¬ s.holdsSegment n a b) :
    ∃ t band, t = { s with lanes := t.lanes } ∧ Located n (s.lane n).act band s t ∧
      ∀ a b u, obtainBand n t = (some (a, b), u) → bandSegment n s = reserveHeld n a b u := by
  cases act : (s.lane n).act with
  | none => exact ⟨s, (s.lane n).band, rfl, ⟨rfl, rfl, by rw [← act], fun _ _ => rfl⟩,
      fun a b u obtained => by simp [bandSegment, act, obtained]⟩
  | some x =>
    cases band : (s.lane n).band with
    | none => exact ⟨s, none, rfl, ⟨rfl, rfl, by rw [← act, ← band], fun _ _ => rfl⟩,
        fun a b u obtained => by simp [bandSegment, act, band, obtained]⟩
    | some y =>
      have lost : reserveHeld n x y s = (none, s.modLane n (fun c => { c with band := none })) := by
        have refused : ¬ ((s.bandRec x y).state = .opened ∧ (s.bandRec x y).owner = some n ∧ (s.bandRec x y).reserved < s.spb) := by
          rintro ⟨opened, owner, left⟩
          have inside : y < (s.bm.get x).bands.length := by
            by_contra out
            simp [State.bandRec, List.getD_eq_getElem?_getD, out, Band.blank] at opened
          exact h x y ⟨⟨act, band, inside, opened, owner⟩, left⟩
        simp only [reserveHeld, reserveSegment, if_neg refused]
      refine ⟨s.modLane n (fun c => { c with band := none }), none, rfl, ⟨rfl, by simp, ?_, fun m hm => ?_⟩,
        fun a b u obtained => by simp [bandSegment, act, band, lost, obtained]⟩
      · rw [State.lane_modLane _ _ _ _ hn, if_pos rfl, ← act]
      · exact lane_modLane_ne (Ne.symm hm) _ _

theorem take_lanes {s : State} (h : s.lanes.length = 8) : s.lanes.take 6 = (List.range 6).map s.lane := by
  refine List.ext_getElem (by simp [h]) (fun i hi _ => ?_)
  have hlen : i < s.lanes.length := by simp at hi; omega
  simp [State.lane, List.getD_eq_getElem?_getD, hlen]

/-- The streams count the state, the actuator and whether there is a band, of each lane. -/
theorem streamsOn_congr {s t : State} (hs : s.lanes.length = 8) (ht : t.lanes.length = 8)
    (h : ∀ m, (t.lane m).state = (s.lane m).state ∧ (t.lane m).act = (s.lane m).act ∧
      ((s.lane m).act ≠ none → (t.lane m).band = (s.lane m).band))
    (a : Actuator) : t.streamsOn a = s.streamsOn a := by
  rw [State.streamsOn, State.streamsOn, take_lanes hs, take_lanes ht, List.countP_map, List.countP_map]
  refine List.countP_congr (fun m _ => ?_)
  obtain ⟨state, act, band⟩ := h m
  cases hact : (s.lane m).act with
  | none => simp [act, hact]
  | some x => simp [state, act, hact, band (by simp [hact])]

/-- Frames and lanes aside, a request meets the state as it was. -/
theorem answers_congr {s t : State} (h : t = { s with pool := t.pool, lanes := t.lanes }) (n : Nat) (a : Actuator) (b : Nat)
    (r : Band) : t.answers n a b r ↔ s.answers n a b r := by
  rw [h]
  exact Iff.rfl

theorem first_congr {s t : State} {n : Nat} (h : t = { s with pool := t.pool, lanes := t.lanes }) (hs : s.lanes.length = 8)
    (ht : t.lanes.length = 8) (hown : (t.lane n).state = (s.lane n).state ∧ (t.lane n).act = (s.lane n).act)
    (hothers : ∀ m, m ≠ n → t.lane m = s.lane m) {a : Actuator} (ha : s.first n a) : t.first n a := by
  have room : ∀ x, t.room x = s.room x := fun x => by rw [h]; rfl
  have port : ∀ x, t.port x = s.port x := fun x => by rw [h]; rfl
  rcases ha with own | ⟨absent, rest⟩
  · exact .inl (hown.2.trans own)
  · have streams : ∀ x, t.streamsOn x = s.streamsOn x := streamsOn_congr hs ht (fun m => by
      by_cases hm : m = n
      · subst hm
        exact ⟨hown.1, hown.2, fun present => absurd absent present⟩
      · rw [hothers m hm]
        exact ⟨rfl, rfl, fun _ => rfl⟩)
    refine .inr ⟨hown.2.trans absent, ?_⟩
    rw [room, room, streams, streams, port, port]
    exact rest

theorem laneLocation_of_asked {s t : State} {n id b : Nat} {f : Frame} {a : Actuator} {r : Band} (h8 : s.lanes.length = 8)
    (hn : n ≤ 5) (ht : Obtained n id f s t) (hheld : ∀ a b, ¬ s.holdsSegment n a b)
    (hup : ∀ x, (s.lane n).act = some x → (s.port x).up = true) (ha : s.asked n a) (h : s.answers n a b r)
    (hb : b < (s.bm.get a).bands.length) (hres : r.reserved < s.spb) :
    ∃ u, laneLocation n t = (some (⟨a, .band, b, r.reserved⟩, 0), u) ∧
      Located n (some a) (if r.reserved + 1 = s.spb then none else some b) t u ∧
      BandMade a b (r.reserve n s.spb) s u ∧ (u.bm.get a).parked = (s.bm.get a).parked.tail ∧
      (s.parkedAt n a b r → u.credit = s.credit) ∧
      (s.blankAt n a b r → u.blankCount a + 1 = s.blankCount a ∧
        (u.credit.get a).pressure = decide (u.blankCount a ≤ s.work.blankLow)) := by
  have notHeld : ∀ a b, ¬ t.holdsSegment n a b := by
    intro x y held
    refine hheld x y ?_
    unfold State.holdsSegment State.appends at held ⊢
    rw [ht.own] at held
    rw [ht.rest] at held
    exact held
  obtain ⟨t1, band, rest1, located1, segment⟩ := bandSegment_of_not_holds (by rw [ht.size]; omega) notHeld
  have rest : t1 = { s with pool := t1.pool, lanes := t1.lanes } := by
    rw [rest1, ht.rest]
  have act : (t1.lane n).act = (s.lane n).act := by rw [located1.own, ht.own]
  have asked1 : t1.asked n a := by
    have first : ∀ {x}, s.first n x → t1.first n x := first_congr rest h8 (by rw [located1.size, ht.size, h8])
      ⟨by rw [located1.own, ht.own], act⟩ (fun m hm => (located1.others m hm).trans (ht.others m hm))
    exact ha.imp first (fun y => ⟨first y.1, fun c q hc => y.2 c q ((answers_congr rest _ _ _ _).1 hc)⟩)
  have bm1 : t1.bm = s.bm := by rw [rest]
  obtain ⟨w, asking, answered⟩ := askBand_of_asked (b := b) (r := r) (by omega) (by rw [bm1]; exact hb)
    (fun x hx => by rw [act] at hx; rw [rest]; exact hup x hx) asked1 ((answers_congr rest _ _ _ _).2 h)
  have lanes : w.lanes = t1.lanes := by rw [answered.rest]
  have size : n < w.lanes.length := by rw [lanes, located1.size, ht.size]; omega
  have laneW : ∀ m, w.lane m = t1.lane m := fun m => lane_of_lanes lanes m
  let u := w.modLane n (fun c => { c with act := some a, band := some b })
  have obtained : obtainBand n t1 = (some (a, b), u) := by simp only [obtainBand, asking]; rfl
  have own : u.lane n = { t1.lane n with act := some a, band := some b } := by
    rw [State.lane_modLane _ _ _ _ size, if_pos rfl, laneW]
  have located2 : Located n (some a) (some b) t1 u := by
    refine ⟨?_, by rw [← lanes]; simp [u], own, fun m hm => (lane_modLane_ne (Ne.symm hm) _ _).trans (laneW m)⟩
    show ({ w with lanes := u.lanes } : State) = _
    rw [answered.rest]
    rfl
  have spb : u.spb = s.spb := by
    have geom : w.geom = s.geom := by rw [answered.rest, rest]
    exact congrArg (fun g : Option Geometry => (g.map (fun g => g.spb)).getD 0) geom
  have madeR : u.bandRec a b = r := answered.made.made
  have fresh : r.state = .opened ∧ r.owner = some n := by
    obtain ⟨-, -, ⟨-, rfl⟩ | ⟨-, -, -, -, -, rfl⟩⟩ := h <;> exact ⟨rfl, rfl⟩
  obtain ⟨v, reserved, located3, made3, parked3, credit3⟩ := reserveHeld_takes (s := u) (a := a) (b := b) (n := n)
    (by simpa [u] using size) (by rw [show u.bm = w.bm from rfl, answered.made.size, bm1]; exact hb) (by rw [madeR]; exact fresh.1)
    (by rw [madeR]; exact fresh.2) (by rw [madeR, spb]; exact hres) (by rw [own]) (by rw [own])
  rw [madeR, spb] at located3 made3
  rw [madeR] at reserved
  have made : BandMade a b (r.reserve n s.spb) s v := (answered.made.congr bm1.symm (by rfl : u.bm = w.bm)).trans made3
  refine ⟨v, ?_, (located1.trans located2).trans located3, made, ?_, fun hp => ?_, fun hbl => ?_⟩
  · simp [laneLocation, show n ≠ 6 by omega, segment a b u obtained, reserved]
  · rw [parked3, ← bm1]
    exact answered.parked
  · have parked1 : t1.parkedAt n a b r := by rw [rest]; exact hp
    have credit1 : t1.credit = s.credit := by rw [rest]
    exact (credit3.trans (answered.continued parked1)).trans credit1
  · have blank1 : t1.blankAt n a b r := by rw [rest]; exact hbl
    obtain ⟨count, pressure⟩ := answered.fresh blank1
    have same : v.blankCount a = w.blankCount a := by
      have counted := made3.blank
      have notBlank : (r.reserve n s.spb).state ≠ .blank := by
        unfold Band.reserve
        dsimp only
        split <;> nofun
      rw [madeR, fresh.1, if_neg (by nofun), if_neg notBlank] at counted
      exact counted
    have work : t1.work = s.work ∧ t1.blankCount a = s.blankCount a := by
      rw [rest]
      exact ⟨rfl, rfl⟩
    rw [same, credit3, ← work.1, ← work.2]
    exact ⟨count, pressure⟩

end Sys2Proof.Machine
end


section
/-! A block redirected at the gate (O24, R69, R70), and a frame of lane 6 opened in a cache ring (R58, R72). -/

namespace Sys2Proof.Machine

/-! ## What a lane holds for the block given back (R91, R101) -/

theorem dropRequest_lane {n : Nat} {s : State} (h : n < s.lanes.length) :
    (dropRequest n s).lane n = { s.lane n with granted := none } := by
  unfold dropRequest
  dsimp only
  split
  · rw [lane_of_lanes (releaseFrame_lanes _ _), State.lane_modLane (withdraw (.lane n) s) n n _ h, if_pos rfl]
    rfl
  · rename_i absent
    have granted : (s.lane n).granted = none := absent
    rw [← granted]
    rfl

theorem dropRequest_waitWrite {n : Nat} (h : n ≠ 7) (s : State) : Requester.lane n ∉ (dropRequest n s).pool.waitWrite := by
  have cls : (Requester.lane n).cls = .write := by simp [Requester.cls, h]
  have dropped : (dropRequest n s).pool.waitWrite = s.pool.waitWrite.filter (fun x => x ≠ .lane n) := by
    unfold dropRequest withdraw
    simp only [cls]
    split <;> rfl
  simp [dropped]

theorem dropRequest_rest (n : Nat) (s : State) :
    dropRequest n s = { s with pool := (dropRequest n s).pool, lanes := (dropRequest n s).lanes } := by
  unfold dropRequest
  dsimp only
  split <;> rfl

theorem dropRequest_length (n : Nat) (s : State) : (dropRequest n s).lanes.length = s.lanes.length := by
  have sizes := (dropRequest_inner n s).sizes
  simp only [State.sizes, Prod.mk.injEq] at sizes
  exact sizes.1

/-- The frame granted and not yet bound is FREE again. -/
theorem dropRequest_frees {n id : Nat} {s : State} (hg : (s.lane n).granted = some id) (hid : id < s.pool.frames.length)
    (hs : (s.frame id).state = .inUse) (hp : (s.frame id).pins = 0) : ((dropRequest n s).frame id).state = .free := by
  have cls : ∀ q, (s.pool.setQueue (Requester.lane n).cls q).frames = s.pool.frames := fun q => by
    cases (Requester.lane n).cls <;> rfl
  have frames : (withdraw (.lane n) s).pool.frames = s.pool.frames := cls _
  have frame : (withdraw (.lane n) s).frame id = s.frame id := by rw [State.frame, frames]; rfl
  have dropped : dropRequest n s = releaseFrame id ((withdraw (.lane n) s).modLane n (fun c => { c with granted := none })) := by
    have granted : ((withdraw (.lane n) s).lane n).granted = some id := hg
    simp only [dropRequest, granted]
  rw [dropped]
  exact releaseFrame_free (by show id < (withdraw (.lane n) s).pool.frames.length; rw [frames]; exact hid)
    (by show ((withdraw (.lane n) s).frame id).state = _; rw [frame]; exact hs)
    (by show ((withdraw (.lane n) s).frame id).pins = _; rw [frame]; exact hp)

theorem dropRequest_frame_of_none {n : Nat} {s : State} (hg : (s.lane n).granted = none) (i : Nat) :
    (dropRequest n s).frame i = s.frame i := by
  have granted : ((withdraw (.lane n) s).lane n).granted = none := hg
  have frames : (withdraw (.lane n) s).pool.frames = s.pool.frames := by
    unfold withdraw
    cases (Requester.lane n).cls <;> rfl
  simp only [dropRequest, granted]
  rw [State.frame, frames]
  rfl

/-! ## The redirection (R70) -/

/-- The lane that the data phase leaves. -/
def Lane.left (c : Lane) (now : Nat) : Lane :=
  { c with granted := none, state := if c.state = .waiting then .opened else c.state
           releaseTimer := if c.state = .waiting ∨ c.state = .opened then some now else c.releaseTimer }

/-- What a redirection from lane n to lane m does. -/
structure Redirects (p : DataPhase) (m : Nat) (s t : State) : Prop where
  phase : t.phase = some { p with lane := m, redirected := true }
  left : t.lane p.lane = (s.lane p.lane).left s.now
  entered : t.lane m = (enterLane m s).lane m
  waits : .lane p.lane ∉ t.pool.waitWrite
  frames : ∀ i, t.frame i = (dropRequest p.lane s).frame i
  beside : t.besideLanes = s.besideLanes
  outside : (t.gate, t.seqLimit, t.ports, t.work, t.service, t.geom) = (s.gate, s.seqLimit, s.ports, s.work, s.service, s.geom)

theorem redirect_rest {s : State} {p : DataPhase} (hp : s.phase = some p) (m : Nat) :
    redirect m s = { dropRequest p.lane s with lanes := (redirect m s).lanes, phase := (redirect m s).phase } := by
  simp only [redirect, hp, leavePhase, enterLane]
  generalize dropRequest p.lane s = u
  rfl

theorem redirect_redirects {s : State} {p : DataPhase} {m : Nat} (hp : s.phase = some p) (hn : p.lane < s.lanes.length)
    (h7 : p.lane ≠ 7) (hm : m < s.lanes.length) (hne : m ≠ p.lane) : Redirects p m s (redirect m s) := by
  have rest := dropRequest_rest p.lane s
  let w := (leavePhase p.lane s).modPhase (fun p => { p with lane := m, redirected := true })
  have redirected : redirect m s = enterLane m w := by simp only [redirect, hp]; rfl
  have other : w.lane m = s.lane m :=
    (lane_modLane_ne (Ne.symm hne) _ _).trans (dropRequest_lane_ne (Ne.symm hne) s)
  have now : w.now = s.now := by
    show (dropRequest p.lane s).now = s.now
    rw [rest]
  have size : m < w.lanes.length := by
    have length := dropRequest_length p.lane s
    simpa [w, leavePhase, State.modPhase, length] using hm
  rw [redirected]
  refine ⟨?_, ?_, ?_, ?_, ?_, ?_, ?_⟩
  · have phase : (dropRequest p.lane s).phase = some p := by rw [← hp, rest]
    show (dropRequest p.lane s).phase.map _ = _
    rw [phase]
    rfl
  · have own := State.lane_modLane (dropRequest p.lane s) p.lane p.lane (fun c =>
      let c := if c.state = .waiting then { c with state := .opened } else c
      if c.state = .opened then { c with releaseTimer := some s.now } else c) (by rw [dropRequest_length]; exact hn)
    rw [if_pos rfl, dropRequest_lane hn] at own
    refine (lane_modLane_ne hne w _).trans (Eq.trans own ?_)
    cases h : (s.lane p.lane).state <;> simp [Lane.left, h]
  · unfold enterLane
    rw [State.lane_modLane w m m _ size, State.lane_modLane s m m _ hm, if_pos rfl, if_pos rfl, other, now]
  · rw [← redirected, redirect_rest hp]
    exact dropRequest_waitWrite h7 s
  · rw [← redirected, redirect_rest hp]
    exact fun i => rfl
  · rw [← redirected, redirect_rest hp, ← dropRequest_beside p.lane s]
    rfl
  · rw [← redirected, redirect_rest hp, rest]
    rfl

theorem closeAtNinthRun_phase (n lba : Nat) (s : State) : (closeAtNinthRun n lba s).phase = s.phase := by
  have inner := (closeAtNinthRun_inner n lba s).outside
  simp only [State.outside, Outside.mk.injEq] at inner
  simp [inner]

theorem lane_le_of_laneLost {s : State} {n : Nat} (h : s.laneLost n = true) : n ≤ 5 := by
  by_contra hn
  simp [State.laneLost, hn] at h

/-- A block whose stream lane takes none is tested again in lane 6. -/
theorem exec_of_laneLost {s : State} {p : DataPhase} (hp : s.phase = some p) (hb : p.hasBlock = true) (h8 : s.lanes.length = 8)
    (hl : s.laneLost p.lane = true) : exec .dataPull s = exec .dataPull (redirect 6 s) := by
  have hn := lane_le_of_laneLost hl
  have phase := (redirect_redirects (m := 6) hp (by omega) (by omega) (by omega) (by omega)).phase
  have six : (redirect 6 s).laneLost 6 = false := by simp [State.laneLost]
  have first : settleLane (p.lba + p.next) s = closeAtNinthRun 6 (p.lba + p.next) (redirect 6 s) := by
    simp [settleLane, hp, hl, phase]
  have again : settleLane (p.lba + p.next) (redirect 6 s) = closeAtNinthRun 6 (p.lba + p.next) (redirect 6 s) := by
    simp [settleLane, phase, six]
  have settled := (closeAtNinthRun_phase 6 (p.lba + p.next) (redirect 6 s)).trans phase
  rw [exec_dataPull hp, exec_dataPull phase, testGate_of_phase hp hb (by rw [first]; exact settled), first,
    testGate_of_phase phase hb (by rw [again]; exact settled), again]

/-! ## Lane 6 and the cache rings (R58) -/

theorem ringChoice_of {s : State} {a : Actuator} (hs : s.service = .ready) (hu : (s.port a).up = true) (hf : 1 ≤ s.ringFree a)
    (hbest : (s.port (other a)).up = true → s.ringFree (other a) < s.ringFree a ∨ (s.ringFree (other a) = s.ringFree a ∧ a = .A)) :
    s.ringChoice = some a := by
  have own : s.ringOpen a = true := by simp [State.ringOpen, hs, hu, hf]
  have better : s.ringOpen (other a) = true → s.ringFree (other a) < s.ringFree a ∨
      (s.ringFree (other a) = s.ringFree a ∧ a = .A) := fun h => hbest (by simp [State.ringOpen] at h; exact h.1.2)
  cases a with
  | A =>
    simp only [other] at better
    cases hB : s.ringOpen .B with
    | false => simp [State.ringChoice, own, hB]
    | true =>
      have le : ¬ s.ringFree .A < s.ringFree .B := by have := better hB; omega
      simp [State.ringChoice, own, hB, le]
  | B =>
    simp only [other] at better
    cases hA : s.ringOpen .A with
    | false => simp [State.ringChoice, own, hA]
    | true =>
      have lt : s.ringFree .A < s.ringFree .B := by have := better hA; simp at this; exact this
      simp [State.ringChoice, own, hA, lt]

theorem ringChoice_none {s : State} (h : ∀ a, (s.port a).up = true → s.ringFree a = 0) : s.ringChoice = none := by
  have shut : ∀ a, s.ringOpen a = false := fun a => by
    cases hu : (s.port a).up with
    | false => simp [State.ringOpen, hu]
    | true => simp [State.ringOpen, h a hu]
  simp [State.ringChoice, shut]

theorem evalLatch_rest (a : Actuator) (s : State) : evalLatch a s = { s with rc := (evalLatch a s).rc } := by
  unfold evalLatch
  dsimp only
  repeat' split
  all_goals rfl

/-- The segment at the ring's tail is lane 6's, and the tail rises. -/
theorem laneLocation_of_ring {s : State} {a : Actuator} (hs : s.service = .ready) (hu : (s.port a).up = true)
    (hf : 1 ≤ s.ringFree a) (hc : s.ringChoice = some a) :
    ∃ t, laneLocation 6 s = (some (⟨a, .cache, 0, (s.ring a).tail % s.mcs⟩, (s.ring a).tail), t) ∧
      Located 6 (s.lane 6).act (s.lane 6).band s t ∧ t.ring a = { s.ring a with tail := (s.ring a).tail + 1 } ∧
      t.ring (other a) = s.ring (other a) ∧ ∀ x y, t.bandRec x y = s.bandRec x y := by
  let u := s.modRing a (fun r => { r with tail := r.tail + 1 })
  have rest := evalLatch_rest a u
  have slot : cacheSlot a s = (some (s.ring a).tail, evalLatch a u) := by simp only [cacheSlot, if_pos (And.intro hs (And.intro hu hf))]; rfl
  refine ⟨evalLatch a u, ?_, ⟨?_, ?_, ?_, ?_⟩, ?_, ?_, ?_⟩
  · have mcs : (evalLatch a u).mcs = s.mcs := by rw [rest]; rfl
    simp [laneLocation, ringSegment, hc, slot, State.cacheLoc, mcs]
  all_goals rw [rest]
  · rfl
  · rfl
  · rfl
  · exact fun _ _ => rfl
  · exact State.ring_modRing s a (fun r => { r with tail := r.tail + 1 })
  · have ne : other a ≠ a := by cases a <;> nofun
    simp [State.ring, u, State.modRing, State.modMgr, Two.get_modify_of_ne _ _ _ _ ne]
  · intro x y
    by_cases hx : x = a
    · subst hx
      simp [State.bandRec, u, State.modRing, State.modMgr]
    · simp [State.bandRec, u, State.modRing, State.modMgr, Two.get_modify_of_ne _ _ _ _ hx]

/-! ## Lane 6 without a cache segment (R69, R70) -/

theorem waitLane_of_waiting {n : Nat} {s : State} (h : (s.lane n).state = .waiting) : waitLane n s = s := by
  have same : s.lanes.modify n (fun c => if c.state = .faulted then c
      else { c with state := .waiting, lastAccept := if c.state = .closed then some s.now else c.lastAccept }) = s.lanes := by
    refine List.ext_getElem (by simp) (fun i hi _ => ?_)
    have hlen : i < s.lanes.length := by simpa using hi
    by_cases hn : n = i
    · subst hn
      have listed : s.lane n = s.lanes[n] := by simp [State.lane, List.getD_eq_getElem?_getD, hlen]
      rw [listed] at h
      have kept : ∀ c : Lane, c.state = .waiting → (if c.state = .faulted then c
          else { c with state := .waiting, lastAccept := if c.state = .closed then some s.now else c.lastAccept }) = c :=
        fun c hc => by
          rw [if_neg (by simp [hc]), if_neg (by simp [hc]), ← hc]
      rw [List.getElem_modify, if_pos rfl, kept _ h]
    · rw [List.getElem_modify, if_neg hn]
  simp only [waitLane, State.modLane, same]

/-- The search goes on in the stream lane taken. -/
theorem findSlot_of_taken {s d e : State} {m : Nat} (hslot : laneSlot 6 s = (some .place, d)) (hw : (d.lane 6).state ≠ .waiting)
    (ht : takeStream d = (some m, e)) (hm : m ≠ 6) : findSlot 6 s = findSlot m (redirect m e) := by
  simp only [findSlot, hslot, hw, ht, hm, if_false, if_true]
  generalize laneSlot m (redirect m e) = r
  obtain ⟨_ | c, x⟩ := r
  · rfl
  · cases c with
    | place =>
      by_cases wait : (x.lane m).state = .waiting
      · simp only [wait, if_true, waitLane_of_waiting wait]
      · simp only [wait, if_false]
    | protect => rfl
    | frame => rfl
    | credit => rfl
    | records => rfl

/-- The block of lane 6 is tested again in the stream lane taken, which has nothing open yet. -/
theorem exec_of_taken {s d e : State} {p : DataPhase} {m : Nat} (hp : s.phase = some p) (hb : p.hasBlock = true) (h6 : p.lane = 6)
    (ho : (s.lane 6).openFrame = none) (hslot : laneSlot 6 s = (some .place, d)) (hw : (d.lane 6).state ≠ .waiting)
    (ht : takeStream d = (some m, e)) (hm : m ≠ 6) (hr : Redirects p m e (redirect m e))
    (hst : ((redirect m e).lane m).state = .opened) (hact : ((redirect m e).lane m).act = none)
    (hopen : ((redirect m e).lane m).openFrame = none) : exec .dataPull s = exec .dataPull (redirect m e) := by
  have settled : settleLane (p.lba + p.next) s = s :=
    settleLane_of hp (by simp [State.laneLost, h6]) (fun id hid => by rw [h6, ho] at hid; cases hid)
  have settled' : settleLane (p.lba + p.next) (redirect m e) = redirect m e :=
    settleLane_of hr.phase (laneLost_of_up (by simp [hst]) (fun a _ ha => by rw [hact] at ha; cases ha))
      (fun id hid => by rw [hopen] at hid; cases hid)
  rw [exec_dataPull hp, exec_dataPull hr.phase, testGate_of_settled hp hb settled, testGate_of_settled hr.phase hb settled', h6,
    findSlot_of_taken hslot hw ht hm]

end Sys2Proof.Machine
end


section
/-! The stream lane that a block of lane 6 is taken to (O24, R69, R70), and the whole of O24. -/

namespace Sys2Proof.Machine

/-! ## A lane evicted (R69) -/

/-- What an eviction of lane m does. -/
structure Evicted (m : Nat) (s t : State) : Prop where
  own : (t.lane m).state = (s.lane m).state ∧ (t.lane m).act = none ∧ (t.lane m).band = none ∧ (t.lane m).nextLba = none ∧
    (t.lane m).lastAccept = some s.now ∧ (t.lane m).openFrame = none
  others : ∀ k, k ≠ m → t.lane k = s.lane k
  size : t.lanes.length = s.lanes.length
  gives : ∀ a b, s.appends m a b → s.bandGivenUp t a b
  rings : ∀ a, t.ring a = s.ring a
  frames : ∀ i, (t.frame i).state = (s.frame i).state
  beside : t.extents = s.extents ∧ t.earmarks = s.earmarks ∧ t.frontOut = s.frontOut ∧ t.phase = s.phase ∧ t.now = s.now

theorem giveUpBand_rest (n : Nat) (a : Actuator) (b : Nat) (s : State) :
    giveUpBand n a b s = { s with bm := (giveUpBand n a b s).bm } := by
  unfold giveUpBand
  dsimp only
  repeat' split
  all_goals rfl

theorem giveUpBand_ring (n : Nat) (a : Actuator) (b : Nat) (s : State) (x : Actuator) : (giveUpBand n a b s).ring x = s.ring x := by
  unfold giveUpBand park State.ring
  dsimp only
  by_cases hx : x = a
  · subst hx
    repeat' split
    all_goals simp [State.modBand, State.modMgr]
  · repeat' split
    all_goals simp [State.modBand, State.modMgr, Two.get_modify_of_ne _ _ _ _ hx]

theorem giveUpLaneBand_fields (n : Nat) (s : State) : (giveUpLaneBand n s).pool = s.pool ∧ (giveUpLaneBand n s).extents = s.extents ∧
    (giveUpLaneBand n s).earmarks = s.earmarks ∧ (giveUpLaneBand n s).frontOut = s.frontOut ∧
    (giveUpLaneBand n s).phase = s.phase ∧ (giveUpLaneBand n s).now = s.now ∧ ∀ x, (giveUpLaneBand n s).ring x = s.ring x := by
  unfold giveUpLaneBand
  split
  · rename_i a b _ _
    have ring := giveUpBand_ring n a b s
    rw [giveUpBand_rest] at ring ⊢
    exact ⟨rfl, rfl, rfl, rfl, rfl, rfl, ring⟩
  · exact ⟨rfl, rfl, rfl, rfl, rfl, rfl, fun _ => rfl⟩

/-- The close of a frame leaves every frame in its state. -/
theorem closeOpen_frameState (n i : Nat) (s : State) : ((closeOpen n s).frame i).state = (s.frame i).state := by
  have sealed : ∀ id (u : State), ((sealFrame n id u).frame i).state = (u.frame i).state := fun id u => by
    have padded : ((padFrame id u).frame i).state = (u.frame i).state :=
      frame_modFrame_keeps Frame.state (by exact fun _ => rfl) u id i
    have stamped : ((stampFrame n id (padFrame id u)).frame i).state = ((padFrame id u).frame i).state := by
      cases hb : ((padFrame id u).frame id).bound with
      | none => simp only [stampFrame, hb]; rfl
      | some l =>
        rw [stampFrame_eq hb]
        exact frame_modFrame_at (s := (assignSeq (padFrame id u)).2) Frame.state rfl i
    rw [sealFrame_eq]
    dsimp only
    split
    · exact stamped.trans padded
    · rw [frame_of_pool (joinQueue_pool _ _ _ _)]
      exact stamped.trans padded
  unfold closeOpen closeFrame
  dsimp only
  repeat' split
  · exact sealed _ _
  · exact frame_modFrame_keeps Frame.state (by exact fun _ => rfl) _ _ _
  · rfl

theorem evictLane_evicted {m : Nat} {s : State} (hm : m < s.lanes.length) : Evicted m s (evictLane m s) := by
  obtain ⟨pool, extents, earmarks, frontOut, phase, now, rings⟩ := giveUpLaneBand_fields m (closeOpen m s)
  have beside := besideLanes_iff (closeOpen_beside m s)
  have outside := (closeOpen_inner m s).outside
  simp only [State.outside, Outside.mk.injEq] at outside
  have closedPhase : (closeOpen m s).phase = s.phase := by simp [outside]
  have closedNow : (closeOpen m s).now = s.now := by simp [outside]
  have standing := closeOpen_standing m m s
  let u := giveUpLaneBand m (closeOpen m s)
  have size : u.lanes.length = s.lanes.length := (giveUpLaneBand_length m _).trans (closeOpen_length m s)
  have frame : (u.lane m).openFrame = none := (giveUpLaneBand_openFrame m m _).trans (closeOpen_openFrame hm)
  have state : (u.lane m).state = (s.lane m).state := by
    refine Eq.trans ?_ standing.1
    unfold u giveUpLaneBand
    split
    · rw [modLane_keeps Lane.state (by exact fun _ => rfl), lane_of_lanes (giveUpBand_lanes _ _ _ _)]
    · rfl
  have evicted : evictLane m s = u.modLane m (fun c =>
    { c with act := none, band := none, nextLba := none, lastAccept := some u.now, releaseTimer := none }) := rfl
  refine ⟨?_, fun k hk => ?_, ?_, ?_, ?_, ?_, ?_⟩
  · rw [evicted, State.lane_modLane _ _ _ _ (by rw [size]; exact hm), if_pos rfl]
    exact ⟨state, rfl, rfl, rfl, congrArg some (now.trans closedNow), frame⟩
  · rw [evicted, lane_modLane_ne (Ne.symm hk), giveUpLaneBand_lane_ne (Ne.symm hk), closeOpen_lane_ne (Ne.symm hk)]
  · rw [evicted, ← size]
    simp
  · intro a b h
    have same : (evictLane m s).bm = (giveUpLane m s).bm := rfl
    obtain ⟨⟨recorded, parked⟩, -⟩ := giveUpLane_gives h
    exact ⟨by rw [bandRec_congr same]; exact recorded, by rw [same]; exact parked⟩
  · intro a
    have ring : (closeOpen m s).ring a = s.ring a := by rw [State.ring, closeOpen_bm]; rfl
    exact (rings a).trans ring
  · exact fun i => (congrArg Frame.state (frame_of_pool pool i)).trans (closeOpen_frameState m i s)
  · exact ⟨extents.trans beside.1, earmarks.trans beside.2.1, frontOut.trans beside.2.2.2.1, phase.trans closedPhase, now.trans closedNow⟩

/-! ## The lane entered (R67, R70) -/

theorem enterLane_of_closed {n : Nat} {s : State} (h : n < s.lanes.length) (hc : (s.lane n).state = .closed) :
    (enterLane n s).lane n = { s.lane n with state := .opened, lastAccept := some s.now, releaseTimer := none } := by
  rw [enterLane, State.lane_modLane _ _ _ _ h, if_pos rfl, if_pos hc]

theorem enterLane_of_opened {n : Nat} {s : State} (h : n < s.lanes.length) (ho : (s.lane n).state = .opened) :
    (enterLane n s).lane n = { s.lane n with releaseTimer := none } := by
  rw [enterLane, State.lane_modLane _ _ _ _ h, if_pos rfl, if_neg (by simp [ho]), if_neg (by simp [ho])]

/-! ## From lane 6 to a stream lane (R70) -/

/-- Lane 6 finds no location: its frame is given back, and nothing else changed. -/
structure GaveBack (id : Nat) (s d : State) : Prop where
  rest : d = { s with pool := d.pool, lanes := d.lanes }
  size : d.lanes.length = 8
  own : d.lane 6 = { s.lane 6 with granted := none }
  others : ∀ m, m ≠ 6 → d.lane m = s.lane m
  freed : (d.frame id).state = .free

theorem laneSlot_of_noRing {s : State} {id : Nat} {f : Frame} (ho : s.mayOpen 6) (hid : id < s.pool.frames.length)
    (hf : s.obtains 6 id f) (hs : f.state = .inUse) (hp : f.pins = 0) (hr : s.ringChoice = none) :
    ∃ d, laneSlot 6 s = (some .place, d) ∧ GaveBack id s d := by
  obtain ⟨t, obtained, -, slot⟩ := laneSlot_of_mayOpen ho (by omega) hid hf
  have choice : t.ringChoice = none := by rw [obtained.rest]; exact hr
  have located : laneLocation 6 t = (none, t) := by simp [laneLocation, ringSegment, choice]
  have size : t.lanes.length = 8 := obtained.size.trans ho.1
  refine ⟨_, slot t located, ?_, (dropRequest_length 6 t).trans size, ?_, fun m hm => ?_, ?_⟩
  · rw [dropRequest_rest, obtained.rest]
  · rw [dropRequest_lane (by omega), obtained.own]
  · rw [dropRequest_lane_ne (Ne.symm hm), obtained.others m hm]
  · exact dropRequest_frees (by rw [obtained.own]) (by rw [obtained.frames]; exact hid) (by rw [obtained.frame]; exact hs)
      (by rw [obtained.frame]; exact hp)

/-- The block has gone from lane 6 to stream lane m, the frame of lane 6 released. -/
def TakenTo (p : DataPhase) (m id : Nat) (s v : State) : Prop :=
  exec .dataPull s = exec .dataPull v ∧ v.phase = some { p with lane := m, redirected := true } ∧
  (v.lane m).state = .opened ∧ (v.lane m).lastAccept = some s.now ∧ (v.lane m).releaseTimer = none ∧
  (v.lane m).act = none ∧ (v.lane m).openFrame = none ∧
  (v.lane 6).state = .opened ∧ (v.lane 6).granted = none ∧ (v.lane 6).releaseTimer = some s.now ∧
  .lane 6 ∉ v.pool.waitWrite ∧ (v.frame id).state = .free ∧
  (∀ a, v.ring a = s.ring a) ∧ v.extents = s.extents ∧ v.earmarks = s.earmarks ∧ v.frontOut = s.frontOut

/-- Lane m as the block finds it: just taken from CLOSED, or just evicted. -/
def Lane.takes (c : Lane) (now : Nat) : Prop :=
  c.act = none ∧ c.openFrame = none ∧ (c.state = .closed ∨ (c.state = .opened ∧ c.lastAccept = some now))

/-- What the taking of a stream lane leaves alone. -/
structure Spared (d e : State) : Prop where
  size : e.lanes.length = d.lanes.length
  six : e.lane 6 = d.lane 6
  rings : ∀ a, e.ring a = d.ring a
  frames : ∀ i, (e.frame i).state = (d.frame i).state
  beside : e.extents = d.extents ∧ e.earmarks = d.earmarks ∧ e.frontOut = d.frontOut ∧ e.phase = d.phase ∧ e.now = d.now

theorem takenTo_of_taken {s d e : State} {p : DataPhase} {m id : Nat} (hp : s.phase = some p) (hb : p.hasBlock = true)
    (h6 : p.lane = 6) (ho : s.mayOpen 6) (hslot : laneSlot 6 s = (some .place, d)) (hd : GaveBack id s d)
    (ht : takeStream d = (some m, e)) (hm : m < 6) (he : Spared d e) (hl : (e.lane m).takes e.now) :
    TakenTo p m id s (redirect m e) ∧ (redirect m e).bm = e.bm ∧
      (redirect m e).lane m = (enterLane m e).lane m := by
  obtain ⟨extents, earmarks, frontOut, phase, now⟩ := he.beside
  have dPhase : d.phase = s.phase := by rw [hd.rest]
  have dNow : d.now = s.now := by rw [hd.rest]
  have eNow : e.now = s.now := now.trans dNow
  have size : e.lanes.length = 8 := he.size.trans hd.size
  have six : e.lane 6 = { s.lane 6 with granted := none } := he.six.trans hd.own
  have redirects := redirect_redirects (m := m) (phase.trans (dPhase.trans hp)) (by omega) (by omega) (by omega) (by omega)
  obtain ⟨act, noFrame, taken⟩ := hl
  have own : (redirect m e).lane m = { e.lane m with state := .opened, lastAccept := some s.now, releaseTimer := none } := by
    rw [redirects.entered, ← eNow]
    rcases taken with closed | ⟨opened, last⟩
    · exact enterLane_of_closed (by omega) closed
    · rw [enterLane_of_opened (by omega) opened, ← opened, ← last]
  have left : (redirect m e).lane 6 = (e.lane 6).left s.now := by
    have left := redirects.left
    rwa [h6, eNow] at left
  have opened6 : (s.lane 6).state = .opened := ho.2.2.1
  have beside := besideLanes_iff redirects.beside
  refine ⟨⟨?_, redirects.phase, ?_, ?_, ?_, ?_, ?_, ?_, ?_, ?_, ?_, ?_, ?_, ?_, ?_, ?_⟩, beside.2.2.2.2.2.2, redirects.entered⟩
  · exact exec_of_taken hp hb h6 ho.2.1 hslot (by rw [hd.own]; simp [opened6]) ht (by omega) redirects (by rw [own])
      (by rw [own]; exact act) (by rw [own]; exact noFrame)
  · rw [own]
  · rw [own]
  · rw [own]
  · rw [own]; exact act
  · rw [own]; exact noFrame
  · rw [left, six]; simp [Lane.left, opened6]
  · rw [left]; rfl
  · rw [left, six]; simp [Lane.left, opened6]
  · have waits := redirects.waits
    rwa [h6] at waits
  · have frame := redirects.frames id
    rw [h6, dropRequest_frame_of_none (by rw [six])] at frame
    rw [frame, he.frames]
    exact hd.freed
  · intro a
    have ring : (redirect m e).ring a = e.ring a := by rw [State.ring, beside.2.2.2.2.2.2]; rfl
    rw [ring, he.rings, hd.rest]
    rfl
  · rw [beside.1, extents, hd.rest]
  · rw [beside.2.1, earmarks, hd.rest]
  · rw [beside.2.2.2.1, frontOut, hd.rest]

end Sys2Proof.Machine
end


section
/-! O24: the five things a pull can come to. -/

namespace Sys2Proof.Machine

theorem sendPull_eq {s : State} {p : DataPhase} (hp : s.phase = some p) (id : Nat) : sendPull p id s = evalMapPressure { s with
    frontOut := s.frontOut ++ [.dataPull p.tag]
    pool := { s.pool with frames := s.pool.frames.modify id (fun f =>
      { f with fill := f.fill + 1, promises := f.promises + 1
               runs := extendRuns f.runs (p.lba + p.next) f.fill none }) }
    lanes := s.lanes.modify p.lane (fun c => { c with idleTimer := none })
    phase := some { p with next := p.next + 1, hold := none, holdTimer := none
                           unanswered := p.unanswered ++ [⟨p.lba + p.next, id, (s.frame id).fill, p.lane⟩] }
    earmarks := s.earmarks + 1 } := by
  simp only [sendPull, State.send, State.modFrame, State.modLane, State.modPhase, hp, Option.map_some]

/-- Lane n's frame is opened in band b of a, whose record was r. -/
def OpenedInBand (n id : Nat) (f : Frame) (a : Actuator) (b : Nat) (r : Band) (s v : State) : Prop :=
  exec .dataPull s = exec .dataPull v ∧
  BoundOpen n id { f with bound := some ⟨a, .band, b, r.reserved⟩, ringCtr := 0 } (some a)
    (if r.reserved + 1 = s.spb then none else some b) s v ∧
  v.bandRec a b = r.reserve n s.spb ∧ (∀ a' b', a' ≠ a ∨ b' ≠ b → v.bandRec a' b' = s.bandRec a' b') ∧
  ∀ a', v.ring a' = s.ring a' ∧ (a' ≠ a → (v.bm.get a').parked = (s.bm.get a').parked)

theorem up_of_laneLost {s : State} {n : Nat} (hn : n ≤ 5) (h : s.laneLost n = false) {a : Actuator}
    (ha : (s.lane n).act = some a) : (s.port a).up = true := by
  simp only [State.laneLost, hn, ha, decide_true, Bool.true_and, Bool.or_eq_false_iff, Bool.not_eq_false'] at h
  exact h.2

/-- What a location in a band leaves of the bands is what the opened frame leaves of them. -/
theorem openedInBand_of_made {s u v : State} {n id : Nat} {f : Frame} {a : Actuator} {b : Nat} {r : Band}
    (he : exec .dataPull s = exec .dataPull v)
    (ho : BoundOpen n id { f with bound := some ⟨a, .band, b, r.reserved⟩, ringCtr := 0 } (some a)
      (if r.reserved + 1 = s.spb then none else some b) s v)
    (hbm : v.bm = u.bm) (h : BandMade a b (r.reserve n s.spb) s u) : OpenedInBand n id f a b r s v := by
  have made := h.congr rfl hbm
  exact ⟨he, ho, made.made, made.others, fun x => ⟨made.rings x, made.parked x⟩⟩

theorem Obtained.same {n id : Nat} {f : Frame} {s t : State} (h : Obtained n id f s t) :
    t.bm = s.bm ∧ t.spb = s.spb ∧ t.mcs = s.mcs ∧ t.credit = s.credit := by
  rw [h.rest]
  exact ⟨rfl, rfl, rfl, rfl⟩

section
variable {s : State} {p : DataPhase} {n id : Nat} {f : Frame} (hp : s.phase = some p) (hb : p.hasBlock = true) (hpn : p.lane = n)
  (ho : s.mayOpen n) (hid : id < s.pool.frames.length) (hf : s.obtains n id f) (hempty : f.fill = 0 ∧ f.runs = [])
include hp hb hpn ho hid hf hempty

/-- The band the lane holds gives its next segment (R45). -/
theorem openedInBand_of_holds (hn : n ≤ 5) (hl : s.laneLost n = false) {a : Actuator} {b : Nat} (h : s.holdsSegment n a b) :
    ∃ v, OpenedInBand n id f a b (s.bandRec a b) s v ∧ (v.bm.get a).parked = (s.bm.get a).parked ∧ v.credit = s.credit := by
  obtain ⟨v, u, again, bound, bm, credit, made, parked, credit'⟩ := exec_of_opened (loc := ⟨a, .band, b, (s.bandRec a b).reserved⟩)
    (ctr := 0) (act := some a) (Q := fun u => BandMade a b ((s.bandRec a b).reserve n s.spb) s u ∧ (u.bm.get a).parked = (s.bm.get a).parked ∧
      u.credit = s.credit) hp hb hpn (by omega) hl ho hid hf hempty
    (fun x _ hx => by cases hx; exact up_of_laneLost hn hl h.1.1) (fun t ht => by
      have held : t.holdsSegment n a b := by
        unfold State.holdsSegment State.appends
        rw [ht.own, ht.rest]
        exact h
      obtain ⟨u, found, located, made, parked, credit⟩ := laneLocation_of_holds (by rw [ht.size, ho.1]; omega) (by omega) held
      obtain ⟨bm, spb, -, before⟩ := ht.same
      rw [bandRec_congr bm, spb] at located made
      rw [bandRec_congr bm] at found
      exact ⟨u, found, located, made.congr bm.symm rfl, by rw [parked, bm], credit.trans before⟩)
  exact ⟨v, openedInBand_of_made again bound bm made, by rw [bm]; exact parked, credit.trans credit'⟩

/-- The band that answers the lane's request gives a segment (R43, R71). -/
theorem openedInBand_of_asked (hn : n ≤ 5) (hl : s.laneLost n = false) (hheld : ∀ a b, ¬ s.holdsSegment n a b) {a : Actuator}
    {b : Nat} {r : Band} (ha : s.asked n a) (h : s.answers n a b r) (hlen : b < (s.bm.get a).bands.length) (hres : r.reserved < s.spb) :
    ∃ v, OpenedInBand n id f a b r s v ∧ (v.bm.get a).parked = (s.bm.get a).parked.tail ∧
      (s.parkedAt n a b r → v.credit = s.credit) ∧
      (s.blankAt n a b r → v.blankCount a + 1 = s.blankCount a ∧
        (v.credit.get a).pressure = decide (v.blankCount a ≤ s.work.blankLow)) := by
  obtain ⟨v, u, again, bound, bm, credit, made, parked, continued, fresh⟩ := exec_of_opened (loc := ⟨a, .band, b, r.reserved⟩)
    (ctr := 0) (act := some a) (Q := fun u => BandMade a b (r.reserve n s.spb) s u ∧ (u.bm.get a).parked = (s.bm.get a).parked.tail ∧
      (s.parkedAt n a b r → u.credit = s.credit) ∧ (s.blankAt n a b r → u.blankCount a + 1 = s.blankCount a ∧
        (u.credit.get a).pressure = decide (u.blankCount a ≤ s.work.blankLow))) hp hb hpn (by omega) hl ho hid hf hempty
    (fun x _ hx => by cases hx; exact h.2.1)
    (fun t ht => laneLocation_of_asked ho.1 hn ht hheld (fun _ => up_of_laneLost hn hl) ha h hlen hres)
  have count : v.blankCount a = u.blankCount a := by rw [State.blankCount, bm]; rfl
  exact ⟨v, openedInBand_of_made again bound bm made, by rw [bm]; exact parked, fun h => credit.trans (continued h),
    fun h => by rw [count, credit]; exact fresh h⟩

/-- The ring gives lane 6 its tail's segment (R58). -/
theorem opened_in_ring (h6 : n = 6) {a : Actuator} (hs : s.service = .ready) (hu : (s.port a).up = true) (hfree : 1 ≤ s.ringFree a)
    (hc : s.ringChoice = some a) : ∃ v, exec .dataPull s = exec .dataPull v ∧
      BoundOpen n id { f with bound := some ⟨a, .cache, 0, (s.ring a).tail % s.mcs⟩, ringCtr := (s.ring a).tail }
        (s.lane n).act (s.lane n).band s v ∧
      v.ring a = { s.ring a with tail := (s.ring a).tail + 1 } ∧ v.ring (other a) = s.ring (other a) ∧
      ∀ x y, v.bandRec x y = s.bandRec x y := by
  subst h6
  obtain ⟨v, u, again, bound, bm, -, rings⟩ := exec_of_opened
    (Q := fun u => u.ring a = { s.ring a with tail := (s.ring a).tail + 1 } ∧ u.ring (other a) = s.ring (other a) ∧
      ∀ x y, u.bandRec x y = s.bandRec x y) hp hb hpn (by omega) (by simp [State.laneLost]) ho hid hf hempty
    (fun _ hle _ => by omega) (fun t ht => by
      have own : (t.lane 6).act = (s.lane 6).act ∧ (t.lane 6).band = (s.lane 6).band := by rw [ht.own]; exact ⟨rfl, rfl⟩
      obtain ⟨u, found, located, rings⟩ := laneLocation_of_ring (s := t) (a := a) (by rw [ht.rest]; exact hs) (by rw [ht.rest]; exact hu)
        (by rw [ht.rest]; exact hfree) (by rw [ht.rest]; exact hc)
      rw [own.1, own.2] at located
      obtain ⟨bm, -, mcs, -⟩ := ht.same
      have ring : ∀ x, t.ring x = s.ring x := fun x => by rw [State.ring, bm]; rfl
      rw [ring, mcs] at found
      rw [ring, ring] at rings
      exact ⟨u, found, located, rings.1, rings.2.1, fun x y => (rings.2.2 x y).trans (bandRec_congr bm x y)⟩)
  refine ⟨v, again, bound, ?_⟩
  simp only [State.ring, State.bandRec, bm] at rings ⊢
  exact rings

end

theorem enterLane_kept {n : Nat} {s : State} (h : n < s.lanes.length) (hc : (s.lane n).state ≠ .closed) :
    ((enterLane n s).lane n).state = (s.lane n).state ∧ ((enterLane n s).lane n).releaseTimer = none := by
  rw [enterLane, State.lane_modLane _ _ _ _ h, if_pos rfl, if_neg hc]
  split <;> exact ⟨rfl, rfl⟩

/-- The block goes to lane 6 (R70). -/
theorem redirected_to_six {s : State} {p : DataPhase} (hp : s.phase = some p) (hb : p.hasBlock = true) (h8 : s.lanes.length = 8)
    (hl : s.laneLost p.lane = true) : ∃ v, exec .dataPull s = exec .dataPull v ∧
      v.phase = some { p with lane := 6, redirected := true } ∧
      v.lane p.lane = (s.lane p.lane).left s.now ∧ .lane p.lane ∉ v.pool.waitWrite ∧ (v.lane 6).releaseTimer = none ∧
      ((s.lane 6).state = .closed → (v.lane 6).state = .opened ∧ (v.lane 6).lastAccept = some s.now) ∧
      ((s.lane 6).state ≠ .closed → (v.lane 6).state = (s.lane 6).state) ∧
      (∀ id, (s.lane p.lane).granted = some id → id < s.pool.frames.length → (s.frame id).state = .inUse →
        (s.frame id).pins = 0 → (v.frame id).state = .free) ∧
      v.bm = s.bm ∧ v.extents = s.extents ∧ v.earmarks = s.earmarks ∧ v.frontOut = s.frontOut := by
  have hn := lane_le_of_laneLost hl
  have redirects := redirect_redirects (m := 6) hp (by omega) (by omega) (by omega) (by omega)
  obtain ⟨extents, earmarks, -, frontOut, -, -, bm⟩ := besideLanes_iff redirects.beside
  refine ⟨_, exec_of_laneLost hp hb h8 hl, redirects.phase, redirects.left, redirects.waits, ?_, fun hc => ?_, fun hc => ?_,
    fun id hg hid hs hpins => ?_, bm, extents, earmarks, frontOut⟩
  · rw [redirects.entered]
    by_cases hc : (s.lane 6).state = .closed
    · rw [enterLane_of_closed (by omega) hc]
    · exact (enterLane_kept (by omega) hc).2
  · rw [redirects.entered, enterLane_of_closed (by omega) hc]
    exact ⟨rfl, rfl⟩
  · rw [redirects.entered]
    exact (enterLane_kept (by omega) hc).1
  · rw [redirects.frames]
    exact dropRequest_frees hg hid hs hpins

/-! ## The stream lane taken (R69) -/

theorem windowBound_iff (w : Settings) (m : Nat) :
    w.windows.all (fun w => !(w.enabled && decide (w.lane = m))) = true ↔ w.windowBound m = false := by
  rw [← List.not_any_eq_all_not, Settings.windowBound, Bool.not_eq_true']

theorem Spared.refl (d : State) : Spared d d := ⟨rfl, rfl, fun _ => rfl, fun _ => rfl, rfl, rfl, rfl, rfl, rfl⟩

theorem Evicted.spared {m : Nat} {d e : State} (h : Evicted m d e) (hm : m < 6) : Spared d e :=
  ⟨h.size, h.others 6 (by omega), h.rings, h.frames, h.beside⟩

/-- What lane 6 leaves of the stream lanes and the bands. -/
theorem GaveBack.same {id : Nat} {s d : State} (h : GaveBack id s d) : d.work = s.work ∧ d.now = s.now ∧ d.bm = s.bm ∧
    ∀ m < 6, d.lane m = s.lane m := by
  refine ⟨?_, ?_, ?_, fun m hm => h.others m (by omega)⟩ <;> rw [h.rest]
  rfl

section
variable {s d : State} {p : DataPhase} {m id : Nat} (hp : s.phase = some p) (hb : p.hasBlock = true) (h6 : p.lane = 6)
  (ho : s.mayOpen 6) (hslot : laneSlot 6 s = (some .place, d)) (hd : GaveBack id s d)
include hp hb h6 ho hslot hd

/-- The lowest CLOSED stream lane that no window binds. -/
theorem takenTo_closed (hm : m < 6) (hc : (s.lane m).state = .closed) (hw : s.work.windowBound m = false)
    (hlow : ∀ k < m, (s.lane k).state = .closed → s.work.windowBound k = true) (hact : (s.lane m).act = none)
    (hopen : (s.lane m).openFrame = none) : ∃ v, TakenTo p m id s v ∧ v.bm = s.bm := by
  obtain ⟨work, -, bm, lanes⟩ := hd.same
  have found : d.closedStream = some m := by
    refine find_range_eq hm (by rw [lanes m hm, work]; simp [hc, hw]) (fun k hk => ?_)
    rw [lanes k (by omega), work]
    by_cases hck : (s.lane k).state = .closed <;> simp [hck, hlow k hk]
  obtain ⟨taken, same, -⟩ := takenTo_of_taken hp hb h6 ho hslot hd (takeStream_of_closed found) hm (.refl d)
    (by rw [lanes m hm]; exact ⟨hact, hopen, .inl hc⟩)
  exact ⟨_, taken, same.trans bm⟩

/-- The OPEN one idle longest, which gives up its band. -/
theorem takenTo_idle (hclosed : ∀ k < 6, (s.lane k).state = .closed → s.work.windowBound k = true) (hm : m < 6)
    (hst : (s.lane m).state = .opened) (hw : s.work.windowBound m = false)
    (hleast : ∀ k < 6, s.work.windowBound k = false → (s.lane k).state = .opened →
      (s.lane m).lastAccept.getD 0 < (s.lane k).lastAccept.getD 0 ∨
        ((s.lane m).lastAccept.getD 0 = (s.lane k).lastAccept.getD 0 ∧ m ≤ k))
    (hidle : s.work.idleLimit ≤ s.now - (s.lane m).lastAccept.getD 0) :
    ∃ v, TakenTo p m id s v ∧ (v.lane m).band = none ∧ (v.lane m).nextLba = none ∧
      ∀ a b, s.appends m a b → s.bandGivenUp v a b := by
  obtain ⟨work, now, bm, lanes⟩ := hd.same
  have noneClosed : d.closedStream = none := by
    simp only [State.closedStream, List.find?_eq_none, List.mem_range]
    intro k hk
    rw [lanes k hk, work]
    by_cases hck : (s.lane k).state = .closed <;> simp [hck, hclosed k hk]
  have oldest : d.oldestStream = some m := by
    refine oldestStream_eq ⟨hm, by rw [work]; exact hw, by rw [lanes m hm]; exact hst⟩ (fun k hk hwk hok => ?_)
    rw [lanes k hk] at hok ⊢
    rw [lanes m hm]
    exact hleast k hk (by rwa [work] at hwk) hok
  have found : takeStream d = (some m, evictLane m d) := by
    rw [takeStream_of_old noneClosed oldest, lanes m hm, work, now, if_pos hidle]
  have evicted : Evicted m d (evictLane m d) := evictLane_evicted (by rw [hd.size]; omega)
  obtain ⟨state, act, band, next, last, noFrame⟩ := evicted.own
  have opened : ((evictLane m d).lane m).state = .opened := by rw [state, lanes m hm, hst]
  obtain ⟨taken, same, own⟩ := takenTo_of_taken hp hb h6 ho hslot hd found hm (evicted.spared hm)
    ⟨act, noFrame, .inr ⟨opened, by rw [last, evicted.beside.2.2.2.2]⟩⟩
  rw [enterLane_of_opened (by rw [evicted.size, hd.size]; omega) opened] at own
  refine ⟨_, taken, by rw [own]; exact band, by rw [own]; exact next, fun a b h => ?_⟩
  have appends : d.appends m a b := by
    unfold State.appends
    rw [lanes m hm, bm, bandRec_congr bm]
    exact h
  have gives := evicted.gives a b appends
  unfold State.bandGivenUp at gives ⊢
  rw [bandRec_congr same, same, ← bandRec_congr bm, ← bm]
  exact gives

end

/-- Settles O24: each way to a slot is an open of its own, after which the block's test finds the slot. -/
theorem pullPromisesSlot : Obligations.PullPromisesSlot := by
  unfold Obligations.PullPromisesSlot
  intro s p hp hstop hnext hwindow n lane obtains opens bound space
  have hb : p.hasBlock = true := by simp [DataPhase.hasBlock, hstop, hnext, Config.pullWindow, hwindow]
  refine ⟨fun id hl ho hfill hninth hcredit hfree => ?_, fun hn hl ho id f hf => ?_, fun h6 ho id f hf a hs hu hfree hbest => ?_,
    fun hl h8 => ?_, fun h6 ho id f hf hnone hst hpins => ?_⟩
  · rw [exec_dataPull hp, testGate_of_ready hp hb hl ho hfill hninth, passBlock_of_free hp ho hcredit hfree, sendPull_eq hp]
  · obtain ⟨hid, hfill, hruns, hobtains⟩ := hf
    intro up room streams first parkedAt blankAt answers asked held opened
    exact ⟨fun a b h => openedInBand_of_holds hp hb rfl ho hid hobtains ⟨hfill, hruns⟩ hn hl h,
      fun hheld a b r ha h hlen hres =>
        openedInBand_of_asked hp hb rfl ho hid hobtains ⟨hfill, hruns⟩ hn hl hheld ha h hlen hres⟩
  · obtain ⟨hid, hfill, hruns, hobtains⟩ := hf
    exact opened_in_ring hp hb rfl ho hid hobtains ⟨hfill, hruns⟩ h6 hs hu hfree (ringChoice_of hs hu hfree hbest)
  · exact redirected_to_six hp hb h8 hl
  · obtain ⟨hid, -, -, hobtains⟩ := hf
    intro free closed idle last redirected
    have noRing : s.ringChoice = none := ringChoice_none hnone
    have h6 : p.lane = 6 := h6
    have ho : s.mayOpen 6 := h6 ▸ ho
    obtain ⟨d, hslot, hd⟩ := laneSlot_of_noRing (f := f) ho hid (h6 ▸ hobtains) hst hpins noRing
    refine ⟨fun m hm hlow hact hopen => ?_, fun m hnone hm hleast hlimit => ?_⟩
    · obtain ⟨v, taken, bm⟩ := takenTo_closed hp hb h6 ho hslot hd hm.1 hm.2.1 ((windowBound_iff _ _).1 hm.2.2) (fun k hk hc => by
        by_contra hw
        exact hlow k hk ⟨by have := hm.1; omega, hc, (windowBound_iff _ _).2 (by simpa using hw)⟩) hact hopen
      exact ⟨v, taken, bm⟩
    · obtain ⟨v, taken, rest⟩ := takenTo_idle hp hb h6 ho hslot hd (fun k hk hc => by
        by_contra hw
        exact hnone k ⟨hk, hc, (windowBound_iff _ _).2 (by simpa using hw)⟩) hm.1 hm.2.1 ((windowBound_iff _ _).1 hm.2.2)
        (fun k hk hw hst => hleast k ⟨hk, hst, (windowBound_iff _ _).2 hw⟩) hlimit
      exact ⟨v, taken, rest⟩

end Sys2Proof.Machine
end
